-- ==== Sys2Proof/Word.lean ====
section
/-!
DEFINITION. The word types of the device and their plainest arithmetic: bytes, 32-bit register values, 64-bit scalar
registers, and the little-endian byte order that every multi-byte field has (00_scope.md, Table 0.4).
-/

namespace Sys2Proof

/-- One byte of any memory, register image or frame. -/
abbrev Byte := BitVec 8

/-- A management register (00_scope.md, R5). -/
abbrev W32 := BitVec 32

/-- A scalar register of a context (03_cores.md, R67), or a 64-bit counter (00_scope.md, R6). -/
abbrev W64 := BitVec 64

/-- A vector register of a context (03_cores.md, R67). -/
abbrev VReg := BitVec 8192

/-- A tile descriptor register (03_cores.md, R67). -/
abbrev TReg := BitVec 128

/-- A core ID (01_structure.md, R19). -/
abbrev CoreId := Fin 128

/-- A context number within its core (03_cores.md, Table 3.1). -/
abbrev CtxId := Fin 4

/-- A region ID (01_structure.md, R19). -/
abbrev RegionId := Fin 32

/-- A partition number (02_configuration_stream.md, R36). -/
abbrev PartId := Fin 32

end Sys2Proof
end

