-- ==== Sys2Proof/Syntax.lean ====
section
/-!
DEFINITION. The commands the block takes: one constructor per row of the table of operations and events, with the
operands each carries. An instruction of a core carries the core and the fields of its word, as Table 3.7 lays them out;
an event carries what the outside world brings with it (data read from a host, a sensor's reading, a peer's frame).
-/

namespace Sys2Proof

/-- Class R fields of an instruction word (03_cores.md, Table 3.7). -/
structure FieldsR where
  d   : BitVec 5
  a   : BitVec 5
  b   : BitVec 5
  c   : BitVec 5
  mod : BitVec 16
  rsv : BitVec 16
  deriving DecidableEq, Repr

/-- Class I fields. -/
structure FieldsI where
  d   : BitVec 5
  a   : BitVec 5
  sp  : BitVec 3
  rsv : BitVec 7
  imm : BitVec 32
  deriving DecidableEq, Repr

/-- Class L fields. -/
structure FieldsL where
  d   : BitVec 5
  rsv : BitVec 3
  imm : BitVec 48
  deriving DecidableEq, Repr

/-- Class B fields. -/
structure FieldsB where
  a    : BitVec 5
  b    : BitVec 5
  rsv  : BitVec 10
  disp : BitVec 32
  deriving DecidableEq, Repr

/-- Class T fields. -/
structure FieldsT where
  acc    : BitVec 3
  ta     : BitVec 4
  tb     : BitVec 4
  tc     : BitVec 4
  g      : BitVec 5
  anchor : BitVec 10
  rsv    : BitVec 6
  mod    : BitVec 16
  deriving DecidableEq, Repr

/-- Class S fields. -/
structure FieldsS where
  a   : BitVec 5
  b   : BitVec 5
  c   : BitVec 5
  rsv : BitVec 5
  tag : BitVec 16
  imm : BitVec 16
  deriving DecidableEq, Repr

/-- A PCI Express function of the device (12_host.md, R288): the operator's physical function, or the virtual function of a
partition. -/
inductive Fn where
  | pf
  | vf (p : PartId)
  deriving DecidableEq, Repr

/-- A disturbance of one cube in a pass: logical row and column 0 to 8 (8 is the checksum row or column), the position in
its 8 × 8 block, and the amount: units of the anchor in a data cube, a residue in a checking cube. -/
structure CubeUpset where
  row : Fin 9
  col : Fin 9
  r   : Fin 8
  c   : Fin 8
  amt : Int
  deriving DecidableEq, Repr


/-- A disturbance of one stored bit of a 64-byte block of a core's SRAM: the local index of the core, the kind of Table 7.5
(1 operand buffer, 2 accumulator file, 3 instruction memory, 4 inbox), the block, and the stored bit: data bits 0 to 511,
then check bits 0 to 71. -/
structure SramUpset where
  loc  : Fin 4
  kind : Nat
  blk  : Nat
  bit  : Nat
  deriving DecidableEq, Repr

/-- A ring of completion entries: of a partition's channel, or a notice ring of the physical function (12_host.md, R296,
R304). -/
inductive RingId where
  | ch (p : PartId) (c : Fin 8)
  | nr (r : Fin 8)
  deriving DecidableEq, Repr

/-- The registers that select a KV page (09_attention.md, R234). -/
inductive KvpSel where
  | part | vaLo | vaHi
  deriving DecidableEq, Repr

/-- What goes wrong in a pass of ATTN: disturbances and the parity reports of its first attempt, and of its replay. -/
structure PassUpset where
  us     : List CubeUpset
  parity : List (Fin 9 × Fin 9)
  again  : List CubeUpset
  parityAgain : List (Fin 9 × Fin 9)
  deriving DecidableEq, Repr

/-- What a training step of a chip-link port gives (11_chip_links.md, R269): for DESKEW the lane order and the
polarity, for WIDTH the quads that pass at both ends, for IDENTIFY the peer's identity prefix and port. -/
inductive TrainRes where
  | detected
  | equalized
  | deskewed (reversed : Bool) (polarity : BitVec 16)
  | widths (quads : BitVec 4)
  | identified (id : List Byte) (peer : Nat)
  deriving DecidableEq, Repr

/-- How a bundle's training ends (17_package.md, R408, R415): without a forwarded clock, locked, or locked by the full training that
followed saved settings that failed. -/
inductive BundleLock where
  | none | locked | fallback
  deriving DecidableEq, Repr

/-- A monitored clock of a die (14_power_clocks.md, Table 14.6). -/
inductive MonClk where
  | sysref
  | aclk (r : RegionId)
  | fclk
  | hclk
  | mclk
  | lane (port : Fin 24)
  | dieLink
  deriving DecidableEq, Repr

/-- A sensor's answer in a reading slot (15_thermal.md, R349): its ID and its temperature in units of 0.125 K, or none where
it did not answer; for the inlet, sensor 300, the resistance of its thermistor in ohms (17_package.md, R403). -/
structure Reading where
  id   : Fin 301
  temp : Option Int
  ohms : Nat
  deriving DecidableEq, Repr

/-- What the boot chain reads from flash (13_trust.md, Table 13.4), the life counts that Tops has saved there (15_thermal.md,
R367), and the identity prefix that its saved settings carry (17_package.md, R415). -/
structure Flash where
  patchA : List Byte
  patchB : List Byte
  topsA  : List Byte
  topsB  : List Byte
  chain  : List Byte
  kt0    : List Byte
  kt1    : List Byte
  life   : List Nat
  owner  : List Byte
  deriving DecidableEq, Repr

/-- What the PCI Express link has trained to (12_host.md, Table 12.10). -/
structure PcieLink where
  width : Fin 17
  speed : Fin 7
  flit  : Bool
  deriving DecidableEq, Repr

/-- An access to configuration space (12_host.md, R304; 17_package.md, R416): a read, a write, or a write that masks or unmasks
a vector of MSI-X. -/
inductive ConfigAcc where
  | read
  | write
  | mask (v : Nat) (on : Bool)
  deriving DecidableEq, Repr

/-- A codeword pair as a port receives it (11_chip_links.md, R265): its PAIR_SEQ, and the symbols of codeword A and of codeword B that
arrived wrong. -/
structure RxPair where
  seq  : Nat
  errA : Nat
  errB : Nat
  deriving DecidableEq, Repr

/-- A flit as a port takes it (11_chip_links.md, R265, R266): its bytes, its codeword pair, and its position in it. -/
structure RxFlit where
  bytes : List Byte
  pair  : RxPair
  pos   : Fin 5
  deriving DecidableEq, Repr

/-- The scope byte of a request, and its bytes 2 and 3 (13_trust.md, R322). -/
structure ReqHead where
  scope : Nat
  pad   : Nat
  deriving DecidableEq, Repr

/-- A request of a function for the certificate chain (13_trust.md, R322). -/
structure ChainReq where
  fn   : Fn
  head : ReqHead
  deriving DecidableEq, Repr

/-- What a management or Data Object Exchange client asks about (13_trust.md, R322): the scope byte,
bytes 2 and 3, and the nonce. -/
structure ReportReq where
  scope : Nat
  pad   : Nat
  nonce : List Byte
  deriving DecidableEq, Repr

/-- A field-repair record (17_package.md, R414, Table 17.12), by its type and the fields that type names: a region and a
physical core 0 to 4, a cube row, a bank and row of a slice, the kind and row of an SRAM, a row of a stack, a lane of a bundle,
a sensor. -/
inductive FieldRec where
  | coreOut (r : Nat) (k : Nat)
  | cubeRow (r : Nat) (k : Nat) (row : Nat)
  | nearRow (r : Nat) (k : Nat) (layer : Nat) (bank : Nat) (row : Nat)
  | sramRow (r : Nat) (k : Nat) (kind : Nat) (row : Nat)
  | stackPpr (n : Nat) (ch : Nat) (bank : Nat) (row : Nat)
  | lane (pair : Nat) (b : Nat) (lane : Nat)
  | sensorMask (id : Nat)
  | other
  deriving DecidableEq, Repr

/-- What a router can discard: the frame at a place of the mesh, or a request of a core by its number, that of a stream or of a fetch
of an ATTN. -/
inductive MeshRef where
  | frame (j : Nat)
  | request (k : CoreId) (id : Nat)
  deriving DecidableEq, Repr

/-- A unit of the hub bus (13_trust.md, Table 13.2), Tops data RAM (Table 13.1), or the mailbox in it (R310). -/
inductive HubUnit where
  | fuses | sec | cfg | memories | telemetry | flash | topsCode | topsData | mailbox
  deriving DecidableEq, Repr

/-- A memory of the hub (13_trust.md, Table 13.1). -/
inductive HubMem where
  | rom | patch | data | topsCode | topsData
  deriving DecidableEq, Repr

/-- The commands of the block, one constructor per row of the table of operations and events, in its order. -/
inductive Instr where
  /-- REGISTER_WRITE (R4). -/
  | registerWrite (fn : Fn) (off : Nat) (size : Nat) (val : BitVec 64)
  /-- RW1C_CLEAR (R4). -/
  | rw1cClear (fn : Fn) (off : Nat) (val : BitVec 32) (hw : BitVec 32)
  /-- COUNTER_LOW_READ (R6). -/
  | counterLowRead (fn : Fn) (off : Nat)
  /-- CONFIG_REQUEST (R416). -/
  | configRequest (fn : Fn) (acc : ConfigAcc)
  /-- LOAD (R56). -/
  | load
  /-- ABORT (R50). -/
  | abort
  /-- STREAM_FETCH_COMPLETE (R48). -/
  | streamFetchComplete (bytes : List Byte)
  /-- FETCH_FAULT (R51). -/
  | fetchFault (offset : Nat)
  /-- STREAM_COMMIT (R50). -/
  | streamCommit
  /-- TEARDOWN_COMMIT (R52). -/
  | teardownCommit
  /-- TABLE_STORED (R318). -/
  | tableStored
  /-- TABLE_STORED_TIMEOUT (R318). -/
  | tableStoredTimeout
  /-- NOP (R70). -/
  | nop (k : CoreId) (w : BitVec 64)
  /-- ADD (R70). -/
  | add (k : CoreId) (f : FieldsR)
  /-- SUB (R70). -/
  | sub (k : CoreId) (f : FieldsR)
  /-- MUL (R70). -/
  | mul (k : CoreId) (f : FieldsR)
  /-- MULHU (R70). -/
  | mulhu (k : CoreId) (f : FieldsR)
  /-- AND (R70). -/
  | andR (k : CoreId) (f : FieldsR)
  /-- OR (R70). -/
  | orR (k : CoreId) (f : FieldsR)
  /-- XOR (R70). -/
  | xor (k : CoreId) (f : FieldsR)
  /-- SHL (R70). -/
  | shl (k : CoreId) (f : FieldsR)
  /-- SHR (R70). -/
  | shr (k : CoreId) (f : FieldsR)
  /-- SRA (R70). -/
  | sra (k : CoreId) (f : FieldsR)
  /-- SLT (R70). -/
  | slt (k : CoreId) (f : FieldsR)
  /-- SLTU (R70). -/
  | sltu (k : CoreId) (f : FieldsR)
  /-- MIN (R70). -/
  | minR (k : CoreId) (f : FieldsR)
  /-- MAX (R70). -/
  | maxR (k : CoreId) (f : FieldsR)
  /-- TSET (R68). -/
  | tset (k : CoreId) (f : FieldsR)
  /-- TGET (R70). -/
  | tget (k : CoreId) (f : FieldsR)
  /-- RDID (R70). -/
  | rdid (k : CoreId) (f : FieldsR)
  /-- ADDI (R70). -/
  | addi (k : CoreId) (f : FieldsI)
  /-- ANDI (R70). -/
  | andi (k : CoreId) (f : FieldsI)
  /-- ORI (R70). -/
  | ori (k : CoreId) (f : FieldsI)
  /-- XORI (R70). -/
  | xori (k : CoreId) (f : FieldsI)
  /-- SHLI (R70). -/
  | shli (k : CoreId) (f : FieldsI)
  /-- SHRI (R70). -/
  | shri (k : CoreId) (f : FieldsI)
  /-- SRAI (R70). -/
  | srai (k : CoreId) (f : FieldsI)
  /-- SLTI (R70). -/
  | slti (k : CoreId) (f : FieldsI)
  /-- SLTUI (R70). -/
  | sltui (k : CoreId) (f : FieldsI)
  /-- LD (R69). -/
  | ld (k : CoreId) (f : FieldsI)
  /-- ST (R69). -/
  | st (k : CoreId) (f : FieldsI)
  /-- LDW (R69). -/
  | ldw (k : CoreId) (f : FieldsI)
  /-- STW (R69). -/
  | stw (k : CoreId) (f : FieldsI)
  /-- LI (R70). -/
  | li (k : CoreId) (f : FieldsL)
  /-- LIH (R70). -/
  | lih (k : CoreId) (f : FieldsL)
  /-- BEQ (R70). -/
  | beq (k : CoreId) (f : FieldsB)
  /-- BNE (R70). -/
  | bne (k : CoreId) (f : FieldsB)
  /-- BLT (R70). -/
  | blt (k : CoreId) (f : FieldsB)
  /-- BGE (R70). -/
  | bge (k : CoreId) (f : FieldsB)
  /-- BLTU (R70). -/
  | bltu (k : CoreId) (f : FieldsB)
  /-- BGEU (R70). -/
  | bgeu (k : CoreId) (f : FieldsB)
  /-- JAL (R70). -/
  | jal (k : CoreId) (f : FieldsB)
  /-- JR (R70). -/
  | jr (k : CoreId) (f : FieldsB)
  /-- VLD (R70). -/
  | vld (k : CoreId) (f : FieldsI)
  /-- VST (R70). -/
  | vst (k : CoreId) (f : FieldsI)
  /-- VADD (R71). -/
  | vadd (k : CoreId) (f : FieldsR)
  /-- VSUB (R71). -/
  | vsub (k : CoreId) (f : FieldsR)
  /-- VMUL (R71). -/
  | vmul (k : CoreId) (f : FieldsR)
  /-- VFMA (R71). -/
  | vfma (k : CoreId) (f : FieldsR)
  /-- VMAX (R71). -/
  | vmax (k : CoreId) (f : FieldsR)
  /-- VMIN (R71). -/
  | vmin (k : CoreId) (f : FieldsR)
  /-- VAND (R70). -/
  | vand (k : CoreId) (f : FieldsR)
  /-- VOR (R70). -/
  | vor (k : CoreId) (f : FieldsR)
  /-- VXOR (R70). -/
  | vxor (k : CoreId) (f : FieldsR)
  /-- VSHL (R70). -/
  | vshl (k : CoreId) (f : FieldsR)
  /-- VSRA (R70). -/
  | vsra (k : CoreId) (f : FieldsR)
  /-- VCVT (R71). -/
  | vcvt (k : CoreId) (f : FieldsR)
  /-- VRSUM (R71). -/
  | vrsum (k : CoreId) (f : FieldsR)
  /-- VRMAX (R71). -/
  | vrmax (k : CoreId) (f : FieldsR)
  /-- VBCAST (R70). -/
  | vbcast (k : CoreId) (f : FieldsR)
  /-- VEXT (R70). -/
  | vext (k : CoreId) (f : FieldsR)
  /-- ACCZ (R109). -/
  | accz (k : CoreId) (f : FieldsT)
  /-- MMA (R82). -/
  | mma (k : CoreId) (f : FieldsT)
  /-- EPI (R114). -/
  | epi (k : CoreId) (f : FieldsT)
  /-- ATTN (R209). -/
  | attn (k : CoreId) (f : FieldsT)
  /-- TWAIT (R111). -/
  | twait (k : CoreId) (f : FieldsT)
  /-- ACCRD (R113). -/
  | accrd (k : CoreId) (f : FieldsT)
  /-- ACCWR (R113). -/
  | accwr (k : CoreId) (f : FieldsT)
  /-- STRM_SET (R128). -/
  | strmSet (k : CoreId) (f : FieldsS)
  /-- STRM_GO (R140). -/
  | strmGo (k : CoreId) (f : FieldsS)
  /-- STRM_WAIT (R130). -/
  | strmWait (k : CoreId) (f : FieldsS)
  /-- STRM_SWAP (R138). -/
  | strmSwap (k : CoreId) (f : FieldsS)
  /-- STRM_CANCEL (R149). -/
  | strmCancel (k : CoreId) (f : FieldsS)
  /-- STRM_FILL (R152). -/
  | strmFill (k : CoreId) (f : FieldsS)
  /-- SPR_ISSUE (R190). -/
  | sprIssue (k : CoreId) (f : FieldsS)
  /-- SPR_FENCE (R204). -/
  | sprFence (k : CoreId) (f : FieldsS)
  /-- COL_ISSUE (R277). -/
  | colIssue (k : CoreId) (f : FieldsS)
  /-- SYNC_ADD (R71). -/
  | syncAdd (k : CoreId) (f : FieldsS)
  /-- SYNC_WAIT (R252). -/
  | syncWait (k : CoreId) (f : FieldsS)
  /-- SYNC_ARM (R250). -/
  | syncArm (k : CoreId) (f : FieldsS)
  /-- SYNC_ABORT (R251). -/
  | syncAbort (k : CoreId) (f : FieldsS)
  /-- SYNC_CANCEL (R251). -/
  | syncCancel (k : CoreId) (f : FieldsS)
  /-- SEND (R74). -/
  | send (k : CoreId) (f : FieldsS)
  /-- RECV (R75). -/
  | recv (k : CoreId) (f : FieldsS)
  /-- HPOST (R297). -/
  | hpost (k : CoreId) (f : FieldsS)
  /-- HALT (R70). -/
  | halt (k : CoreId) (f : FieldsS)
  /-- CTX_START (R70). -/
  | ctxStart (k : CoreId) (f : FieldsS)
  /-- TASK_BEGIN (R78). -/
  | taskBegin (k : CoreId) (f : FieldsS)
  /-- TASK_END (R78). -/
  | taskEnd (k : CoreId) (f : FieldsS)
  /-- FENCE (R66). -/
  | fence (k : CoreId) (f : FieldsS)
  /-- FEXIT (R80). -/
  | fexit (k : CoreId) (f : FieldsS)
  /-- YIELD (R64). -/
  | yield (k : CoreId) (f : FieldsS)
  /-- BRK (R70). -/
  | brk (k : CoreId) (f : FieldsS)
  /-- CONTEXT_SWITCH (R64). -/
  | contextSwitch (k : CoreId)
  /-- FAULT_RECORD_WRITE (R371). -/
  | faultRecordWrite
  /-- MMA_PASS_START (R93). -/
  | mmaPassStart (k : CoreId)
  /-- PASS_COMMIT (R92). -/
  | passCommit (k : CoreId) (us : List CubeUpset) (parity : List (Fin 9 × Fin 9))
  /-- REPLAY_START (R99). -/
  | replayStart (k : CoreId)
  /-- ACCZ_EXECUTE (R109). -/
  | acczExecute (k : CoreId)
  /-- ACCRD_EXECUTE (R113). -/
  | accrdExecute (k : CoreId)
  /-- ACCWR_EXECUTE (R113). -/
  | accwrExecute (k : CoreId)
  /-- EPI_START (R117). -/
  | epiStart (k : CoreId)
  /-- EPI_TILE_RELEASE (R111). -/
  | epiTileRelease (k : CoreId)
  /-- EPI_COMPLETE (R117). -/
  | epiComplete (k : CoreId)
  /-- ATTN_START (R210). -/
  | attnStart (k : CoreId)
  /-- ATTN_FETCH_RETURN (R230). -/
  | attnFetchReturn (k : CoreId) (i : Nat) (ups : List PassUpset)
  /-- THIN_SUM_RETURN (R220). -/
  | thinSumReturn (j : Nat)
  /-- ATTN_COMPLETE (R216). -/
  | attnComplete (k : CoreId)
  /-- STREAM_REQUEST_ISSUE (R141). -/
  | streamRequestIssue (k : CoreId) (ats : Bool)
  /-- STREAM_REQUEST_RETURN (R147). -/
  | streamRequestReturn (k : CoreId) (i : Nat) (data : List Byte) (err : Bool)
  /-- DEADLINE_MISS (R151). -/
  | deadlineMiss (k : CoreId) (c : CtxId) (slot : Fin 8)
  /-- SCRUB_READ (R164). -/
  | scrubRead (k : CoreId) (ups : List Nat)
  /-- CET_EVENT (R165). -/
  | cetEvent (r : RegionId) (ups : List SramUpset)
  /-- NSL_ROW_REPAIR_DONE (R167). -/
  | nslRowRepairDone (k : CoreId) (i : Nat)
  /-- SRAM_ROW_RETIRE_DONE (R375). -/
  | sramRowRetireDone (k : CoreId) (i : Nat)
  /-- NSL_REFRESH (R170). -/
  | nslRefresh (k : CoreId) (bank : Fin 64)
  /-- NSL_WRITE_RAW (R173). -/
  | nslWriteRaw (k : CoreId) (layer : Fin 4) (bank : Fin 16) (block : Fin 32)
  /-- NSL_READ_RAW (R173). -/
  | nslReadRaw (k : CoreId) (layer : Fin 4) (bank : Fin 16) (block : Fin 32)
  /-- NSL_READ_CHECKED (R173). -/
  | nslReadChecked (k : CoreId) (layer : Fin 4) (bank : Fin 16) (block : Fin 32)
  /-- STACK_UNIT_GRANT (R180). -/
  | stackUnitGrant (n : Fin 8)
  /-- STACK_SCRUB_READ (R183). -/
  | stackScrubRead (n : Fin 8) (ch : Fin 32) (ups : List Nat)
  /-- STACK_CET_EVENT (R184). -/
  | stackCetEvent (n : Fin 8)
  /-- STACK_PPR_DONE (R184). -/
  | stackPprDone (n : Fin 8) (i : Nat)
  /-- STACK_REFRESH (R187). -/
  | stackRefresh (n : Fin 8) (ch : Fin 32) (bank : Fin 64)
  /-- TG_WRITE (R188). -/
  | tgWrite (n : Fin 8) (pattern : Fin 16)
  /-- TG_READ (R188). -/
  | tgRead (n : Fin 8) (pattern : Fin 16)
  /-- TG_WRITE_READ (R188). -/
  | tgWriteRead (n : Fin 8) (pattern : Fin 16)
  /-- TG_MARCH (R188). -/
  | tgMarch (n : Fin 8) (pattern : Fin 16)
  /-- TG_DONE (R189). -/
  | tgDone (n : Fin 8)
  /-- SPROUT_COMMAND_ARRIVE (R198). -/
  | sproutCommandArrive (j : Nat)
  /-- GEMV (R194). -/
  | gemv (n : Fin 8) (parity : Option (Fin 32 × Bool))
  /-- GEMV_ACC (R194). -/
  | gemvAcc (n : Fin 8) (parity : Option (Fin 32 × Bool))
  /-- FILL (R190). -/
  | fill (n : Fin 8) (parity : Option (Fin 32 × Bool))
  /-- QK_THIN (R200). -/
  | qkThin (n : Fin 8) (parity : Option (Fin 32 × Bool))
  /-- PV_THIN (R200). -/
  | pvThin (n : Fin 8) (parity : Option (Fin 32 × Bool))
  /-- SPROUT_COMMAND_COMPLETE (R203). -/
  | sproutCommandComplete (n : Fin 8)
  /-- SPR_HFENCE (R204). -/
  | sprHfence (n : Fin 8)
  /-- PART_SPRFENCE (R302). -/
  | partSprfence (p : PartId)
  /-- ALLOC (R228). -/
  | alloc (p : PartId)
  /-- SHARE (R228). -/
  | share (p : PartId)
  /-- KVP_RELEASE (R228). -/
  | kvpRelease (p : PartId)
  /-- COW (R228). -/
  | cow (p : PartId)
  /-- KVP_COPY_END (R229). -/
  | kvpCopyEnd (p : PartId)
  /-- KVP_SELECT (R234). -/
  | kvpSelect (w : KvpSel) (v : W32)
  /-- MSG_ARRIVE (R247). -/
  | msgArrive (j : Nat)
  /-- ACK (R248). -/
  | ack (j : Nat)
  /-- REFUSE (R248). -/
  | refuse (j : Nat)
  /-- RESUME_SEND (R248). -/
  | resumeSend (k : CoreId) (c : CtxId)
  /-- RESUME (R248). -/
  | resume (j : Nat)
  /-- ERROR (R248). -/
  | error (j : Nat)
  /-- MESH_MISROUTE (R244). -/
  | meshMisroute (m : MeshRef) (t : Fin 4)
  /-- SYNC_OP_ADD (R251). -/
  | syncOpAdd (j : Nat)
  /-- SYNC_OP_ARM (R251). -/
  | syncOpArm (j : Nat)
  /-- SYNC_OP_ABORT (R251). -/
  | syncOpAbort (j : Nat)
  /-- SYNC_OP_CANCEL (R251). -/
  | syncOpCancel (j : Nat)
  /-- SYNC_OP_WAIT (R252). -/
  | syncOpWait (j : Nat)
  /-- SYNC_REPLY (R252). -/
  | syncReply (j : Nat)
  /-- RED_CHUNK_ARRIVE (R258). -/
  | redChunkArrive (j : Nat)
  /-- RED_COMBINE (R256). -/
  | redCombine (r : RegionId) (i : Nat)
  /-- LINK_DATA_FLIT (R267). -/
  | linkDataFlit (p : Fin 24) (flit : List Byte) (pair : RxPair) (pos : Fin 5)
  /-- LINK_CTL_FLIT (R267). -/
  | linkCtlFlit (p : Fin 24) (flit : RxFlit)
  /-- UP (R281). -/
  | up (p : Fin 24)
  /-- DOWN (R281). -/
  | down (p : Fin 24)
  /-- FRAME_ACK (R268). -/
  | frameAck (p : Fin 24)
  /-- HELLO (R276). -/
  | hello (p : Fin 24)
  /-- SUBTREE (R275). -/
  | subtree (p : Fin 24)
  /-- READY (R275). -/
  | ready (p : Fin 24)
  /-- TREE_RESET (R275). -/
  | treeReset (p : Fin 24)
  /-- FAIL (R283). -/
  | fail (p : Fin 24)
  /-- THROTTLE_NOTICE (R285). -/
  | throttleNotice (p : Fin 24)
  /-- DESC (R281). -/
  | desc (p : Fin 24)
  /-- HELLO_SEND (R275). -/
  | helloSend (p : PartId) (t : Fin 8)
  /-- ENGINE_COMBINE (R282). -/
  | engineCombine (p : PartId) (t : Fin 8) (i : Nat)
  /-- PORT_TRAIN_STEP_DONE (R269). -/
  | portTrainStepDone (p : Fin 24) (r : TrainRes)
  /-- PORT_TRAIN_TIMEOUT (R269). -/
  | portTrainTimeout (p : Fin 24)
  /-- PORT_RETRAIN (R270). -/
  | portRetrain (p : Fin 24)
  /-- LNK_RETRAIN (R270). -/
  | lnkRetrain (p : Fin 24)
  /-- LNK_FULL (R287). -/
  | lnkFull (p : Fin 24)
  /-- CHIP_LANE_LOCK_LOSS (R270). -/
  | chipLaneLockLoss (p : Fin 24) (lane : Fin 16)
  /-- WINDOW_WRITE (R291). -/
  | windowWrite (p : PartId) (c : Fin 8) (off : Nat) (data : List Byte)
  /-- MESSAGE_TAKE (R292). -/
  | messageTake (p : PartId) (c : Fin 8)
  /-- HOST_BODY_FORWARD (R293). -/
  | hostBodyForward
  /-- ENTRY_WRITE (R297). -/
  | entryWrite (t : RingId) (fail : Bool) (bad : Bool)
  /-- RING_ENABLE (R297). -/
  | ringEnable (t : RingId) (log2 : Nat) (arm : Bool)
  /-- RING_ARM (R297). -/
  | ringArm (t : RingId)
  /-- RING_HEAD_WRITE (R297). -/
  | ringHeadWrite (t : RingId) (v : W32)
  /-- RESTART (R292). -/
  | restart (p : PartId) (c : Fin 8)
  /-- VF_FLR (R289). -/
  | vfFlr (p : PartId)
  /-- PF_FLR (R289). -/
  | pfFlr
  /-- BAR4_READ (R301). -/
  | bar4Read (off : Nat) (len : Nat)
  /-- BAR4_WRITE (R301). -/
  | bar4Write (off : Nat) (data : List Byte)
  /-- BAR4_ENABLE (R301). -/
  | bar4Enable
  /-- SNAP (R305). -/
  | snap (p : PartId)
  /-- SUBMIT_STREAM (R310). -/
  | submitStream (len : Nat)
  /-- CLAIM (R46). -/
  | claim (pin : Option Nat) (timer : Option Nat)
  /-- RELEASE (R310). -/
  | release (pin : Option Nat) (timer : Option Nat)
  /-- RESET_REQUEST (R380). -/
  | resetRequest (unit : Nat) (target : Nat) (ctx : Nat)
  /-- POWER_CAP (R333). -/
  | powerCap (v : Nat)
  /-- REPORT (R322). -/
  | report (req : ReportReq)
  /-- COMMIT (R313). -/
  | commit
  /-- REVOKE_KEY0 (R313). -/
  | revokeKey0
  /-- IMG_LOAD (R314). -/
  | imgLoad
  /-- IMG_FETCH_COMPLETE (R314). -/
  | imgFetchComplete (bytes : List Byte)
  /-- RECOVER (R319). -/
  | recover
  /-- KT_FETCH_COMPLETE (R319). -/
  | ktFetchComplete (bytes : List Byte)
  /-- DOE_REPORT (R322). -/
  | doeReport (fn : Fn) (req : ReportReq)
  /-- DOE_CHAIN (R322). -/
  | doeChain (req : ChainReq)
  /-- GUEST_CERT_OFFER (R325). -/
  | guestCertOffer (g : Fin 2) (cert : List Byte)
  /-- GUEST_CHALLENGE_RESPONSE (R325). -/
  | guestChallengeResponse (g : Fin 2) (sig : List Byte)
  /-- GUEST_CHALLENGE_TIMEOUT (R325). -/
  | guestChallengeTimeout (g : Fin 2)
  /-- HEARTBEAT_CHECK (R377). -/
  | heartbeatCheck
  /-- TOPS_BUS_ACCESS (R309). -/
  | topsBusAccess (u : HubUnit) (write : Option (BitVec 32)) (off : Nat) (addr : Nat)
  /-- HUB_MEM_UNCORRECTABLE (R378). -/
  | hubMemUncorrectable (m : HubMem)
  /-- CONTROL_ROUND (R331). -/
  | controlRound (watts : List Nat) (pkg : Nat) (mv : Nat) (amps : Nat)
  /-- PWR_CAP_WRITE (R333). -/
  | pwrCapWrite (v : Nat)
  /-- PWR_RAMP_WRITE (R334). -/
  | pwrRampWrite (v : Nat)
  /-- BRAKE_ASSERT (R335). -/
  | brakeAssert
  /-- BRAKE_RELEASE (R335). -/
  | brakeRelease
  /-- BRAKE_HOLD_END (R335). -/
  | brakeHoldEnd
  /-- DOZE_ENTRY (R338). -/
  | dozeEntry (r : RegionId)
  /-- SLEEP_ENTRY (R338). -/
  | sleepEntry (r : RegionId)
  /-- WAKE_COMPLETE (R339). -/
  | wakeComplete (r : RegionId)
  /-- STACK_SELF_REFRESH_ENTRY (R340). -/
  | stackSelfRefreshEntry (n : Fin 8)
  /-- STACK_SELF_REFRESH_EXIT (R340). -/
  | stackSelfRefreshExit (n : Fin 8)
  /-- CLOCK_MONITOR_WINDOW (R343). -/
  | clockMonitorWindow (die : Nat) (counts : List (MonClk × Nat))
  /-- SYSREF_RESTORED (R345). -/
  | sysrefRestored
  /-- TRIM_WINDOW (R346). -/
  | trimWindow (count : Nat)
  /-- REGION_RAIL_FAULT (R16). -/
  | regionRailFault (r : RegionId)
  /-- SENSOR_READ (R350). -/
  | sensorRead (rs : List Reading)
  /-- HOUSEKEEPING_ROUND (R350). -/
  | housekeepingRound (rs : List Reading)
  /-- SHUTDOWN_RAILS_OFF (R362). -/
  | shutdownRailsOff
  /-- THM_UNMASK (R353). -/
  | thmUnmask (id : Nat)
  /-- FLOW_PULSE (R361). -/
  | flowPulse
  /-- FLOW_STOP (R361). -/
  | flowStop
  /-- LIFE_SAVE (R367). -/
  | lifeSave
  /-- RESET_CONTEXT (R379). -/
  | resetContext (k : CoreId) (c : CtxId)
  /-- RESET_CORE (R379). -/
  | resetCore (k : CoreId)
  /-- RESET_REGION (R379). -/
  | resetRegion (r : RegionId)
  /-- RESET_PARTITION (R382). -/
  | resetPartition (p : PartId)
  /-- PARTITION_RESET_DRAINED (R382). -/
  | partitionResetDrained
  /-- RESET_COMPLETE (R379). -/
  | resetComplete
  /-- RESET_CHIP (R379). -/
  | resetChip
  /-- RESET_POWER_CYCLE (R388). -/
  | resetPowerCycle
  /-- RESET_DIE (R391). -/
  | resetDie (d : Nat)
  /-- CHIP_RESET_TIMEOUT (R388). -/
  | chipResetTimeout
  /-- DL_FLIT_RECEIVE (R407). -/
  | dlFlitReceive (pair : Fin 22) (b : Fin 8) (dir : Fin 2) (flit : List Byte) (lchk : List Nat)
  /-- DL_LANE_LOCK_LOSS (R392). -/
  | dlLaneLockLoss (pair : Fin 22) (b : Fin 8) (lane : Option (Fin 34))
  /-- BUNDLE_RETRAIN (R408). -/
  | bundleRetrain (pair : Fin 22) (b : Fin 8)
  /-- BUNDLE_FULL (R420). -/
  | bundleFull (pair : Fin 22) (b : Fin 8)
  /-- BUNDLE_TRAIN_COMPLETE (R408). -/
  | bundleTrainComplete (pair : Fin 22) (b : Fin 8) (clock : BundleLock) (bad : List Nat)
  /-- VAUX_UP (R404). -/
  | vauxUp
  /-- VAUX_LOSS (R362). -/
  | vauxLoss
  /-- VIN_UP (R404). -/
  | vinUp
  /-- VIN_FAIL (R400). -/
  | vinFail
  /-- PERST_ASSERT (R405). -/
  | perstAssert
  /-- PERST_RELEASE (R404). -/
  | perstRelease
  /-- PHASE_A (R415). -/
  | phaseA
  /-- PHASE_B (R311). -/
  | phaseB (flash : Flash) (romBad : Bool) (addr : BitVec 2) (link : PcieLink)
  /-- PHASE_C (R415). -/
  | phaseC
  /-- PHASE_D (R414). -/
  | phaseD
  /-- PHASE_E (R415). -/
  | phaseE (stks : BitVec 8)
  /-- PHASE_F (R415). -/
  | phaseF
  /-- PHASE_G (R416). -/
  | phaseG
  /-- FIELD_REPAIR_COUNT_WORD (R414). -/
  | fieldRepairCountWord (recs : List Byte)
  /-- FIELD_REPAIR_TIMEOUT (R414). -/
  | fieldRepairTimeout
  /-- GUEST_IDENT (R411). -/
  | guestIdent (g : Fin 2) (ident : List Byte) (rate : Fin 6) (modules : Fin 4) (x8 : BitVec 4)
  /-- GUEST_TRAIN_TIMEOUT (R411). -/
  | guestTrainTimeout (g : Fin 2)
  /-- GUEST_LINK_DOWN (R411). -/
  | guestLinkDown (g : Fin 2)
  /-- GUEST_RETRAIN (R411). -/
  | guestRetrain (g : Fin 2)
  /-- GUEST_POWER_FAULT (R410). -/
  | guestPowerFault (g : Fin 2)
  /-- MBOX_SEND (R412). -/
  | mboxSend (g : Fin 2) (w : Nat) (cls : Nat) (tag : BitVec 16) (dst : BitVec 16) (data : List Byte)
  /-- DMA_RD (R412). -/
  | dmaRd (g : Fin 2) (w : Nat) (cls : Nat) (tag : BitVec 16) (addr : Nat) (units : Fin 64)
  /-- DMA_RD_DATA (R412). -/
  | dmaRdData (g : Fin 2) (i : Nat)
  /-- DMA_WR (R412). -/
  | dmaWr (g : Fin 2) (w : Nat) (cls : Nat) (tag : BitVec 16) (addr : Nat) (data : List Byte)
  /-- MESH_MSG (R412). -/
  | meshMsg (g : Fin 2) (w : Nat) (cls : Nat) (tag : BitVec 16) (dst : BitVec 16) (data : List Byte)
  /-- GUEST_SYNC_ADD (R412). -/
  | guestSyncAdd (g : Fin 2) (w : Nat) (cls : Nat) (tag : BitVec 16) (addr : Nat) (data : List Byte)
  /-- HUSK_BUDGET_REFILL (R412). -/
  | huskBudgetRefill (g : Fin 2)
  /-- TRAY_HEARTBEAT (R44). -/
  | trayHeartbeat (pin : Fin 8)
  /-- TRAY_HEARTBEAT_END (R44). -/
  | trayHeartbeatEnd (pin : Fin 8)
  /-- SET_ENDPOINT_ID (R417). -/
  | setEndpointId (eid : Nat)
  /-- GET_ENDPOINT_ID (R417). -/
  | getEndpointId
  /-- GET_MCTP_VERSION_SUPPORT (R417). -/
  | getMctpVersionSupport (typ : Nat)
  /-- GET_MESSAGE_TYPE_SUPPORT (R417). -/
  | getMessageTypeSupport
  /-- GET_VENDOR_DEFINED_MESSAGE_SUPPORT (R417). -/
  | getVendorDefinedMessageSupport
  /-- GET_TID (R418). -/
  | getTid
  /-- GET_PLDM_VERSION (R418). -/
  | getPldmVersion (typ : Nat)
  /-- GET_PLDM_TYPES (R418). -/
  | getPldmTypes
  /-- GET_PLDM_COMMANDS (R418). -/
  | getPldmCommands (typ : Nat)
  /-- GET_SENSOR_READING (R418). -/
  | getSensorReading (id : Nat)
  /-- GET_STATUS (R419). -/
  | getStatus
  /-- SET_POWER_CAP (R419). -/
  | setPowerCap (watts : Nat)
  /-- MGMT_RESET (R419). -/
  | mgmtReset (unit : Nat) (target : Nat) (ctx : Nat)
  /-- GET_FAULT_LOG (R419). -/
  | getFaultLog (index : BitVec 32)
  /-- GET_EVENTS (R419). -/
  | getEvents
  /-- ATTEST (R419). -/
  | attest (kind : Nat) (head : ReqHead) (nonce : List Byte)
  /-- TUBER_TICK (R165). -/
  | tuberTick
  /-- VIN_BELOW_6V (R388). -/
  | vinBelow6v
  /-- STREAM_HEADER_FETCHED (R381). -/
  | streamHeaderFetched (hdr : List Byte)
  /-- REGISTER_READ (R338). -/
  | registerRead (fn : Fn) (off : Nat) (size : Nat)
  deriving DecidableEq, Repr

end Sys2Proof
end

