-- ==== Sys2Proof/Decode.lean ====
section
/-!
DEFINITION. Words. The table of operations gives no row any bits, so no word of the table spells a command; the 64-bit words of the
cores' instructions (03_cores.md, R69, R70, Tables 3.7 to 3.13) are read and written here.
-/

namespace Sys2Proof

/-- The command that a word of the table spells: none, since no row has bits. -/
def decodeTableWord (_nbits _w : Nat) : Option Instr := none

/-! ### The fields of a word (Table 3.7) -/

/-- Bits [63:61]. -/
def wordClass (w : BitVec 64) : BitVec 3 := w.extractLsb' 61 3
/-- OP of every class but L. -/
def wordOp (w : BitVec 64) : BitVec 9 := w.extractLsb' 52 9
/-- OP of class L. -/
def wordOpL (w : BitVec 64) : BitVec 5 := w.extractLsb' 56 5

def wordR (w : BitVec 64) : FieldsR :=
  ⟨w.extractLsb' 47 5, w.extractLsb' 42 5, w.extractLsb' 37 5, w.extractLsb' 32 5, w.extractLsb' 16 16, w.extractLsb' 0 16⟩
def wordI (w : BitVec 64) : FieldsI := ⟨w.extractLsb' 47 5, w.extractLsb' 42 5, w.extractLsb' 39 3, w.extractLsb' 32 7, w.extractLsb' 0 32⟩
def wordL (w : BitVec 64) : FieldsL := ⟨w.extractLsb' 51 5, w.extractLsb' 48 3, w.extractLsb' 0 48⟩
def wordB (w : BitVec 64) : FieldsB := ⟨w.extractLsb' 47 5, w.extractLsb' 42 5, w.extractLsb' 32 10, w.extractLsb' 0 32⟩
def wordT (w : BitVec 64) : FieldsT :=
  ⟨w.extractLsb' 49 3, w.extractLsb' 45 4, w.extractLsb' 41 4, w.extractLsb' 37 4, w.extractLsb' 32 5, w.extractLsb' 22 10,
   w.extractLsb' 16 6, w.extractLsb' 0 16⟩
def wordS (w : BitVec 64) : FieldsS :=
  ⟨w.extractLsb' 47 5, w.extractLsb' 42 5, w.extractLsb' 37 5, w.extractLsb' 32 5, w.extractLsb' 16 16, w.extractLsb' 0 16⟩

/-! ### The opcodes (Tables 3.8 to 3.13) -/

/-- The instruction of class R that an OP names; none where no table lists it. -/
def decodeR (k : CoreId) (op : BitVec 9) (f : FieldsR) : Option Instr :=
  match op.toNat with
  | 0x1 => some (.add k f)
  | 0x2 => some (.sub k f)
  | 0x3 => some (.mul k f)
  | 0x4 => some (.mulhu k f)
  | 0x5 => some (.andR k f)
  | 0x6 => some (.orR k f)
  | 0x7 => some (.xor k f)
  | 0x8 => some (.shl k f)
  | 0x9 => some (.shr k f)
  | 0xA => some (.sra k f)
  | 0xB => some (.slt k f)
  | 0xC => some (.sltu k f)
  | 0xD => some (.minR k f)
  | 0xE => some (.maxR k f)
  | 0x40 => some (.tset k f)
  | 0x41 => some (.tget k f)
  | 0x42 => some (.rdid k f)
  | 0x80 => some (.vadd k f)
  | 0x81 => some (.vsub k f)
  | 0x82 => some (.vmul k f)
  | 0x83 => some (.vfma k f)
  | 0x84 => some (.vmax k f)
  | 0x85 => some (.vmin k f)
  | 0x86 => some (.vand k f)
  | 0x87 => some (.vor k f)
  | 0x88 => some (.vxor k f)
  | 0x89 => some (.vshl k f)
  | 0x8A => some (.vsra k f)
  | 0x8B => some (.vcvt k f)
  | 0x8C => some (.vrsum k f)
  | 0x8D => some (.vrmax k f)
  | 0x8E => some (.vbcast k f)
  | 0x8F => some (.vext k f)
  | _ => none

/-- The instruction of class I that an OP names; none where no table lists it. -/
def decodeI (k : CoreId) (op : BitVec 9) (f : FieldsI) : Option Instr :=
  match op.toNat with
  | 0x1 => some (.addi k f)
  | 0x5 => some (.andi k f)
  | 0x6 => some (.ori k f)
  | 0x7 => some (.xori k f)
  | 0x8 => some (.shli k f)
  | 0x9 => some (.shri k f)
  | 0xA => some (.srai k f)
  | 0xB => some (.slti k f)
  | 0xC => some (.sltui k f)
  | 0x20 => some (.ld k f)
  | 0x21 => some (.st k f)
  | 0x22 => some (.ldw k f)
  | 0x23 => some (.stw k f)
  | 0x30 => some (.vld k f)
  | 0x31 => some (.vst k f)
  | _ => none

/-- The instruction of class L that an OP names; none where no table lists it. -/
def decodeL (k : CoreId) (op : BitVec 5) (f : FieldsL) : Option Instr :=
  match op.toNat with
  | 0x1 => some (.li k f)
  | 0x2 => some (.lih k f)
  | _ => none

/-- The instruction of class B that an OP names; none where no table lists it. -/
def decodeB (k : CoreId) (op : BitVec 9) (f : FieldsB) : Option Instr :=
  match op.toNat with
  | 0x1 => some (.beq k f)
  | 0x2 => some (.bne k f)
  | 0x3 => some (.blt k f)
  | 0x4 => some (.bge k f)
  | 0x5 => some (.bltu k f)
  | 0x6 => some (.bgeu k f)
  | 0x10 => some (.jal k f)
  | 0x11 => some (.jr k f)
  | _ => none

/-- The instruction of class T that an OP names; none where no table lists it. -/
def decodeT (k : CoreId) (op : BitVec 9) (f : FieldsT) : Option Instr :=
  match op.toNat with
  | 0x100 => some (.accz k f)
  | 0x101 => some (.mma k f)
  | 0x102 => some (.epi k f)
  | 0x103 => some (.attn k f)
  | 0x104 => some (.twait k f)
  | 0x105 => some (.accrd k f)
  | 0x106 => some (.accwr k f)
  | _ => none

/-- The instruction of class S that an OP names; none where no table lists it. -/
def decodeS (k : CoreId) (op : BitVec 9) (f : FieldsS) : Option Instr :=
  match op.toNat with
  | 0x180 => some (.strmSet k f)
  | 0x181 => some (.strmGo k f)
  | 0x182 => some (.strmWait k f)
  | 0x183 => some (.strmSwap k f)
  | 0x184 => some (.strmCancel k f)
  | 0x185 => some (.strmFill k f)
  | 0x186 => some (.sprIssue k f)
  | 0x187 => some (.sprFence k f)
  | 0x188 => some (.colIssue k f)
  | 0x1A0 => some (.syncAdd k f)
  | 0x1A1 => some (.syncWait k f)
  | 0x1A2 => some (.syncArm k f)
  | 0x1A3 => some (.syncAbort k f)
  | 0x1A4 => some (.syncCancel k f)
  | 0x1C0 => some (.send k f)
  | 0x1C1 => some (.recv k f)
  | 0x1C2 => some (.hpost k f)
  | 0x1E0 => some (.halt k f)
  | 0x1E1 => some (.ctxStart k f)
  | 0x1E2 => some (.taskBegin k f)
  | 0x1E3 => some (.taskEnd k f)
  | 0x1E4 => some (.fence k f)
  | 0x1E5 => some (.fexit k f)
  | 0x1E6 => some (.yield k f)
  | 0x1E7 => some (.brk k f)
  | _ => none

/-- The instruction that a word of core `k`'s program is (R69). A word of class 0b110 or 0b111, or whose OP is not listed, is no
instruction, and NOP is the all-zero word: both are read as `nop` with the word. -/
def decodeInstr (k : CoreId) (w : BitVec 64) : Instr :=
  (match (wordClass w).toNat with
   | 0 => decodeR k (wordOp w) (wordR w)
   | 1 => decodeI k (wordOp w) (wordI w)
   | 2 => decodeL k (wordOpL w) (wordL w)
   | 3 => decodeB k (wordOp w) (wordB w)
   | 4 => decodeT k (wordOp w) (wordT w)
   | 5 => decodeS k (wordOp w) (wordS w)
   | _ => none).getD (.nop k w)

/-! ### Words from fields -/

def packR (op : BitVec 9) (f : FieldsR) : BitVec 64 := (0 : BitVec 3) ++ op ++ f.d ++ f.a ++ f.b ++ f.c ++ f.mod ++ f.rsv
def packI (op : BitVec 9) (f : FieldsI) : BitVec 64 := (1 : BitVec 3) ++ op ++ f.d ++ f.a ++ f.sp ++ f.rsv ++ f.imm
def packL (op : BitVec 5) (f : FieldsL) : BitVec 64 := (2 : BitVec 3) ++ op ++ f.d ++ f.rsv ++ f.imm
def packB (op : BitVec 9) (f : FieldsB) : BitVec 64 := (3 : BitVec 3) ++ op ++ f.a ++ f.b ++ f.rsv ++ f.disp
def packT (op : BitVec 9) (f : FieldsT) : BitVec 64 :=
  (4 : BitVec 3) ++ op ++ f.acc ++ f.ta ++ f.tb ++ f.tc ++ f.g ++ f.anchor ++ f.rsv ++ f.mod
def packS (op : BitVec 9) (f : FieldsS) : BitVec 64 := (5 : BitVec 3) ++ op ++ f.a ++ f.b ++ f.c ++ f.rsv ++ f.tag ++ f.imm

/-- The word of an instruction and its core; none for a command that is no instruction. -/
def encodeInstr : Instr → Option (CoreId × BitVec 64)
  | .nop k w => if decodeInstr k w = .nop k w then some (k, w) else none
  | .add k f => some (k, packR 0x1 f)
  | .sub k f => some (k, packR 0x2 f)
  | .mul k f => some (k, packR 0x3 f)
  | .mulhu k f => some (k, packR 0x4 f)
  | .andR k f => some (k, packR 0x5 f)
  | .orR k f => some (k, packR 0x6 f)
  | .xor k f => some (k, packR 0x7 f)
  | .shl k f => some (k, packR 0x8 f)
  | .shr k f => some (k, packR 0x9 f)
  | .sra k f => some (k, packR 0xA f)
  | .slt k f => some (k, packR 0xB f)
  | .sltu k f => some (k, packR 0xC f)
  | .minR k f => some (k, packR 0xD f)
  | .maxR k f => some (k, packR 0xE f)
  | .tset k f => some (k, packR 0x40 f)
  | .tget k f => some (k, packR 0x41 f)
  | .rdid k f => some (k, packR 0x42 f)
  | .vadd k f => some (k, packR 0x80 f)
  | .vsub k f => some (k, packR 0x81 f)
  | .vmul k f => some (k, packR 0x82 f)
  | .vfma k f => some (k, packR 0x83 f)
  | .vmax k f => some (k, packR 0x84 f)
  | .vmin k f => some (k, packR 0x85 f)
  | .vand k f => some (k, packR 0x86 f)
  | .vor k f => some (k, packR 0x87 f)
  | .vxor k f => some (k, packR 0x88 f)
  | .vshl k f => some (k, packR 0x89 f)
  | .vsra k f => some (k, packR 0x8A f)
  | .vcvt k f => some (k, packR 0x8B f)
  | .vrsum k f => some (k, packR 0x8C f)
  | .vrmax k f => some (k, packR 0x8D f)
  | .vbcast k f => some (k, packR 0x8E f)
  | .vext k f => some (k, packR 0x8F f)
  | .addi k f => some (k, packI 0x1 f)
  | .andi k f => some (k, packI 0x5 f)
  | .ori k f => some (k, packI 0x6 f)
  | .xori k f => some (k, packI 0x7 f)
  | .shli k f => some (k, packI 0x8 f)
  | .shri k f => some (k, packI 0x9 f)
  | .srai k f => some (k, packI 0xA f)
  | .slti k f => some (k, packI 0xB f)
  | .sltui k f => some (k, packI 0xC f)
  | .ld k f => some (k, packI 0x20 f)
  | .st k f => some (k, packI 0x21 f)
  | .ldw k f => some (k, packI 0x22 f)
  | .stw k f => some (k, packI 0x23 f)
  | .vld k f => some (k, packI 0x30 f)
  | .vst k f => some (k, packI 0x31 f)
  | .li k f => some (k, packL 0x1 f)
  | .lih k f => some (k, packL 0x2 f)
  | .beq k f => some (k, packB 0x1 f)
  | .bne k f => some (k, packB 0x2 f)
  | .blt k f => some (k, packB 0x3 f)
  | .bge k f => some (k, packB 0x4 f)
  | .bltu k f => some (k, packB 0x5 f)
  | .bgeu k f => some (k, packB 0x6 f)
  | .jal k f => some (k, packB 0x10 f)
  | .jr k f => some (k, packB 0x11 f)
  | .accz k f => some (k, packT 0x100 f)
  | .mma k f => some (k, packT 0x101 f)
  | .epi k f => some (k, packT 0x102 f)
  | .attn k f => some (k, packT 0x103 f)
  | .twait k f => some (k, packT 0x104 f)
  | .accrd k f => some (k, packT 0x105 f)
  | .accwr k f => some (k, packT 0x106 f)
  | .strmSet k f => some (k, packS 0x180 f)
  | .strmGo k f => some (k, packS 0x181 f)
  | .strmWait k f => some (k, packS 0x182 f)
  | .strmSwap k f => some (k, packS 0x183 f)
  | .strmCancel k f => some (k, packS 0x184 f)
  | .strmFill k f => some (k, packS 0x185 f)
  | .sprIssue k f => some (k, packS 0x186 f)
  | .sprFence k f => some (k, packS 0x187 f)
  | .colIssue k f => some (k, packS 0x188 f)
  | .syncAdd k f => some (k, packS 0x1A0 f)
  | .syncWait k f => some (k, packS 0x1A1 f)
  | .syncArm k f => some (k, packS 0x1A2 f)
  | .syncAbort k f => some (k, packS 0x1A3 f)
  | .syncCancel k f => some (k, packS 0x1A4 f)
  | .send k f => some (k, packS 0x1C0 f)
  | .recv k f => some (k, packS 0x1C1 f)
  | .hpost k f => some (k, packS 0x1C2 f)
  | .halt k f => some (k, packS 0x1E0 f)
  | .ctxStart k f => some (k, packS 0x1E1 f)
  | .taskBegin k f => some (k, packS 0x1E2 f)
  | .taskEnd k f => some (k, packS 0x1E3 f)
  | .fence k f => some (k, packS 0x1E4 f)
  | .fexit k f => some (k, packS 0x1E5 f)
  | .yield k f => some (k, packS 0x1E6 f)
  | .brk k f => some (k, packS 0x1E7 f)
  | _ => none

end Sys2Proof
end

