-- ==== Sys2Proof/Machine/Mem.lean ====
section
/-!
DEFINITION. Byte-addressed memory in one canonical form, and the memory whose blocks carry check bits
(07_near_slices.md, R156 to R163; 08_stack_memory_sprouts.md, R182). What an unlisted byte reads as is one definition.
-/

namespace Sys2Proof.Machine

/-- A memory: (address, byte) pairs, addresses strictly rising, no byte equal to what an unlisted address reads as. -/
abbrev Mem := List Host.Cell

/-- What a byte that nothing has written reads as. DESIGN CHOICE, unsafe (log 5): the spec leaves the content open
(01_structure.md, R23; 13_trust.md, R326). -/
def memDefault : Byte := 0

/-- Every key is below the next one. -/
def keysRise {α : Type} : List (Nat × α) → Bool
  | [] => true
  | [_] => true
  | a :: b :: l => a.1 < b.1 && keysRise (b :: l)

/-- The canonical form. -/
def Mem.wf (m : Mem) : Bool := keysRise m && m.all (fun c => c.2 != memDefault)

/-- One byte. -/
def memRead : Mem → Nat → Byte
  | [], _ => memDefault
  | c :: cs, a => if c.1 = a then c.2 else memRead cs a

/-- Puts an entry before the first one with a greater key. -/
def insertKey {α : Type} : List (Nat × α) → Nat → α → List (Nat × α)
  | [], k, x => [(k, x)]
  | e :: es, k, x => if k < e.1 then (k, x) :: e :: es else e :: insertKey es k x

/-- Writes one byte, keeping the canonical form. -/
def memWrite (m : Mem) (a : Nat) (b : Byte) : Mem :=
  let r := m.filter (fun c => c.1 != a)
  if b = memDefault then r else insertKey r a b

/-- `n` bytes from address `a`. -/
def memReadBytes (m : Mem) (a n : Nat) : List Byte := (List.range n).map (fun i => memRead m (a + i))

/-- Writes bytes from address `a` on. -/
def memWriteBytes (m : Mem) (a : Nat) : List Byte → Mem
  | [] => m
  | b :: bs => memWriteBytes (memWrite m a b) (a + 1) bs

/-- The number that little-endian bytes stand for (00_scope.md, Table 0.4). -/
def leNat : List Byte → Nat
  | [] => 0
  | b :: bs => b.toNat + 256 * leNat bs

/-- `n` little-endian bytes of a number. -/
def leBytes (n x : Nat) : List Byte :=
  match n with
  | 0 => []
  | k + 1 => BitVec.ofNat 8 x :: leBytes k (x / 256)

def memReadNat (m : Mem) (a n : Nat) : Nat := leNat (memReadBytes m a n)
def memWriteNat (m : Mem) (a n x : Nat) : Mem := memWriteBytes m a (leBytes n x)

end Sys2Proof.Machine
end

