-- ==== Sys2Proof/Machine/Crc.lean ====
section
/-!
DEFINITION. The reflected 32-bit CRCs: CRC-32C of messages and entries (12_host.md, R291), and the
frame check sequence of IEEE 802.3 (11_chip_links.md, R266).
-/

namespace Sys2Proof.Machine

/-- One bit of a reflected CRC. -/
def crcBit (poly : W32) (c : W32) : W32 := if c.getLsbD 0 then (c >>> 1) ^^^ poly else c >>> 1

def crcByte (poly : W32) (c : W32) (b : Byte) : W32 :=
  (List.range 8).foldl (fun a _ => crcBit poly a) (c ^^^ b.setWidth 32)

/-- A CRC with initial value and final XOR 0xFFFF_FFFF. -/
def crcOf (poly : W32) (bs : List Byte) : W32 := (bs.foldl (crcByte poly) 0xFFFFFFFF) ^^^ 0xFFFFFFFF

/-- CRC-32C: 0x1EDC_6F41, reflected. -/
def crc32c (bs : List Byte) : W32 := crcOf 0x82F63B78 bs

/-- CRC-32 of the IEEE 802.3 frame check sequence: 0x04C1_1DB7, reflected. -/
def crc32 (bs : List Byte) : W32 := crcOf 0xEDB88320 bs

end Sys2Proof.Machine
end

