-- ==== Sys2Proof/Config.lean ====
section
/-!
DEFINITION. What one device of the family fixes and the spec does not print: the secrets of its fuses, the image keys
of its maker, the text of the images it runs, and the free values that the spec leaves open. None of them has a body, so
a claim that holds of the model holds whatever they are.
-/

namespace Sys2Proof.Config

/-- The 32-byte device seed of the fuses (13_trust.md, R315, R316), which no interface reads. -/
opaque seed : List Byte

/-- The image public keys 0 and 1 in the Taproot ROM (13_trust.md, R312). -/
opaque imageKey : Nat → List Byte

/-- The SHAKE256 digest of the Taproot ROM and patch that Taproot measures (13_trust.md, R316). -/
opaque romDigest : List Byte

/-- A byte of the entropy source, drawn once for each value of the counter that State holds (13_trust.md, R325). -/
opaque entropyByte : Nat → Byte

/-- A 64-bit value that the spec leaves open, drawn once for each value of the counter that State holds. -/
opaque freeWord : Nat → BitVec 64

/-- The data bits that a die-link flit carries and the spec does not lay out, for each direction of a bundle, DATA flit and byte
(17_package.md, R406). -/
opaque flitFill : Nat → Nat → Nat → Byte

/-- The pattern of the MARCH that phase E runs, by the code of Table 8.4 (17_package.md, R415). -/
opaque marchPattern : Nat

/-- How many ACLK cycles of a core pass between one trigger of a deadline and the next (06_streams.md, R150), for each draw of the
core. -/
opaque aclkPassed : Nat → Nat → Nat

/-- The voltage of a region's rail at an ACLK level, in 2 mV units: the per-region fuse table (14_power_clocks.md, R330). -/
opaque levelVolt : Nat → Nat → Nat

/-- The fused trim code of the Tuber oscillator (14_power_clocks.md, R346). -/
opaque trimCode : Nat

/-- Whether a higher trim code makes TCLK faster (14_power_clocks.md, R346). -/
opaque trimSpeeds : Bool

/-- The two bytes of Acnal's PCI-SIG vendor ID (12_host.md, R322; 17_package.md, R417). -/
opaque vendorId : Nat

/-- The terminus ID that GetTID returns, which no supported command sets (17_package.md, R418). -/
opaque tid : Nat

/-- The version entries that the device reports for an MCTP message type and for a PLDM type, and the version of its
vendor-defined command set (17_package.md, R417, R418). -/
opaque mctpVersions : Nat → List (BitVec 32)
opaque pldmVersions : Nat → List Byte
opaque vendorVersion : Nat

end Sys2Proof.Config
end

