-- ==== Sys2Proof/Machine/TypesCore.lean ====
section
/-!
DEFINITION. The state of one core and its four contexts (03_cores.md; 04_cube_array.md; 05_accumulation.md;
06_streams.md; 07_near_slices.md), as plain data.
-/

namespace Sys2Proof.Machine

/-- A finite table: the last entry set under a key counts, and an absent key reads as the table's default. -/
abbrev Tbl (α : Type) := List (Nat × α)

/-- The entry of a key, or the default. -/
def tget {α : Type} (d : α) : Tbl α → Nat → α
  | [], _ => d
  | e :: es, k => if e.1 = k then e.2 else tget d es k

/-- Sets the entry of a key. -/
def tset {α : Type} : Tbl α → Nat → α → Tbl α
  | [], k, x => [(k, x)]
  | e :: es, k, x => if e.1 = k then (k, x) :: es else e :: tset es k x

/-- Memory in 64-byte blocks with check bits (07_near_slices.md, R158). `diff` holds, for each block where they are not
equal, the stored check bits XOR the check bits of the stored data; an absent block has equal ones. -/
structure PMem where
  bytes : Mem
  diff  : Tbl (BitVec 72)
  deriving DecidableEq, Repr

/-- Context states (Table 3.3). -/
inductive CtxState where
  | halted | ready | running | blocked | faulted
  deriving DecidableEq, Repr

/-- What a context waits for (Table 3.4): the wait code with the operands its condition needs. -/
inductive Wait where
  | none
  | yield
  | recv (sender tag : BitVec 16) (cls : Nat)
  | sync
  | strmWait (slot : Nat)
  | strmSwap (slot : Nat)
  | strmGo (slot : Nat)
  | tensor (acc : Option Nat)
  | queue
  | send (bytes : Nat)
  | hpost (channel : Nat)
  | sprIssue
  | colIssue (tree : Nat)
  | fence
  | sprFence
  | task
  deriving DecidableEq, Repr

/-- Element classes of an accumulator (Table 5.1). -/
inductive XCls where
  | finite | posInf | negInf | nan
  deriving DecidableEq, Repr

/-- One X128 accumulator element (R104). -/
structure XEl where
  n   : BitVec 128
  cls : XCls
  deriving DecidableEq, Repr

/-- An accumulator tile: 4,096 elements, row by row, its anchor (`none` is the pending state of R109) and flags. -/
structure AccTile where
  els      : List XEl
  anchor   : Option Int
  dropped  : Bool
  overflow : Bool
  deriving DecidableEq, Repr

/-- What placing products leaves: the sum of the placed values, the class, the flags, and the residue of the parts that
truncation dropped (R96). -/
structure PlaceSum where
  sum     : Int
  cls     : XCls
  dropped : Bool
  sat     : Bool
  dropRes : Nat
  deriving DecidableEq, Repr

/-- An operation of a context's tensor queue (Table 3.11), with what its instruction fixed at issue. -/
inductive TKind where
  | accz (acc : Nat) (anchor : Int)
  | mma (acc : Nat) (a b : TReg) (chkOff : Bool) (anchor : Option Int) (deferred : Bool)
  | epi (acc : Nat) (out : TReg) (ctl : W64)
  | attn (off : Nat) (tiles : List Nat) (block : List Byte)
  | accrd (acc : Nat) (off : Nat)
  | accwr (acc : Nat) (off : Nat)
  deriving DecidableEq, Repr

/-- A tensor operation with its context, the offset of its instruction and its task (R79). `id` is the model's own. -/
structure TOp where
  id   : Nat
  kind : TKind
  ctx  : CtxId
  pc   : BitVec 18
  task : Option Nat
  deriving DecidableEq, Repr

/-- A tile operand of a pass in the array: element values exact, with their classes (R84 to R87). -/
inductive OpVal where
  | fin (n e : Int)
  | inf (neg : Bool)
  | nan
  deriving DecidableEq, Repr

/-- A pass in the cube array (R92, R93): its operation, the operand rows it read (R94 holds them unchanged), and
whether it is the replay of R99, with the location of its first failure (R100). `cls` is the meter of its pair (R306). -/
structure Pass where
  op     : TOp
  acc    : Nat
  rowsA  : Nat
  rowsB  : Nat
  kElems : Nat
  aVals  : List (List OpVal)
  bVals  : List (List OpVal)
  chkOff : Bool
  cls    : Nat
  replay : Bool
  failKind : Nat
  failRow  : Nat
  failCol  : Nat
  deriving DecidableEq, Repr

/-- The running EPI (R111, R117): its operation and whether it has released its tile; `tile` is what it read. -/
structure EpiRun where
  op       : TOp
  acc      : Nat
  out      : TReg
  ctl      : W64
  tile     : AccTile
  params   : List Byte
  released : Bool
  deriving DecidableEq, Repr

/-- A fetch of ATTN in flight (R222, R230): `rows` consecutive rows of the key half, or of the value half, of the page of
visit `visit` (position div P), for block `blk` from its key `key`. `waits` counts the 512-byte units that a stack still owes
it; `err` says that a block of it was poisoned. -/
structure AttnFetch where
  id    : Nat
  visit : Nat
  value : Bool
  blk   : Nat
  key   : Nat
  rows  : Nat
  data  : List Byte
  waits : Nat
  err   : Nat
  deriving DecidableEq, Repr

/-- A thin command of ATTN that has not returned its sums (R220, R221): the query row, the block, the keys it covers, and
the visits whose pages it has leased. -/
structure AttnThin where
  id     : Nat
  value  : Bool
  row    : Nat
  blk    : Nat
  keys   : List Nat
  visits : List Nat
  deriving DecidableEq, Repr

/-- A lease on the page of a visit: its virtual address and the fetches and commands that still hold it (R230). -/
structure AttnLease where
  visit : Nat
  va    : Nat
  holds : Nat
  deriving DecidableEq, Repr

/-- A sum that a thin command returned: query row, key in the block or value element, and the sum (R220). -/
structure AttnSum where
  value : Bool
  row   : Nat
  place : Nat
  sum   : PlaceSum
  deriving DecidableEq, Repr

/-- Where a running ATTN stands: its block's scores, its block's values, or its output. -/
inductive AttnStage where
  | scores | values | output
  deriving DecidableEq, Repr

/-- The running ATTN (R210 to R224): its page list and query rows as it read them, the state of R214 (m of each row, none
before the first visible key; l of each row; the output rows stand in the tiles), its flags, the block in progress with the
key and value rows that have arrived, the probabilities of the block, its parts (visit, first key, rows) that wait for a lease
to be fetched, and its fetches, thin commands and leases. `failed`
says that it has faulted and waits only for what is in flight (R223). -/
structure AttnRun where
  op     : TOp
  off    : Nat
  block  : List Byte
  list   : List Nat
  q      : List (List Byte)
  m      : List (Option Int)
  l      : List (BitVec 128)
  drop   : Bool
  ovf    : Bool
  blk    : Nat
  stage  : AttnStage
  keys   : Tbl (List Byte)
  vals   : Tbl (List Byte)
  probs  : List (List Nat)
  todo   : List (Nat × Nat × Nat)
  fetches : List AttnFetch
  thin   : List AttnThin
  leases : List AttnLease
  sums   : List AttnSum
  failed : Bool
  deriving DecidableEq, Repr

/-- A task of a context (R78). `outst` counts its operations that have not completed; `adding` says that its add is on its way
to its sync object; `syncs` holds the DONE_SYNC handles of its transfers, and `aborted` the record index of its abort (R148).
`id` is the model's own. -/
structure Task where
  id      : Nat
  ctx     : CtxId
  region  : RegionId
  obj     : Nat
  tag     : BitVec 16
  isOpen  : Bool
  outst   : Nat
  adding  : Bool
  syncs   : List W32
  aborted : Option W32
  deriving DecidableEq, Repr

/-- Side states (Table 6.6). -/
inductive Side where
  | empty | busy | ready | invalid
  deriving DecidableEq, Repr

/-- Transfer states (Table 6.7). -/
inductive XState where
  | run | hold | stopping | ended
  deriving DecidableEq, Repr

/-- One dimension of a stream descriptor. -/
structure Dim where
  count  : Nat
  stride : Int
  deriving DecidableEq, Repr

/-- A stream descriptor read out of its 64 bytes (Table 6.1). -/
structure Desc where
  remote   : Nat
  loc      : Nat
  doneSync : W32
  tag      : BitVec 16
  index    : Bool
  indexed  : Bool
  buffered : Bool
  near     : Bool
  out      : Bool
  rclass   : Nat
  driver   : Nat
  esize    : Nat
  lpitch   : Nat
  dims     : Vector Dim 5
  deriving DecidableEq, Repr

/-- A transfer of the stream engine (R129, R146). Progress is counted in bytes in transfer order: `issued` bytes have been
given to requests, `landed` bytes have been done. `idx` holds the bytes that the index stream has
read for a data stream, in pieces with their places in the list, as long as they are not used (R135); `idxUsed` counts the
indices used. `phase` counts the phases started; `dlDue` is the deadline of
the phase in progress and `dlMissed` says that it has expired (R150); `taskObj` is the sync object of its task (R149). `id` is the model's own. -/
structure Xfer where
  id       : Nat
  ctx      : CtxId
  slot     : Nat
  desc     : Desc
  fill     : Option W64
  state    : XState
  code     : Nat
  cause    : Nat
  record   : W32
  task     : Option Nat
  pc       : BitVec 18
  current  : Bool
  issued   : Nat
  landed   : Nat
  phase    : Nat
  rbit     : Bool
  side0    : Side
  side1    : Side
  partner  : Option Nat
  idx      : List (Nat × List Byte)
  idxUsed  : Nat
  dlDue    : Option Nat
  dlMissed : Bool
  taskObj  : Option (RegionId × Nat)
  deriving DecidableEq, Repr

/-- A request in flight (R141): bytes `[start, start + len)` of its transfer in transfer order; `raddr` is the remote address of
the position it starts at.
`data` is what a read has brought so far or what a write carries; `waits` counts the 512-byte units that a stack still
owes it; `err` is the cause that ends it (Table 6.5). -/
structure Req where
  id    : Nat
  xfer  : Nat
  start : Nat
  len   : Nat
  raddr : Nat
  data  : List Byte
  waits : Nat
  err   : Nat
  deriving DecidableEq, Repr

/-- A message in an inbox quarter (R75, R76), oldest first. -/
structure InMsg where
  sender  : BitVec 16
  tag     : BitVec 16
  cls     : Nat
  payload : List Byte
  blks    : List Nat
  deriving DecidableEq, Repr

/-- A refusal mark or a resume record of a quarter (R247, R248): the pair it is kept for, whether it still refuses, and
the recorded epoch. -/
structure RefMark where
  ctx      : CtxId
  sender   : BitVec 16
  cls      : Nat
  refusing : Bool
  epoch    : Bool
  deriving DecidableEq, Repr

/-- A message that an outbound buffer keeps until its ACK or ERROR (R248); `req` is the request of the MESH OUT stream that sends it. -/
structure OutMsg where
  id      : Nat
  ctx     : CtxId
  dst     : BitVec 16
  tag     : BitVec 16
  cls     : Nat
  payload : List Byte
  req     : Option Nat
  deriving DecidableEq, Repr

/-- What the sender keeps of a pair with a receiver in one class (R248). -/
structure SendPair where
  ctx     : CtxId
  dst     : BitVec 16
  cls     : Nat
  stopped : Bool
  epoch   : Bool
  deriving DecidableEq, Repr

/-- What R94 holds for a tensor operation that reads operand-buffer bytes: the bytes it reads as cube operands; whether it has started;
and, once a later write has reached them, the bytes that it reads all the same: none where a block of them was bad. An operation that
has started keeps what it read itself. -/
structure OpHold where
  op      : Nat
  ranges  : List (Nat × Nat)
  started : Bool
  bytes   : Option (Option (List (List Byte)))
  deriving DecidableEq, Repr

/-- A collective command in progress on a core (R277, R283): its tree and operation number, its block, its instruction, its
task, the result bytes it still has to write, and whether its own source was uncorrectable. -/
structure ColCmd where
  ctx    : CtxId
  tree   : Nat
  op     : Nat
  block  : List Byte
  pc     : BitVec 18
  task   : Option Nat
  left   : Nat
  poison : Bool
  deriving DecidableEq, Repr

/-- One context (R63, R67, R81). -/
structure Ctx where
  st       : CtxState
  wait     : Wait
  handler  : Bool
  task     : Option Nat
  pc       : BitVec 18
  g        : Vector W64 32
  v        : Vector VReg 16
  t        : Vector TReg 16
  slots    : Vector (BitVec 512) 8
  queue    : List TOp
  fltCls   : BitVec 8
  fltAddr  : BitVec 18
  ret      : BitVec 64
  syncOut  : Option W64
  syncSeq  : Nat
  dlMiss   : W32
  sprOut   : Nat
  deriving DecidableEq, Repr

/-- The CUBE registers that no other state gives (R103). -/
structure CubeRegs where
  repairedRow : Option Nat
  suspect     : Bool
  chkOff      : Bool
  evPersist   : Bool
  evTransient : Bool
  evParity    : Bool
  lastKind    : Nat
  lastRow     : Nat
  lastCol     : Nat
  lastCtx     : Nat
  lastAcc     : Nat
  lastLasting : Bool
  passes      : BitVec 64
  unchk       : BitVec 64
  trans       : BitVec 64
  busy        : BitVec 64
  deriving DecidableEq, Repr

/-- The EPI registers (R127) and the tables loaded by EPI_TABLE records (R122): function code and coefficients. -/
structure EpiRegs where
  evRange   : Bool
  evNanLost : Bool
  evSat     : Bool
  ops       : BitVec 64
  sat       : BitVec 64
  drop      : BitVec 64
  tables    : Tbl (Nat × List W32)
  deriving DecidableEq, Repr

/-- The STRM registers that no other state gives (R154). -/
structure StrmRegs where
  evDlMiss  : Bool
  evCancel  : Bool
  evAbort   : Bool
  evBadDesc : Bool
  chgStk    : BitVec 64
  chgHst    : BitVec 64
  chgNsl    : BitVec 64
  chgMsh    : BitVec 64
  use       : BitVec 64
  lastSlot  : Nat
  deriving DecidableEq, Repr

/-- The NSL registers (R174). `test` is a test command that waits for its region to wake: its code and its block (R173). The band, self-refresh and repair bits come from the region and from the slice. -/
structure NslRegs where
  evNoSpare  : Bool
  evRepaired : Bool
  evPoisoned : Bool
  evUncorr   : Bool
  evCorr     : Bool
  layer      : BitVec 2
  bank       : BitVec 4
  block      : BitVec 5
  sr         : BitVec 8
  scWeight   : Nat
  scFirst    : Nat
  outcome    : Nat
  done       : Bool
  tdata      : Vector W32 16
  tchk       : Vector W32 3
  corr       : BitVec 64
  uncorr     : BitVec 64
  repairs    : W32
  test       : Option (Nat × Nat)
  deriving DecidableEq, Repr

/-- The ATT registers (R233) that no running command gives. -/
structure AttRegs where
  evEmptyRow : Bool
  evNanRow   : Bool
  evFault    : Bool
  evSat      : Bool
  evDropped  : Bool
  cmds       : BitVec 64
  blocks     : BitVec 64
  thin       : BitVec 64
  deriving DecidableEq, Repr

/-- A row retirement of an SRAM (R375): the kind of Table 7.5, the row and the spare. -/
structure RowCopy where
  kind  : Nat
  row   : Nat
  spare : Nat
  deriving DecidableEq, Repr

/-- A near-slice row repair that has not finished (R167): its region table entry, the bank (LAYER × 16 + BANK), the row, the
spare row it has taken, and whether the copy has started. -/
structure NearCopy where
  entry   : Nat
  bank    : Nat
  row     : Nat
  spare   : Nat
  started : Bool
  deriving DecidableEq, Repr

/-- The near slice of one physical core (R155, R156): user blocks 0 to 2^24 − 1, then the test blocks of R173; redirected
rows, by bank × 8192 + row, and the spare rows in use, as bank × 64 + spare (R167); the scrubber's next block (R164); the row
each bank refreshes next (R170). -/
structure Near where
  mem     : PMem
  moved   : Tbl Nat
  used    : List Nat
  copies  : List NearCopy
  scrub   : Nat
  refresh : Tbl Nat
  deriving DecidableEq, Repr

end Sys2Proof.Machine
end

