-- ==== Sys2Proof/Machine/TypesChip.lean ====
section
/-!
DEFINITION. The state of regions, partitions, the mesh, the sync units, the reduction nodes and the fault log
(02_configuration_stream.md; 07_near_slices.md, R165; 10_mesh_sync_reduction.md; 14_power_clocks.md; 16_faults.md).
-/

namespace Sys2Proof.Machine

/-! ### Records of an applied stream (02_configuration_stream.md, Table 2.4) -/

structure RouteRec where
  src     : Nat
  dst     : Nat
  classes : Nat
  hops    : Nat
  path    : Nat
  deriving DecidableEq, Repr

structure MemMapRec where
  va    : Nat
  pa    : Nat
  pages : Nat
  perm  : Nat
  deriving DecidableEq, Repr

structure LinkPortRec where
  port     : Nat
  minWidth : Nat
  peerRank : Nat
  deriving DecidableEq, Repr

structure EdgeRec where
  role      : Nat
  primary   : Nat
  alternate : Nat
  peerRank  : Nat
  deriving DecidableEq, Repr

structure TreeRec where
  tree  : Nat
  group : Nat
  rank  : Nat
  edges : List EdgeRec
  deriving DecidableEq, Repr

structure SyncRec where
  region : Nat
  first  : Nat
  count  : Nat
  owner  : Nat
  deriving DecidableEq, Repr

structure PowerEnv where
  watts   : Nat
  aclkMax : Nat
  aclkMin : Nat
  ramp    : Nat
  deriving DecidableEq, Repr

structure ImageRec where
  core    : Nat
  ctxMask : Nat
  entry   : List Nat
  image   : List Byte
  deriving DecidableEq, Repr

structure HostWinRec where
  channel : Nat
  weight  : Nat
  core    : Nat
  context : Nat
  deriving DecidableEq, Repr

structure GuestWinRec where
  site    : Nat
  kind    : Nat
  classes : Nat
  window  : Nat
  rate    : Nat
  va      : Nat
  len     : Nat
  core    : Nat
  deriving DecidableEq, Repr

structure DeadlineRec where
  core    : Nat
  context : Nat
  slot    : Nat
  cycles  : Nat
  deriving DecidableEq, Repr

structure EpiTableRec where
  func  : Nat
  table : Nat
  coeff : List W32
  deriving DecidableEq, Repr

structure ArbRec where
  region  : Nat
  wRouter : List Nat
  wRed    : List Nat
  deriving DecidableEq, Repr

structure BufClaimRec where
  core    : Nat
  context : Nat
  slot    : Nat
  first   : Nat
  count   : Nat
  deriving DecidableEq, Repr

structure PinClaimRec where
  pin    : Nat
  func   : Nat
  timer  : Nat
  part   : Nat
  period : Nat
  deriving DecidableEq, Repr

/-- What the applied streams of one partition give it (R38, R43): its regions and chip-level weights, and its records.
An AMEND stream replaces the envelope and region weights it names. -/
structure PartCfg where
  live     : Bool
  regions  : BitVec 32
  weights  : List Nat
  routes   : List RouteRec
  maps     : List MemMapRec
  ports    : List LinkPortRec
  trees    : List TreeRec
  syncs    : List SyncRec
  env      : Option PowerEnv
  images   : List ImageRec
  hostWins : List HostWinRec
  guestWins : List GuestWinRec
  deadlines : List DeadlineRec
  epiTables : List EpiTableRec
  debug    : Bool
  arbs     : List ArbRec
  bufs     : List BufClaimRec
  digest   : List Byte
  amends   : List (List Byte)
  deriving DecidableEq, Repr

/-! ### Faults (16_faults.md) -/

/-- Context faults, in the order of their class codes 0x01 to 0x0F (R372). -/
inductive FCls where
  | illegal | align | range | bufOwner | accOwner | syncOwner | msgId | msgSize | taskState | ctxState
  | debugOnly | imageHeader | untasked | abftPersist | memUncorr
  deriving DecidableEq, Repr

/-- A fault record before the hub writes it (Table 16.1): INDEX is fixed when it is raised, SEQ and DSEQ when written. -/
structure FaultRec where
  index   : W32
  cls     : BitVec 8
  origin  : BitVec 2
  handled : BitVec 2
  reset   : BitVec 4
  part    : BitVec 8
  die     : BitVec 8
  region  : BitVec 8
  core    : BitVec 8
  context : BitVec 8
  optag   : BitVec 16
  detail  : BitVec 16
  iaddr   : W32
  address : BitVec 64
  seq     : BitVec 8
  dseq    : W32
  deriving DecidableEq, Repr

/-- A reset in progress or waiting (R379, R381, R382): its unit, its target, whether a TEARDOWN stream makes it (R52), the step of
Table 16.6 that it has reached, and whether Tops requested it (R377). -/
structure ResetRun where
  unit     : Nat
  target   : Nat
  ctx      : Nat
  teardown : Bool
  step     : Nat
  tops     : Bool
  deriving DecidableEq, Repr

/-- A completed reset that R385 remembers: unit 1 to 4, its target (core × 4 + context, core, region or partition), and
the Tuber tick at which it completed. -/
structure ResetHist where
  unit   : Nat
  target : Nat
  tick   : Nat
  deriving DecidableEq, Repr

/-- The FLT block and what stands behind it (R370, R381, R385 to R388, R395). -/
structure Flt where
  log        : List FaultRec
  head       : W32
  waiting    : List FaultRec
  evOos      : Bool
  evSevered  : Bool
  evPart     : Bool
  evWrap     : Bool
  evRecord   : Bool
  sinceWrap  : Nat
  logSel     : W32
  run        : Option ResetRun
  held       : List ResetRun
  stDone     : Bool
  stUnit     : Nat
  stCode     : Nat
  hist       : List ResetHist
  heartbeat  : W32
  lastBeat   : W32
  chipCause  : Nat
  chipCount  : Nat
  chipAge    : Nat
  chipCounted : Bool
  oos        : Bool
  topsCount  : Nat
  topsAge    : Nat
  regionBad  : BitVec 32
  severed    : BitVec 32
  partFaulted : BitVec 32
  partUnserviced : BitVec 32
  partHeld   : BitVec 32
  deriving DecidableEq, Repr

/-! ### Regions -/

/-- Region power states (Table 14.4). -/
inductive PState where
  | awake | dozing | asleep | waking
  deriving DecidableEq, Repr

/-- Sync-object states (Table 10.4). -/
inductive SState where
  | armed | done | aborted | cancelled
  deriving DecidableEq, Repr

/-- The notify slot of a sync object (R250, R253): the context that armed it, the context ID it names and the tag. -/
structure Notify where
  core : CoreId
  ctx  : CtxId
  dst  : BitVec 16
  tag  : BitVec 16
  deriving DecidableEq, Repr

/-- A sync object (R250). -/
structure SyncObj where
  count  : W32
  target : W32
  state  : SState
  record : W32
  notify : Option Notify
  deriving DecidableEq, Repr

/-- A registered wait (R252). -/
structure SyncWait where
  core      : CoreId
  ctx       : CtxId
  obj       : Nat
  threshold : W32
  seq       : Nat
  deriving DecidableEq, Repr

/-- An event for a correctable-error table (R165): location, syndrome of the decode; `det` is the KIND of Table 4.6 for a
cube event, else 0. -/
structure CetEv where
  kind  : Nat
  loc   : Nat
  addr  : Nat
  sr    : BitVec 8
  scW   : Nat
  scF   : Nat
  det   : Nat
  deriving DecidableEq, Repr

/-- An entry of a region's correctable-error table (Table 7.8). `spare` is the spare row a repair has taken. -/
structure CetEntry where
  valid   : Bool
  lasting : Bool
  kind    : Nat
  loc     : Nat
  action  : Nat
  count   : Nat
  addr    : Nat
  sr      : BitVec 8
  scW     : Nat
  scF     : Nat
  age     : Nat
  spare   : Nat
  deriving DecidableEq, Repr

/-- One region (R165, R250, R336, R396). Levels and ceilings are ACLK ÷ 50; `moved` says that a level change fell into the
monitor window in progress (R343); `dozeTicks` counts the idle ticks of a Dozing region (R338). -/
structure Region where
  owner      : Option PartId
  held       : Bool
  power      : PState
  wakeFrom   : PState
  level      : Nat
  volt       : Nat
  limit      : Nat
  ceil       : Nat
  moved      : Bool
  dozeTicks  : Nat
  wakes      : BitVec 64
  aclk       : BitVec 64
  watts      : Nat
  onBackup   : Bool
  railOk     : Bool
  objs       : Tbl SyncObj
  waits      : List SyncWait
  syncOps    : BitVec 64
  cet        : Vector CetEntry 16
  cetWait    : List CetEv
  cetLost    : W32
  lastRec    : List Byte
  fusePhys   : Vector (Fin 5) 4
  band       : Nat
  bandFall   : Nat
  deriving DecidableEq, Repr

/-! ### The mesh (10_mesh_sync_reduction.md) -/

/-- The ends of mesh traffic (R246). -/
inductive End where
  | ctx (core : CoreId) (c : CtxId)
  | host (part : PartId) (channel : Nat)
  | guest (site : Nat)
  | sync (region : RegionId)
  | red (region : RegionId)
  | stack (n : Nat)
  | link (die : Nat)
  | hub
  deriving DecidableEq, Repr

/-- A RED chunk (R255 to R258, R281): its tree and operation number, whether it moves toward the root, the command block of
its core, the partition core number of its origin (of its destination, for a result of ALL_TO_ALL), the ranks of the source
and the destination chip, its 4 KiB index, and its place in the fixed tree: stage 0 a core, 1 a pair of cores, 2 + l a part of
level l. `fail` marks the chunk that reports a failure. -/
structure RedChunk where
  tree   : Nat
  op     : Nat
  up     : Bool
  block  : List Byte
  origin : Nat
  rank   : Nat
  dst    : Nat
  chunk  : Nat
  stage  : Nat
  idx    : Nat
  fail   : Bool
  data   : List Byte
  deriving DecidableEq, Repr

/-- What a frame carries beside its ends (Table 10.3, Table 10.5). -/
inductive FBody where
  | msg (id : Nat) (sender dst tag : BitVec 16) (epoch : Bool) (payload : List Byte)
  | ack (id : Nat)
  | refuse (id : Nat) (cls : Nat) (epoch : Bool)
  | resume (cls : Nat)
  | error (id : Nat)
  | waitError (seq : Nat)
  | cmdError (id : Nat) (pc : BitVec 18) (task : Option Nat)
  | syncAdd (obj : Nat) (n : W32)
  | taskAdd (obj : Nat) (task : Nat)
  | syncArm (obj : Nat) (target : W32) (notify : Option Notify)
  | syncAbort (obj : Nat) (record : W32)
  | syncCancel (obj : Nat)
  | syncWait (obj : Nat) (core : CoreId) (ctx : CtxId) (threshold : W32) (seq : Nat)
  | syncReply (outcome : W64) (seq : Nat)
  | notice (handle : W32) (outcome : Nat) (record : W32) (dst tag : BitVec 16)
  | red (c : RedChunk)
  | command (block : List Byte) (id : Nat) (pc : BitVec 18) (task : Option Nat)
  | thinCmd (id : Nat) (block : List Byte) (x : List Byte) (pages : List (Nat × Nat × Nat))
  | thinSums (id : Nat) (sums : List PlaceSum) (fault : Option Nat)
  deriving DecidableEq, Repr

/-- A frame in flight. Class: 0 CTRL, 1 SYNC, 2 REQ, 3 RSP (Table 10.2). -/
structure Frame where
  src  : End
  dst  : End
  cls  : Nat
  body : FBody
  deriving DecidableEq, Repr

/-- The MESH block of a tile (R260) and its route entries, by router within the tile (R244). -/
structure MeshTile where
  hRate     : Nat
  vRate     : Nat
  evMis     : Bool
  evDeg     : Bool
  evRefuse  : Bool
  sel       : W32
  flits     : BitVec 64
  refuses   : BitVec 64
  misroutes : W32
  deriving DecidableEq, Repr

/-- A route-table entry (R244): router position, key, and output port (0 north, 1 east, 2 south, 3 west, 4 end). -/
structure RouteEnt where
  router : Nat
  src    : Nat
  dst    : Nat
  cls    : Nat
  off    : Nat
  port   : Nat
  part   : PartId
  deriving DecidableEq, Repr

end Sys2Proof.Machine
end

