-- ==== Sys2Proof/Machine/TypesStack.lean ====
section
/-!
DEFINITION. The state of the stacks, their controllers and their Sprouts (08_stack_memory_sprouts.md).
-/

namespace Sys2Proof.Machine

/-- Who waits for a stack unit, and for which bytes of its request. -/
inductive StackSrc where
  | stream (core : CoreId) (req : Nat) (at_ : Nat)
  | attn (core : CoreId) (fetch : Nat) (at_ : Nat)
  | bar4 (id : Nat) (at_ : Nat)
  | guest (site : Nat) (id : Nat) (at_ : Nat)
  | kv (part : PartId)
  | taproot
  deriving DecidableEq, Repr

/-- A unit of at most 512 bytes within one 512-byte block, waiting at its stack controller (R180): a read, or a write of
its bytes. `part` is the requester's partition, none for the operator and for Taproot. -/
structure StackUnit where
  src   : StackSrc
  part  : Option PartId
  addr  : Nat
  len   : Nat
  write : Option (List Byte)
  deriving DecidableEq, Repr

/-- A segment of the read buffer (R181): the 2 KiB segment by number, the partition that owns its page, and the 64-byte
blocks it holds, by their place in the segment; a poisoned block is held without data. -/
structure BufSeg where
  seg   : Nat
  owner : Option PartId
  blocks : Tbl (Option (List Byte))
  deriving DecidableEq, Repr

/-- What a thin command carries beside its block (R221): x, and the covered rows as (page address, first row, rows). -/
structure ThinArgs where
  x     : List Byte
  pages : List (Nat × Nat × Nat)
  deriving DecidableEq, Repr

/-- A Sprout command at its stack (R190, R198). -/
structure SprCmd where
  id    : Nat
  core  : CoreId
  ctx   : CtxId
  part  : PartId
  block : List Byte
  pc    : BitVec 18
  task  : Option Nat
  thin  : Option ThinArgs
  deriving DecidableEq, Repr

/-- The command that a stack runs (R197): the 64-byte output blocks it has still to write, the sums it will return, the cause of
its task fault, and whether a row step of it has written (R201). -/
structure SprRun where
  cmd   : SprCmd
  out   : List (Nat × List Byte)
  sums  : List PlaceSum
  fault : Option Nat
  wrote : Bool
  deriving DecidableEq, Repr

/-- The traffic generator (R188, R189, Table 8.11); `run` is the mode and pattern of the test in progress, with its channel
mask and rows. -/
structure TgRegs where
  pattern : Nat
  chmask  : BitVec 32
  first   : Nat
  last    : Nat
  seed    : W32
  done    : Bool
  refused : Bool
  failmask : BitVec 32
  errs    : BitVec 64
  firstCh : Nat
  firstBlk : Nat
  run     : Option (Nat × Nat × BitVec 32 × Nat × Nat)
  deriving DecidableEq, Repr

/-- A stack, its controller and its Sprouts (08_stack_memory_sprouts.md). `rr` and `sprRr` are the round-robins: the
requester that had the last grant and its grants in the round. `hfence` and `pfence` list the commands that a fence waits for (R204, R302). `pprUsed` counts repair rows used, by channel × 64 + bank;
`idleTicks` counts the Tuber ticks of R340. -/
structure Stack where
  mem      : PMem
  units    : List StackUnit
  rr       : Nat × Nat
  buf      : List BufSeg
  evTgDone : Bool
  evNoSpare : Bool
  evRepaired : Bool
  evPoisoned : Bool
  evUncorr : Bool
  evCorr   : Bool
  repairs  : W32
  cetLost  : W32
  corr     : BitVec 64
  uncorr   : BitVec 64
  hits     : BitVec 64
  acts     : BitVec 64
  tg       : TgRegs
  cet      : Vector CetEntry 16
  cetWait  : List CetEv
  copies   : List NearCopy
  pprUsed  : Tbl Nat
  repaired : List (Nat × Nat)
  hard     : List (Nat × Nat)
  scrub    : Vector Nat 32
  refresh  : Tbl Nat
  band     : Nat
  bandFall : Nat
  selfRef  : Bool
  idleTicks : Nat
  sprQ     : List SprCmd
  sprRun   : Option SprRun
  sprRr    : Nat × Nat
  evHfence : Bool
  evFault  : Bool
  evParity : Bool
  evThrottled : Bool
  cmds     : BitVec 64
  macs     : BitVec 64
  waitCyc  : BitVec 64
  yields   : BitVec 64
  hfence   : Option (List Nat)
  pfence   : List (PartId × Nat)
  deriving DecidableEq, Repr

/-- A KV page (R226). -/
structure KvPage where
  refs    : Nat
  leases  : Nat
  copying : Bool
  deriving DecidableEq, Repr

/-- A request to the page manager (R227): the channel and HSEQ that its completion names, its entries, the entries applied,
the copy in progress as (source, destination), once it has ended the index of the refused entry with its code, and of the copy (R229)
the units read and written, whether one is at a controller, and the last unit read with its unusable blocks. -/
structure KvReq where
  part    : PartId
  channel : Nat
  hseq    : W32
  entries : List (BitVec 64 × BitVec 64)
  applied : Nat
  copy    : Option (Nat × Nat)
  ended   : Option (Nat × Nat)
  done    : Nat
  busy    : Bool
  unit    : List Byte
  bad     : List Bool
  deriving DecidableEq, Repr

/-- The KV page manager (R225 to R234). `pages` is keyed by partition × 2^33 + page number; `state` and `counts` are what the
last selection latched. -/
structure Kvp where
  pages   : Tbl KvPage
  reqs    : List KvReq
  evCopyPoison : Bool
  evLeaseWait : Bool
  evRefused : Bool
  selPart : Nat
  selLo   : W32
  selHi   : W32
  state   : W32
  counts  : W32
  copies  : BitVec 64
  leases  : BitVec 64
  deriving DecidableEq, Repr

/-- A write that the device has sent to host memory, in the order sent (R298). -/
structure HostWrite where
  part : Option PartId
  addr : Nat
  data : List Byte
  deriving DecidableEq, Repr

end Sys2Proof.Machine
end

