-- ==== Sys2Proof/Machine/TypesHost.lean ====
section
/-!
DEFINITION. The state of the host interface (12_host.md).
-/

namespace Sys2Proof.Machine

/-- A held completion entry (R297): KIND, BODY, DEADLINE_MISS, and whether it stands in the program hold. -/
structure HeldEntry where
  kind : Nat
  body : List Byte
  miss : W32
  prog : Bool
  deriving DecidableEq, Repr

/-- A ring of completion entries (R297, Table 12.10) with the entries that wait for it. -/
structure Ring where
  baseLo : W32
  baseHi : W32
  enable : Bool
  arm    : Bool
  log2   : Nat
  tail   : W32
  head   : W32
  issued : W32
  held   : List HeldEntry
  deriving DecidableEq, Repr

/-- An accepted body in a channel buffer (R293); `sent` says that it is on its way to its receiver, and `id` names its MSG. -/
structure HostMsg where
  id   : Nat
  hseq : W32
  tag  : BitVec 16
  dest : Nat
  body : List Byte
  sent : Bool
  deriving DecidableEq, Repr

/-- A channel of a partition (R291 to R297). `marks` holds the windows bytes (first, count) of the writes that marked the
message at `d`; `gone` holds discarded bodies that wait for their ABSORBED entries, as (HSEQ, bytes) (R294); `stop` and
`epoch` are what the hub keeps as the sender of the channel's MSGs (R248). -/
structure Channel where
  stopped : Bool
  win     : Mem
  marks   : List (Nat × Nat)
  d       : Nat
  accepted : W32
  buf     : List HostMsg
  gone    : List (W32 × Nat)
  stop    : Bool
  epoch   : Bool
  errs    : W32
  ring    : Ring
  deriving DecidableEq, Repr

/-- A notice ring of the physical function (R304). -/
structure NoticeRing where
  ring : Ring
  mask : BitVec 3
  deriving DecidableEq, Repr

/-- What a partition's status block holds (Table 12.10): its channels, its event bits, its notice setting, the Sprout fence of
R302, the snapshot of its meters (R305), and the round-robin among its channels (R293). -/
structure PartStatus where
  ch          : Vector Channel 8
  rr          : Nat × Nat
  evRingFault : Bool
  evFence     : Bool
  evNotice    : Bool
  evFault     : Bool
  evReset     : Bool
  evAbsorbed  : Bool
  noticeOn    : Bool
  noticeCh    : Nat
  fence       : Bool
  snap        : Vector (BitVec 64) 12
  snaps       : W32
  deriving DecidableEq, Repr

/-- A BAR4 read in progress (R301): its stack physical address, its bytes so far, the units it still waits for, and whether a
block of it was poisoned. -/
structure BarRead where
  id    : Nat
  addr  : Nat
  data  : List Byte
  waits : Nat
  bad   : Bool
  deriving DecidableEq, Repr

/-- The chip-level host registers (Table 12.10) and what stands behind them; `refusals` names the BAR4 writes in progress of which a
unit has been refused (R301). `mask` and `pend` are the vectors that are masked under MSI-X and those that it holds pending (R304). -/
structure Hst where
  width   : Nat
  speed   : Nat
  flit    : Bool
  evRingFault : Bool
  evNotice : Bool
  evOutCheck : Bool
  evRefused : Bool
  evPoison : Bool
  evDrop  : Bool
  barOn   : Bool
  barEver : Bool
  barGib  : Nat
  drops   : BitVec 64
  rings   : Vector NoticeRing 8
  rr      : Nat × Nat
  reads   : List BarRead
  refusals : List Nat
  mask    : List (Fn × Nat)
  pend    : List (Fn × Nat)
  nextId  : Nat
  deriving DecidableEq, Repr

/-- What the device answers to an access or a request from outside: a register's value, a bus error (R5), Unsupported
Request, Configuration Request Retry Status, data of a BAR4 read with its Poisoned bit, or the bytes of a management or Data
Object Exchange response. -/
inductive Resp where
  | value (v : BitVec 64)
  | busError
  | unsupported
  | retry
  | bar4 (data : List Byte) (poisoned : Bool)
  | bytes (kind : Nat) (data : List Byte)
  deriving DecidableEq, Repr

end Sys2Proof.Machine
end

