-- ==== Sys2Proof/Machine/TypesLink.lean ====
section
/-!
DEFINITION. The state of the reduction nodes, the chip-link ports and the collective engines
(10_mesh_sync_reduction.md, R255 to R262; 11_chip_links.md).
-/

namespace Sys2Proof.Machine

/-- The reduction node of a region: the chunks it holds, the first block it has seen of each operation as (tree, operation,
block), the results whose header chunk must carry OVERFLOW, as (tree, operation, stage, place), the operations that have
failed, those whose mismatch it has recorded as the root (R257), and the round-robin among its cores. -/
structure RedNode where
  held  : List RedChunk
  seen  : List (Nat × Nat × List Byte)
  ovf   : List (Nat × Nat × Nat × Nat)
  dead  : List (Nat × Nat)
  told  : List (Nat × Nat)
  rr    : Nat × Nat
  evMismatch : Bool
  ops   : BitVec 64
  bytes : BitVec 64
  deriving DecidableEq, Repr

/-- A chip-link frame (R268). -/
structure LinkFrame where
  kind    : Nat
  tree    : Nat
  seq     : Nat
  srcRank : Nat
  op      : Nat
  dstRank : Nat
  chunk   : Nat
  data    : List Byte
  deriving DecidableEq, Repr

inductive PortSt where
  | off | training | up | failed
  deriving DecidableEq, Repr

/-- The steps of Table 11.5 before UP. -/
inductive TrainStep where
  | detect | equalize | deskew | width | identify
  deriving DecidableEq, Repr

/-- What Tops saves of a training for one temperature band (R271). -/
structure SavedSet where
  ident : List Byte
  peer  : Nat
  width : Nat
  deriving DecidableEq, Repr

/-- A chip-link port (R263 to R271, R287). `prevWidth` is the width before the training in progress, 0 for a first one.
`replay` holds the DATA flits that no ACK covers, as (SEQ, BODY), oldest first; `txRest` is what is left of the frame in
transmission and `txq` the frames that wait; `rxRest` is the frame in reception and `rxq` the frames that have arrived. `nak`
says that DATA flits are discarded until `rxSeq` arrives, `rxAny` that a flit has been accepted. `slot` is the number of the next
slot (R265), modulo 5 × 4,096, and `out` lists the flits sent by slot since the port became UP, IDLE ones left out. `reps` and `repAge`
count replays within the window of R270. `again` says that the training in progress is a retrain; `rsq` holds the frames that an edge's
change of ports sends again (R274), oldest first; `rxPair` is the PAIR_SEQ of the pair in reception and `rxLost` says that a codeword of
it is lost. -/
structure LinkPort where
  st        : PortSt
  step      : TrainStep
  width     : Nat
  quads     : BitVec 4
  peer      : Nat
  reversed  : Bool
  band      : Nat
  saved     : Bool
  cause     : Nat
  polarity  : BitVec 16
  ident     : List Byte
  full      : Bool
  prevWidth : Nat
  sets      : Tbl SavedSet
  evFailed  : Bool
  evNarrowed : Bool
  evRetrained : Bool
  evUncorr  : Bool
  evReplay  : Bool
  replays   : BitVec 64
  fecCorr   : BitVec 64
  uncorr    : BitVec 64
  txData    : BitVec 64
  retrains  : W32
  txSeq     : Nat
  replay    : List (Nat × List Byte)
  txRest    : List Byte
  txq       : List LinkFrame
  rxSeq     : Nat
  nak       : Bool
  rxRest    : List Byte
  rxq       : List LinkFrame
  rxAny     : Bool
  slot      : Nat
  out       : List (Nat × List Byte)
  reps      : Nat
  repAge    : Nat
  again     : Bool
  rsq       : List LinkFrame
  rxPair    : Option Nat
  rxLost    : Bool
  deriving DecidableEq, Repr

/-- Tree states (Table 11.6). -/
inductive TreeSt where
  | confirming | ready | broken
  deriving DecidableEq, Repr

/-- What an engine keeps of an edge (R268, R273 to R276): whether it is confirmed and uses its alternate port, the sequence of
the next frame to send and of the next to consume, the frames that no ACK covers and those that wait for the window, the ranks
of the peer's subtree and whether all of them have arrived. -/
structure EdgeSt where
  confirmed : Bool
  alt       : Bool
  txSeq     : Nat
  rxSeq     : Nat
  unacked   : List LinkFrame
  waitq     : List LinkFrame
  ranks     : List Nat
  got       : Bool
  deriving DecidableEq, Repr

/-- An operation in progress at an engine, or at the root node of a tree without one: its descriptor, the parts that have
arrived as (edge, or 255 for the chip's own; chunk; bytes), whether OVERFLOW is due in its header, and the chunks delivered on
the chip. Blocks of several cores follow one another in partition core number (log 30): `wait` holds the chip's own chunks whose
turn has not come, `sent` counts the chunks sent by destination rank, `got` those delivered by source and destination rank. -/
structure EngOp where
  op        : Nat
  desc      : List Byte
  parts     : List (Nat × Nat × List Byte)
  ovf       : Bool
  delivered : Nat
  wait      : List RedChunk
  sent      : Tbl Nat
  got       : List (Nat × Nat × Nat)
  deriving DecidableEq, Repr

/-- A collective tree of a partition (R275): its edges in the order of its record, whether its SUBTREE has gone up, its
operations, the ones that have failed, the chunks of its own chip that wait for READY, and COL_TREE_OPS. -/
structure Tree where
  part  : PartId
  tree  : Nat
  st    : TreeSt
  cause : Nat
  edges : List EdgeSt
  sent  : Bool
  ops   : List EngOp
  dead  : List Nat
  stash : List RedChunk
  count : W32
  deriving DecidableEq, Repr

/-- The COL registers of a link die (R287), and the round of its engine's grants among partitions (R18). -/
structure LinkDie where
  evNoticeRx : Bool
  evNoticeTx : Bool
  evSwitch   : Bool
  evOpFail   : Bool
  evBroken   : Bool
  selPart    : Nat
  selTree    : Nat
  notice     : W32
  bytes      : BitVec 64
  resend     : BitVec 64
  rr         : Nat × Nat
  deriving DecidableEq, Repr

end Sys2Proof.Machine
end

