-- ==== Sys2Proof/Machine/TypesMgmt.lean ====
section
/-!
DEFINITION. The state of the hub: configuration streams, trust, power and clocks, temperature, die links, guest sites,
bring-up and management (02_configuration_stream.md; 13_trust.md; 14_power_clocks.md; 15_thermal.md; 16_faults.md;
17_package.md).
-/

namespace Sys2Proof.Machine

/-! ### Fuses (Table 17.11) -/

/-- What the assembly and the fuses give the device, but for the secrets and the tables that Config names: its ordering code
(Table 0.8), for each region the physical cores that take
local indices 0, 1, … (fewer than 4 where too few are good), for each physical core (region × 5 + core) its repaired cube row,
bad lanes as (pair, bundle, lane), fitted guest sites with their rail voltage codes, and the blown security fuses. -/
structure Fuses where
  code     : Nat
  cores    : Vector (List (Fin 5)) 32
  cubeRows : Tbl Nat
  lanes    : List (Nat × Nat × Nat)
  fitted   : BitVec 2
  guestRail : Vector (Fin 3) 2
  enrolled : Bool
  epoch    : Nat
  patchFloor : Nat
  topsFloor  : Nat
  key0Revoked : Bool
  deriving DecidableEq, Repr

/-! ### The configuration stream (Table 2.9) -/

/-- CFG_STATUS.STATE. -/
inductive CfgSt where
  | idle | fetch | verify | validate | apply | done | rejected
  deriving DecidableEq, Repr

/-- What the stream in progress waits for. -/
inductive CfgWait where
  | fetch
  | commit
  | table
  | teardown
  | reset
  deriving DecidableEq, Repr

/-- The stream in progress: whether Tops handed it over, its length, the scope and partition of its header once fetched, its
bytes once staged, what it waits for, the ticks since its table was sealed (R318), the dies it uses, by ID (R50), and the host address that it is read
from (none for Tops data RAM). -/
structure CfgRun where
  tops  : Bool
  len   : Nat
  hdr   : Option (Nat × Nat)
  bytes : List Byte
  wait  : CfgWait
  age   : Nat
  dies  : List Nat
  src   : Option Nat
  deriving DecidableEq, Repr

/-- An owner of a pin or timer (R46). -/
inductive PinOwner where
  | stream | tops
  deriving DecidableEq, Repr

/-- A claim on a GPIO pin (none for a claim of a timer alone) with its function, timer, partition and period; `count` is the
tick count of its heartbeat and `low` says that its pulse is in progress (R44). -/
structure PinSt where
  pin    : Option Nat
  func   : Nat
  timer  : Option Nat
  part   : Option Nat
  period : Nat
  owner  : PinOwner
  count  : Nat
  low    : Bool
  deriving DecidableEq, Repr

structure Cfg where
  st      : CfgSt
  error   : Nat
  srcLo   : W32
  srcHi   : W32
  len     : W32
  rec0    : W32
  rec1    : W32
  kind    : Nat
  index   : Nat
  owner   : Nat
  evRejected : Bool
  evDone  : Bool
  floor   : BitVec 64
  sel     : Nat
  run     : Option CfgRun
  chipDigest : List Byte
  chipSlot : Option Nat
  slots   : Tbl Nat
  pins    : List PinSt
  keys    : List (List Byte)
  deriving DecidableEq, Repr

/-! ### Trust (Table 13.15) -/

/-- SEC_STATUS.TOPS_STATE. -/
inductive TopsSt where
  | none | running | restarting | noImage | recovery
  deriving DecidableEq, Repr

inductive KtSt where
  | empty | valid | unrecovered
  deriving DecidableEq, Repr

/-- A running image: its slot (0 A, 1 B, 2 host), key, SVN, BUILD and digest. -/
structure Image where
  slot   : Nat
  key    : Nat
  svn    : Nat
  build  : Nat
  digest : List Byte
  deriving DecidableEq, Repr

/-- A guest certificate that waits for its challenge's answer, or that Taproot has accepted (R324, R325). -/
structure GuestCert where
  issuer : Nat
  mesh   : Bool
  id     : List Byte
  pub    : List Byte
  issuerKey : List Byte
  deriving DecidableEq, Repr

/-- What Taproot hands to Tops: a sealed table for a flash copy (R318), a claim that a stream took (R46), the answer to a
request (R310), a signed report or the chain for a management client, the life counts to save (R367), and a repair or mask that it
saves in flash as a field-repair record (R169, R186, R353, R375, R394). -/
inductive TopsMsg where
  | table (copy : Nat) (bytes : List Byte)
  | revoked (pin : Option Nat) (timer : Option Nat)
  | answer (code : Nat)
  | report (bytes : List Byte)
  | life (counts : List Nat)
  | trip (sensor : Nat) (temp : Int)
  | busError
  | word (v : W32)
  | fields (status : List Nat)
  | repair (r : FieldRec)
  deriving DecidableEq, Repr

/-- What Taproot serves one at a time (R323): a Data Object Exchange or MCTP request for a report (KIND 1) or the chain (KIND 2),
the commands of R313, R314 and R319, and a stream that arrived during a fetch of those. `mgmt` says that the answer goes out on the management bus at once; else Tops carries it. -/
inductive SvcReq where
  | doe (fn : Fn) (kind scope pad : Nat) (nonce : List Byte)
  | mctp (mgmt : Bool) (kind scope pad : Nat) (nonce : List Byte)
  | commit
  | revoke
  | load
  | recover
  | stream (tops : Bool) (len : Nat) (src : Option Nat)
  deriving DecidableEq, Repr

/-- `patchRam` and `codeRam` are what the boot chain has loaded from offset 0 of those memories (R311, R312), and `entry` is where the
management cores were released; `dataRam` is Tops data RAM; `flashLife` the life counts that the flash held at the start; what Taproot's data RAM holds stands in fields of its own. `imgFetch` is the address and the length
of an image's fetch in progress (R314), `ktFetch` the address of a key table's (R319). -/
structure Sec where
  waiting : List SvcReq
  tops    : TopsSt
  topsImg : Option Image
  patch   : Option Image
  kt      : KtSt
  table   : List Byte
  flashTops : Bool
  chain   : List Byte
  patchRam : List Byte
  patchLocked : Bool
  codeRam : List Byte
  dataRam : Mem
  flashLife : List Nat
  entry   : Option Nat
  imgFetch : Option (Nat × Nat)
  ktFetch : Option Nat
  evReject : Bool
  evAccept : Bool
  evRecovered : Bool
  evImg   : Bool
  evRestart : Bool
  imgLo   : W32
  imgHi   : W32
  imgLen  : W32
  imgDone : Bool
  imgCode : Nat
  ktLo    : W32
  ktHi    : W32
  ktDone  : Bool
  ktCode  : Nat
  reports : BitVec 64
  out     : List TopsMsg
  cert    : Vector (Option GuestCert) 2
  trial   : Vector (Option (GuestCert × List Byte × Nat)) 2
  deriving DecidableEq, Repr

/-! ### Power and clocks (Tables 14.9, 14.10) -/

structure Pwr where
  pin     : Bool
  vinLow  : Bool
  hold    : Bool
  capLimit : Bool
  below   : Nat
  above   : Nat
  evVinLow : Bool
  evCapFloor : Bool
  evCapLimit : Bool
  evEnvFloor : Bool
  evBrake : Bool
  cap     : Nat
  ramp    : Nat
  pkg     : Nat
  mv      : Nat
  amps    : Nat
  doze    : Nat
  sleep   : Nat
  last    : RegionId
  deriving DecidableEq, Repr

/-- `nmis` counts the non-maskable events that Taproot has taken (R344). -/
structure Clk where
  sysref  : Bool
  trimmed : Bool
  evHold  : Bool
  evRegion : Bool
  evDie   : Bool
  evSysref : Bool
  code    : Nat
  count   : Nat
  wins    : Nat
  failDie : Nat
  failRegion : Nat
  failClock : Nat
  failIsRegion : Bool
  enHub   : BitVec 8
  enLink  : BitVec 3
  enStack : BitVec 8
  enTile  : Vector (BitVec 9) 4
  enCores : Vector (BitVec 32) 4
  bad     : List (Nat × MonClk)
  backup  : BitVec 32
  nmis    : Nat
  deriving DecidableEq, Repr

/-! ### Temperature (15_thermal.md) -/

/-- A sensor: its last reading in units of 0.125 K, whether it was valid, its mask, its schedule with the rounds that count
toward leaving the fast one, and THM_SENSOR.ROR. -/
structure Sensor where
  temp   : Int
  valid  : Bool
  masked : Bool
  fast   : Bool
  cool   : Nat
  ror    : Nat
  deriving DecidableEq, Repr

/-- A site: its value, its values of the last 1,024 ticks as (tick, value), the round intervals that rose by more than 2 K,
whether an advisory holds, the rounds of disagreement of its twins, and whether its last reading stood at its shutdown limit. -/
structure Site where
  val   : Option Int
  hist  : List (Nat × Int)
  steep : Nat
  adv   : Bool
  dis   : Nat
  differ : Bool
  hot   : Bool
  hotDram : Bool
  deriving DecidableEq, Repr

/-- The thermal-cycle tracker of a region's DRAM (R366): none before its first reading. -/
structure Cycles where
  track : Option (Bool × Int × Int × Bool)
  count : Nat
  deriving DecidableEq, Repr

/-- A temperature band with the round readings that count toward its fall (R365, R171). -/
structure Band where
  band : Nat
  fall : Nat
  deriving DecidableEq, Repr

/-- `ceils` holds the ceilings of a region by source, in the order of Table 15.4; `ceil` and `cause` what they give (R356). `seen` says
that a housekeeping round has read the sensors since they were last without power or in reset. -/
structure Thm where
  sensors : Vector Sensor 301
  sites   : Vector Site 251
  seen    : Bool
  ceils   : Vector (Vector Nat 7) 32
  ceil    : Vector Nat 32
  cause   : Vector Nat 32
  noLogic : BitVec 32
  noStack : BitVec 8
  stack   : Vector Nat 8
  linkHot : BitVec 3
  linkBand : Vector Band 3
  tileThr : Vector (Option Nat) 4
  stackThr : BitVec 8
  emergency : Bool
  calm    : Nat
  inletDerate : Bool
  flowLow : Bool
  lowRounds : Nat
  evNoRef : Bool
  evInletInvalid : Bool
  evInletCold : Bool
  evFlowStop : Bool
  evFlowLow : Bool
  evMasked : Bool
  evEmergency : Bool
  evAdvisory : Bool
  evStack : Bool
  evThrottle : Bool
  tripValid : Bool
  tripSensor : Nat
  tripTemp : Int
  latch   : Bool
  flowOn  : Bool
  stopped : Bool
  flow    : Nat
  ppl     : Nat
  flowMin : Nat
  pulses  : List Nat
  flowSince : Nat
  sel     : Nat
  cycles  : Vector Cycles 32
  deriving DecidableEq, Repr

/-! ### Die links (Table 17.18) -/

inductive BunSt where
  | full | half | out | untrained
  deriving DecidableEq, Repr

/-- The sender of one direction of a bundle (R407): the DATA flits that it has numbered, its replay buffer of SEQs with their payloads,
and the payloads that wait for room in it. -/
structure DlTx where
  n      : Nat
  replay : List (Nat × List Byte)
  wait   : List (List (Option Byte))
  deriving DecidableEq, Repr

/-- A bundle (R393, R407, R408): `sp32` and `sp33` are the lanes that the spares replace; `lanes` the lanes lost; `sets` the bands for which
Tops has saved settings; `rx` for each direction the SEQ that the receiver expects next and whether it discards until it comes; `tx` the
senders; `sent` the flits that have left, by direction; `again` says that FULL was written. -/
structure Bundle where
  st     : BunSt
  half   : Bool
  saved  : Bool
  band   : Nat
  sp32   : Option Nat
  sp33   : Option Nat
  lanes  : List Nat
  again  : Bool
  sets   : List Nat
  crc    : BitVec 64
  replay : BitVec 64
  rx     : Vector (Nat × Bool) 2
  tx     : Vector DlTx 2
  sent   : List (Fin 2 × List Byte)
  deriving DecidableEq, Repr

/-- A die pair; `lost` says that a die reset has found no usable bundle for it (R391). -/
structure Pair where
  severed : Bool
  lost    : Bool
  evSevered : Bool
  evOut   : Bool
  evHalf  : Bool
  evSpared : Bool
  evRetrained : Bool
  band    : Band
  bundles : Vector Bundle 8
  deriving DecidableEq, Repr

/-! ### Guest sites (Table 17.20) -/

inductive GuestSt where
  | absent | training | admitted | down
  deriving DecidableEq, Repr

/-- A guest frame (Table 17.10). -/
structure GuestFrame where
  kind   : Nat
  window : Nat
  cls    : Nat
  tag    : BitVec 16
  dst    : BitVec 16
  addr   : Nat
  data   : List Byte
  deriving DecidableEq, Repr

/-- A DMA access of a guest in progress: its window and tag, its bytes, the units it waits for, and whether it has failed. -/
structure GuestDma where
  id     : Nat
  part   : PartId
  window : Nat
  tag    : BitVec 16
  read   : Bool
  data   : List Byte
  waits  : Nat
  bad    : Bool
  deriving DecidableEq, Repr

/-- A message that the hub keeps for a guest until its ACK (R412, R293), and whether it is on its way. -/
structure GuestMsg where
  id    : Nat
  part  : PartId
  dst   : BitVec 16
  tag   : BitVec 16
  cls   : Nat
  body  : List Byte
  sent  : Bool
  deriving DecidableEq, Repr

/-- `side` holds what has gone to the guest over the sideband: challenges (R325). `heldNew` says that the first held frame came after the
last refill of the budgets. -/
structure Guest where
  st      : GuestSt
  rate    : Nat
  modules : Nat
  x8      : BitVec 4
  rail    : Bool
  evPower : Bool
  evViol  : Bool
  evDown  : Bool
  evAdmitted : Bool
  vioWindow : Nat
  vioKind : Nat
  vioCause : Nat
  ident   : List Byte
  inBytes : BitVec 64
  outBytes : BitVec 64
  viol    : BitVec 64
  heldCyc : BitVec 64
  heldNew : Bool
  budget  : Vector Int 32
  held    : List GuestFrame
  out     : List GuestFrame
  side    : List (List Byte)
  dma     : List GuestDma
  msgs    : List GuestMsg
  stops   : List (PartId × BitVec 16 × Nat × Bool × Bool)
  rr      : Nat × Nat
  nextId  : Nat
  deriving DecidableEq, Repr

/-! ### Bring-up, pins and management -/

/-- Where the device stands: power absent or off, held in reset by PERST_N, waiting for SYSREF, in a phase of Table 17.13 (the
last one finished), or without a Tops image. -/
inductive Phase where
  | noVaux | noVin | perst | sysref | start | a | b | c | d | e | f | g | noImage
  deriving DecidableEq, Repr

/-- What the management bus tells of the device (R419). -/
inductive MgmtEv where
  | throttle (begin : Bool) (die : Nat)
  | record (index : W32)
  | chipReset
  | outOfService
  deriving DecidableEq, Repr

/-- A register access that waits for a region to wake (R338). -/
structure RegAcc where
  fn    : Fn
  off   : Nat
  size  : Nat
  write : Option (BitVec 64)
  deriving DecidableEq, Repr

/-- `lowVin` says that VIN has been below 6 V for 100 ms and has not been applied since (R362); `cold` that no start since the power cycle
has passed phase E, and `fullStart` that the settings saved are not this device's (R415). -/
structure Hub where
  phase   : Phase
  vaux    : Bool
  vin     : Bool
  perst   : Bool
  ready   : Bool
  cycleReq : Bool
  needCycle : Bool
  lowVin  : Bool
  powered : Bool
  bootAge : Nat
  booting : Bool
  fieldWait : Bool
  fieldAge : Nat
  applied : Vector Nat 32
  afterReset : Bool
  eid     : Nat
  events  : List MgmtEv
  waitAcc : List RegAcc
  shadow  : Tbl W32
  smbAddr : BitVec 2
  cold    : Bool
  fullStart : Bool
  deriving DecidableEq, Repr

/-- The table of lane events (R420), in the form of a region's table. -/
structure DlTab where
  cet  : Vector CetEntry 16
  lost : W32
  deriving DecidableEq, Repr

end Sys2Proof.Machine
end

