-- ==== Sys2Proof/Machine/State.lean ====
section
/-!
DEFINITION. The state of the whole device, as plain data, with the value every piece has right after reset.
-/

namespace Sys2Proof.Machine

/-- Why the machine stops. No command of this block stops it: where the spec gives a command no effect in a state, the
command is no event there and the state stays as it is (log 1), so this type has no constructor. -/
inductive Fault where
  deriving DecidableEq, Repr

/-- Why a command has no meaning. -/
inductive Refusal where
  /-- The dispatch's arm of a command that has no meaning yet. Safe: nothing is claimed of it. -/
  | notModelled (mnemonic : String)
  deriving DecidableEq, Repr

/-- One logical core (R57). `early` holds result chunks of collective commands that the core has not issued yet (R249, log 37). `accDiff` and `inbDiff` hold, for the
blocks of the accumulator file and of the inbox, the stored check bits XOR those of the stored data (R375). `now` is the model's own: the ACLK cycles that had passed at the last deadline trigger (R150). -/
structure Core where
  ctx       : Vector Ctx 4
  lastSlot  : CtxId
  hdrFault  : Bool
  evFaulted : BitVec 4
  idle      : BitVec 64
  switches  : BitVec 64
  opbuf     : PMem
  imem      : PMem
  tiles     : Vector AccTile 8
  tasks     : List Task
  nextId    : Nat
  passes    : List Pass
  replays   : List Pass
  epi       : Option EpiRun
  attn      : Option AttnRun
  xfers     : List Xfer
  reqs      : List Req
  inbox     : Vector (List InMsg) 4
  marks     : List RefMark
  outbox    : List OutMsg
  pairs     : List SendPair
  notices   : List OutMsg
  lastUnit  : Vector CtxId 2
  cube      : CubeRegs
  epiRegs   : EpiRegs
  strm      : StrmRegs
  nsl       : NslRegs
  att       : AttRegs
  copies    : List RowCopy
  retired   : List RowCopy
  cols      : List ColCmd
  colSeq    : Tbl Nat
  early     : List RedChunk
  accDiff   : Tbl (BitVec 72)
  inbDiff   : Tbl (BitVec 72)
  now       : Nat
  holds     : List OpHold
  deriving DecidableEq, Repr

structure State where
  cores   : Vector Core 128
  regions : Vector Region 32
  parts   : Vector PartCfg 32
  near    : Vector Near 160
  stks  : Vector Stack 8
  kvp     : Kvp
  pst     : Vector PartStatus 32
  hst     : Hst
  irqs    : List (Fn × Nat)
  resps   : List Resp
  hostWrites : List HostWrite
  red     : Vector RedNode 32
  ports   : Vector LinkPort 24
  trees   : List Tree
  links   : Vector LinkDie 3
  mesh    : List Frame
  routes  : List RouteEnt
  meshTiles : Vector MeshTile 4
  meters  : Vector (Vector (BitVec 64) 12) 32
  flt     : Flt
  fuses   : Fuses
  cfg     : Cfg
  sec     : Sec
  pwr     : Pwr
  clk     : Clk
  thm     : Thm
  pairs   : Vector Pair 22
  dl      : DlTab
  guests  : Vector Guest 2
  hub     : Hub
  tick    : Nat
  freeCtr : Nat
  pending : List Instr
  deriving DecidableEq, Repr

/-! ### Reset -/

def PMem.empty : PMem := ⟨[], []⟩

def Ctx.reset : Ctx :=
  ⟨.halted, .none, false, none, 0, .replicate 32 0, .replicate 16 0, .replicate 16 0, .replicate 8 0, [], 0, 0, 0, none, 0, 0, 0⟩

def XEl.zero : XEl := ⟨0, .finite⟩

def AccTile.reset : AccTile := ⟨List.replicate 4096 XEl.zero, some 0, false, false⟩

def Core.reset : Core where
  ctx := .replicate 4 Ctx.reset
  lastSlot := 3
  hdrFault := false
  evFaulted := 0
  idle := 0
  switches := 0
  opbuf := PMem.empty
  imem := PMem.empty
  tiles := .replicate 8 AccTile.reset
  tasks := []
  nextId := 0
  passes := []
  replays := []
  epi := none
  attn := none
  xfers := []
  reqs := []
  inbox := .replicate 4 []
  marks := []
  outbox := []
  pairs := []
  notices := []
  lastUnit := .replicate 2 3
  cube := ⟨none, false, false, false, false, false, 0, 0, 0, 0, 0, false, 0, 0, 0, 0⟩
  epiRegs := ⟨false, false, false, 0, 0, 0, []⟩
  strm := ⟨false, false, false, false, 0, 0, 0, 0, 0, 31⟩
  nsl := ⟨false, false, false, false, false, 0, 0, 0, 0, 0, 0, 0, true, .replicate 16 0, .replicate 3 0, 0, 0, 0, none⟩
  att := ⟨false, false, false, false, false, 0, 0, 0⟩
  copies := []
  retired := []
  cols := []
  colSeq := []
  early := []
  accDiff := []
  inbDiff := []
  now := 0
  holds := []

def SyncObj.reset : SyncObj := ⟨0, 0, .done, 0, none⟩

def CetEntry.reset : CetEntry := ⟨false, false, 0, 0, 0, 0, 0, 0, 0, 0, 0, 0⟩

def Region.reset : Region where
  owner := none
  held := false
  power := .asleep
  wakeFrom := .asleep
  level := 7
  volt := 200
  limit := 0
  ceil := 7
  moved := false
  dozeTicks := 0
  wakes := 0
  aclk := 0
  watts := 0
  onBackup := false
  railOk := true
  objs := []
  waits := []
  syncOps := 0
  cet := .replicate 16 CetEntry.reset
  cetWait := []
  cetLost := 0
  lastRec := List.replicate 32 0
  fusePhys := #v[0, 1, 2, 3]
  band := 2
  bandFall := 0

def PartCfg.none : PartCfg :=
  ⟨false, 0, [1, 1, 1, 1], [], [], [], [], [], Option.none, [], [], [], [], [], false, [], [], [], []⟩

def Flt.reset : Flt where
  log := []
  head := 0
  waiting := []
  evOos := false
  evSevered := false
  evPart := false
  evWrap := false
  evRecord := false
  sinceWrap := 0
  logSel := 0
  run := none
  held := []
  stDone := true
  stUnit := 0
  stCode := 0
  hist := []
  heartbeat := 0
  lastBeat := 0
  chipCause := 0
  chipCount := 0
  chipAge := 0
  chipCounted := false
  oos := false
  topsCount := 0
  topsAge := 0
  regionBad := 0
  severed := 0
  partFaulted := 0
  partUnserviced := 0
  partHeld := 0

def TgRegs.reset : TgRegs := ⟨0, 0, 0, 0x3FFF, 0, true, false, 0, 0, 0, 0, none⟩

def Stack.reset : Stack where
  mem := PMem.empty
  units := []
  rr := (0, 0)
  buf := []
  evTgDone := false
  evNoSpare := false
  evRepaired := false
  evPoisoned := false
  evUncorr := false
  evCorr := false
  repairs := 0
  cetLost := 0
  corr := 0
  uncorr := 0
  hits := 0
  acts := 0
  tg := TgRegs.reset
  cet := .replicate 16 CetEntry.reset
  cetWait := []
  copies := []
  pprUsed := []
  repaired := []
  hard := []
  scrub := .replicate 32 0
  refresh := []
  band := 2
  bandFall := 0
  selfRef := true
  idleTicks := 0
  sprQ := []
  sprRun := none
  sprRr := (0, 0)
  evHfence := false
  evFault := false
  evParity := false
  evThrottled := false
  cmds := 0
  macs := 0
  waitCyc := 0
  yields := 0
  hfence := none
  pfence := []

def Ring.reset : Ring := ⟨0, 0, false, false, 6, 0, 0, 0, []⟩

def Channel.reset : Channel := ⟨false, [], [], 0, 0, [], [], false, false, 0, Ring.reset⟩

def PartStatus.reset : PartStatus where
  ch := .replicate 8 Channel.reset
  rr := (0, 0)
  evRingFault := false
  evFence := false
  evNotice := false
  evFault := false
  evReset := false
  evAbsorbed := false
  noticeOn := false
  noticeCh := 0
  fence := false
  snap := .replicate 12 0
  snaps := 0

def Hst.reset : Hst where
  width := 0
  speed := 0
  flit := false
  evRingFault := false
  evNotice := false
  evOutCheck := false
  evRefused := false
  evPoison := false
  evDrop := false
  barOn := false
  barEver := false
  barGib := 0
  drops := 0
  rings := .replicate 8 ⟨Ring.reset, 0⟩
  rr := (0, 0)
  reads := []
  refusals := []
  mask := []
  pend := []
  nextId := 0

def Kvp.reset : Kvp := ⟨[], [], false, false, false, 0, 0, 0, 0, 0, 0, 0⟩

def RedNode.reset : RedNode := ⟨[], [], [], [], [], (0, 0), false, 0, 0⟩

def LinkPort.reset : LinkPort where
  st := .off
  step := .detect
  width := 0
  quads := 0
  peer := 0
  reversed := false
  band := 0
  saved := false
  cause := 0
  polarity := 0
  ident := []
  full := false
  prevWidth := 0
  sets := []
  evFailed := false
  evNarrowed := false
  evRetrained := false
  evUncorr := false
  evReplay := false
  replays := 0
  fecCorr := 0
  uncorr := 0
  txData := 0
  retrains := 0
  txSeq := 0
  replay := []
  txRest := []
  txq := []
  rxSeq := 0
  nak := false
  rxRest := []
  rxq := []
  rxAny := false
  slot := 0
  out := []
  reps := 0
  repAge := 0
  again := false
  rsq := []
  rxPair := none
  rxLost := false

def Fuses.reset : Fuses := ⟨1, .replicate 32 [0, 1, 2, 3], [], [], 0, .replicate 2 0, false, 0, 0, 0, false⟩

def Cfg.reset : Cfg where
  st := .idle
  error := 0
  srcLo := 0
  srcHi := 0
  len := 0
  rec0 := 0xFFFFFFFF
  rec1 := 0xFFFFFFFF
  kind := 0
  index := 0
  owner := 0xFF
  evRejected := false
  evDone := false
  floor := 0
  sel := 0xFF
  run := none
  chipDigest := []
  chipSlot := none
  slots := []
  pins := []
  keys := [[], [], [], []]

def Sec.reset : Sec where
  waiting := []
  tops := .none
  topsImg := none
  patch := none
  kt := .empty
  table := []
  flashTops := false
  chain := []
  patchRam := []
  patchLocked := false
  codeRam := []
  dataRam := []
  flashLife := []
  entry := none
  imgFetch := none
  ktFetch := none
  evReject := false
  evAccept := false
  evRecovered := false
  evImg := false
  evRestart := false
  imgLo := 0
  imgHi := 0
  imgLen := 0
  imgDone := true
  imgCode := 0
  ktLo := 0
  ktHi := 0
  ktDone := true
  ktCode := 0
  reports := 0
  out := []
  cert := .replicate 2 none
  trial := .replicate 2 none

def Pwr.reset : Pwr :=
  ⟨false, false, false, false, 0, 0, false, false, false, false, false, 2500, 250, 0, 0, 0, 4096, 2000, 31⟩

def Clk.reset : Clk where
  sysref := false
  trimmed := false
  evHold := false
  evRegion := false
  evDie := false
  evSysref := false
  code := Config.trimCode
  count := 0
  wins := 0
  failDie := 0
  failRegion := 0
  failClock := 0
  failIsRegion := false
  enHub := 0
  enLink := 0
  enStack := 0
  enTile := .replicate 4 0
  enCores := .replicate 4 0
  bad := []
  backup := 0
  nmis := 0

def Thm.reset : Thm where
  sensors := .replicate 301 ⟨0, false, false, false, 0, 0⟩
  sites := .replicate 251 ⟨none, [], 0, false, 0, false, false, false⟩
  seen := false
  ceils := .replicate 32 #v[28, 28, 7, 7, 7, 7, 28]
  ceil := .replicate 32 7
  cause := .replicate 32 0
  noLogic := 0
  noStack := 0
  stack := .replicate 8 0
  linkHot := 0
  linkBand := .replicate 3 ⟨3, 0⟩
  tileThr := .replicate 4 none
  stackThr := 0
  emergency := false
  calm := 0
  inletDerate := false
  flowLow := false
  lowRounds := 0
  evNoRef := false
  evInletInvalid := false
  evInletCold := false
  evFlowStop := false
  evFlowLow := false
  evMasked := false
  evEmergency := false
  evAdvisory := false
  evStack := false
  evThrottle := false
  tripValid := false
  tripSensor := 0
  tripTemp := 0
  latch := false
  flowOn := false
  stopped := false
  flow := 0
  ppl := 0
  flowMin := 36
  pulses := []
  flowSince := 0
  sel := 0
  cycles := .replicate 32 ⟨none, 0⟩

def Bundle.reset : Bundle := ⟨.untrained, false, false, 3, none, none, [], false, [], 0, 0, .replicate 2 (0, false), .replicate 2 ⟨0, [], []⟩, []⟩

def Pair.reset : Pair := ⟨false, false, false, false, false, false, false, ⟨3, 0⟩, .replicate 8 Bundle.reset⟩

def Guest.reset : Guest :=
  ⟨.absent, 0, 0, 0, false, false, false, false, false, 0, 0, 0, [], 0, 0, 0, 0, false, .replicate 32 0, [], [], [], [], [], [], (0, 0), 0⟩

/-- The supplies are good and bring-up has not begun. -/
def Hub.reset : Hub where
  phase := .start
  vaux := true
  vin := true
  perst := false
  ready := false
  cycleReq := false
  needCycle := false
  lowVin := false
  powered := true
  bootAge := 0
  booting := true
  fieldWait := false
  fieldAge := 0
  applied := .replicate 32 0
  afterReset := false
  eid := 0
  events := []
  waitAcc := []
  shadow := []
  smbAddr := 0
  cold := true
  fullStart := false

/-- The device right after reset, with nothing waiting. -/
def State.reset : State where
  cores := .replicate 128 Core.reset
  regions := .replicate 32 Region.reset
  parts := .replicate 32 PartCfg.none
  near := .replicate 160 ⟨PMem.empty, [], [], [], 0, []⟩
  stks := .replicate 8 Stack.reset
  kvp := Kvp.reset
  pst := .replicate 32 PartStatus.reset
  hst := Hst.reset
  irqs := []
  resps := []
  hostWrites := []
  red := .replicate 32 RedNode.reset
  ports := .replicate 24 LinkPort.reset
  trees := []
  links := .replicate 3 ⟨false, false, false, false, false, 0, 0, 0, 0, 0, (0, 0)⟩
  mesh := []
  routes := []
  meshTiles := .replicate 4 ⟨100, 100, false, false, false, 0, 0, 0, 0⟩
  meters := .replicate 32 (.replicate 12 0)
  flt := Flt.reset
  fuses := Fuses.reset
  cfg := Cfg.reset
  sec := Sec.reset
  pwr := Pwr.reset
  clk := Clk.reset
  thm := Thm.reset
  pairs := .replicate 22 Pair.reset
  dl := ⟨.replicate 16 CetEntry.reset, 0⟩
  guests := .replicate 2 Guest.reset
  hub := Hub.reset
  tick := 0
  freeCtr := 0
  pending := []

end Sys2Proof.Machine
end

