-- ==== Sys2Proof/Machine/Geometry.lean ====
section
/-!
DEFINITION. Numbering (01_structure.md, R13, R14, R19), who owns what, and the accessors of State.
-/

namespace Sys2Proof.Machine

/-! ### Numbering (R19) -/

def coreX (k : Nat) : Nat := k % 16
def coreY (k : Nat) : Nat := k / 16
def coreAt (x y : Nat) : CoreId := Fin.ofNat 128 (y * 16 + x)
def regionOf (k : CoreId) : RegionId := Fin.ofNat 32 ((coreY k / 2) * 8 + coreX k / 2)
def localOf (k : CoreId) : Nat := (coreY k % 2) * 2 + coreX k % 2
def tileOfCore (k : CoreId) : Nat := (coreY k / 4) * 2 + coreX k / 8
def tileOfRegion (r : Nat) : Nat := ((r / 8) / 2) * 2 + (r % 8) / 4
def regionInTile (r : Nat) : Nat := ((r / 8) % 2) * 4 + r % 4
def coreInTile (k : CoreId) : Nat := regionInTile (regionOf k) * 4 + localOf k
/-- The regions in ascending die ID, then region: the order in which records of one cycle are written (R371). -/
def regionsByDie : List RegionId := (List.range 4).flatMap (fun t => (List.finRange 32).filter (fun r => tileOfRegion r.val = t))
/-- The core at local index `l` of region `r`. -/
def coreOf (r : Nat) (l : Nat) : CoreId := coreAt ((r % 8) * 2 + l % 2) ((r / 8) * 2 + l / 2)
/-- Router position of local index `l` of region `r`. -/
def regX (r l : Nat) : Nat := (r % 8) * 2 + l % 2
def regY (r l : Nat) : Nat := (r / 8) * 2 + l / 2

/-- The stacks of tile `t` are `2t` and `2t + 1` (R14). -/
def tileOfStack (n : Nat) : Nat := n / 2
/-- The tiles a link die has bundles to (R14). -/
def tilesOfLink (d : Nat) : List Nat := if d = 0 then [0, 2] else if d = 1 then [1, 3] else [2, 3]

/-- Die IDs (R13). -/
def dieTile (t : Nat) : Nat := t
def dieStack (n : Nat) : Nat := 8 + n
def dieLink (d : Nat) : Nat := 16 + d
def dieHub : Nat := 24
def dieGuest (g : Nat) : Nat := 28 + g

/-! ### Vectors of units -/

def vget {α : Type} {n : Nat} (v : Vector α n) (i : Fin n) : α := v[i]
def vset {α : Type} {n : Nat} (v : Vector α n) (i : Fin n) (x : α) : Vector α n := v.set i.val x i.isLt
def vmod {α : Type} {n : Nat} (v : Vector α n) (i : Fin n) (f : α → α) : Vector α n := vset v i (f (vget v i))

def getCore (s : State) (k : CoreId) : Core := vget s.cores k
def setCore (s : State) (k : CoreId) (c : Core) : State := { s with cores := vset s.cores k c }
def modCore (s : State) (k : CoreId) (f : Core → Core) : State := setCore s k (f (getCore s k))
def getCtx (s : State) (k : CoreId) (c : CtxId) : Ctx := vget (getCore s k).ctx c
def modCtx (s : State) (k : CoreId) (c : CtxId) (f : Ctx → Ctx) : State :=
  modCore s k (fun x => { x with ctx := vmod x.ctx c f })
def getRegion (s : State) (r : RegionId) : Region := vget s.regions r
def modRegion (s : State) (r : RegionId) (f : Region → Region) : State := { s with regions := vmod s.regions r f }
def getPart (s : State) (p : PartId) : PartCfg := vget s.parts p
def modPart (s : State) (p : PartId) (f : PartCfg → PartCfg) : State := { s with parts := vmod s.parts p f }
def getPst (s : State) (p : PartId) : PartStatus := vget s.pst p
def modPst (s : State) (p : PartId) (f : PartStatus → PartStatus) : State := { s with pst := vmod s.pst p f }
def modHst (s : State) (f : Hst → Hst) : State := { s with hst := f s.hst }
def getCh (s : State) (p : PartId) (c : Nat) : Channel := vget (getPst s p).ch (Fin.ofNat 8 c)
def modCh (s : State) (p : PartId) (c : Nat) (f : Channel → Channel) : State :=
  modPst s p (fun x => { x with ch := vmod x.ch (Fin.ofNat 8 c) f })
/-- The device answers an access from outside. -/
def respond (s : State) (r : Resp) : State := { s with resps := s.resps ++ [r] }
def modFlt (s : State) (f : Flt → Flt) : State := { s with flt := f s.flt }
def addMeter (s : State) (p : PartId) (m : Fin 12) (n : Nat) : State :=
  { s with meters := vmod s.meters p (fun v => vmod v m (· + BitVec.ofNat 64 n)) }

def modStack (s : State) (n : Nat) (f : Stack → Stack) : State := { s with stks := vmod s.stks (Fin.ofNat 8 n) f }
def getStack (s : State) (n : Nat) : Stack := vget s.stks (Fin.ofNat 8 n)

/-- Puts a frame into the mesh. -/
def meshSend (s : State) (f : Frame) : State := { s with mesh := s.mesh ++ [f] }

/-- Keeps the elements for which the test holds and updates them. -/
def updIf {α : Type} (p : α → Bool) (f : α → α) (l : List α) : List α := l.map (fun x => if p x then f x else x)

/-! ### Weighted round-robin (R18) -/

/-- The requester that the next grant goes to, and its grants in the round: the one in turn while it has work and weight left,
else the next in rotation that has work. -/
def wrrPick (n : Nat) (work : Nat → Bool) (weight : Nat → Nat) (st : Nat × Nat) : Option (Nat × Nat) :=
  if work st.1 && decide (st.2 < weight st.1) then some (st.1, st.2 + 1)
  else (((List.range n).map (fun i => (st.1 + 1 + i) % n)).find? work).map (fun i => (i, 1))

/-! ### Ownership (R15, R19, R21) -/

def partOfRegion (s : State) (r : RegionId) : Option PartId := (getRegion s r).owner
def partOfCore (s : State) (k : CoreId) : Option PartId := partOfRegion s (regionOf k)

/-- The regions of a mask, in ascending ID. -/
def regionsOfMask (m : BitVec 32) : List RegionId := (List.finRange 32).filter (fun r => m.getLsbD r)
def rankOfRegion (m : BitVec 32) (r : RegionId) : Nat := ((regionsOfMask m).takeWhile (fun x => x.val < r.val)).length
def regionOfRank (m : BitVec 32) (i : Nat) : Option RegionId := (regionsOfMask m)[i]?
def regionCount (m : BitVec 32) : Nat := (regionsOfMask m).length

/-- Partition core number (R19). -/
def pcnOf (m : BitVec 32) (k : CoreId) : Nat := rankOfRegion m (regionOf k) * 4 + localOf k
/-- The core of a partition core number. -/
def coreOfPcn (m : BitVec 32) (n : Nat) : Option CoreId := (regionOfRank m (n / 4)).map (fun r => coreOf r (n % 4))
/-- The cores by die, region and local index, the order in which records of one cycle are written (R371). -/
def coresByDie : List CoreId := regionsByDie.flatMap (fun (r : RegionId) => (List.range 4).map (fun l => coreOf r l))
/-- The cores of a partition, in that order. -/
def coresOfMask (m : BitVec 32) : List CoreId := coresByDie.filter (fun k => m.getLsbD (regionOf k))

def maskOf (s : State) (p : PartId) : BitVec 32 := (getPart s p).regions
def liveParts (s : State) : List PartId := (List.finRange 32).filter (fun p => (getPart s p).live)

/-- The slice of the physical core that the fuse map presents at the core's local index (R20, R155). -/
def nearIdx (s : State) (k : CoreId) : Fin 160 :=
  Fin.ofNat 160 ((regionOf k).val * 5 + (vget (getRegion s (regionOf k)).fusePhys (Fin.ofNat 4 (localOf k))).val)

/-! ### Resets and power, as they stop a core -/

/-- The core lies in the unit that the reset in progress covers (R379). -/
def resetCovers (s : State) (k : CoreId) (c : Nat) : Bool :=
  match s.flt.run with
  | none => false
  | some r =>
    if r.unit = 1 then r.target = k.val && r.ctx = c
    else if r.unit = 2 then r.target = k.val
    else if r.unit = 3 then r.target = (regionOf k).val
    else if r.unit = 4 then partOfCore s k == some (Fin.ofNat 32 r.target)
    else if r.unit = 7 then r.target = tileOfCore k
    else true

/-- The partition is between steps 1 and 5 of Table 16.6. -/
def partResetting (s : State) (p : PartId) : Bool :=
  match s.flt.run with
  | some r => r.unit = 4 && r.target = p.val
  | none => false

/-- The core's ACLK runs: its region is Awake, powered, on its own clock and not held in reset, and no clock of its tile has gone to the
backup oscillator, on which no partition work continues (R336, R344). -/
def coreClocked (s : State) (k : CoreId) : Bool :=
  let r := getRegion s (regionOf k)
  r.power == .awake && !r.held && !r.onBackup && r.railOk && !s.clk.backup.getLsbD (tileOfCore k)

/-- A configuration stream is in progress. -/
def cfgBusy (s : State) : Bool := s.cfg.run.isSome

def modCfg (s : State) (f : Cfg → Cfg) : State := { s with cfg := f s.cfg }
def modSec (s : State) (f : Sec → Sec) : State := { s with sec := f s.sec }
def modPwr (s : State) (f : Pwr → Pwr) : State := { s with pwr := f s.pwr }
def modClk (s : State) (f : Clk → Clk) : State := { s with clk := f s.clk }
def modThm (s : State) (f : Thm → Thm) : State := { s with thm := f s.thm }
def modHub (s : State) (f : Hub → Hub) : State := { s with hub := f s.hub }
def modFuses (s : State) (f : Fuses → Fuses) : State := { s with fuses := f s.fuses }
def getGuest (s : State) (g : Nat) : Guest := vget s.guests (Fin.ofNat 2 g)
def modGuest (s : State) (g : Nat) (f : Guest → Guest) : State := { s with guests := vmod s.guests (Fin.ofNat 2 g) f }
/-- A frame goes to the guest; its payload is counted (Table 17.20). -/
def toGuest (s : State) (g : Nat) (f : GuestFrame) : State :=
  modGuest s g (fun x => { x with out := x.out ++ [f], outBytes := x.outBytes + BitVec.ofNat 64 f.data.length })
/-- An ERROR frame with its cause (Table 17.10). -/
def guestErr (cause : Nat) (tag : BitVec 16) : GuestFrame := ⟨0x0F, cause, 0, tag, 0, 0, []⟩
def getPair (s : State) (k : Nat) : Pair := vget s.pairs (Fin.ofNat 22 k)
def modPair22 (s : State) (k : Nat) (f : Pair → Pair) : State := { s with pairs := vmod s.pairs (Fin.ofNat 22 k) f }
/-- Populated stack sites and present link dies (Table 0.8). -/
def siteMask (s : State) : BitVec 8 := if s.fuses.code = 3 then 0x3F else 0xFF
def linkMask (s : State) : BitVec 3 := if s.fuses.code = 2 then 0x3 else 0x7
/-- The hub runs: its rails are up and it is not held in reset (R400, R405, R345). -/
def hubRuns (s : State) : Bool :=
  s.hub.powered && (match s.hub.phase with | .noVaux | .noVin | .perst | .sysref => false | _ => true)

/-- Tops runs: RUNNING or in RECOVERY. -/
def topsRuns (s : State) : Bool := hubRuns s && (s.sec.tops = .running || s.sec.tops = .recovery)

/-- The flow input is used (R361). -/
def flowUsed (s : State) : Bool := s.thm.flowOn && s.thm.ppl != 0

/-- The die is SEVERED (R389). -/
def dieDown (s : State) (d : Nat) : Bool := s.flt.severed.getLsbD d

/-- Taproot hands something to Tops. -/
def toTops (s : State) (m : TopsMsg) : State := modSec s (fun x => { x with out := x.out ++ [m] })

end Sys2Proof.Machine
end

