-- ==== Sys2Proof/Machine/Parity.lean ====
section
/-!
DEFINITION. The two-dimensional parity code (07_near_slices.md, R158 to R163), which the near slices, the SRAMs of a core
(16_faults.md, R375) and the stacks (08_stack_memory_sprouts.md, R182) share.
-/

namespace Sys2Proof.Machine

/-- The number of set bits. -/
def popc {w : Nat} (x : BitVec w) : Nat := ((List.range w).filter (fun i => x.getLsbD i)).length
/-- The lowest set bit, or 0 if none. -/
def lowBit {w : Nat} (x : BitVec w) : Nat := ((List.range w).find? (fun i => x.getLsbD i)).getD 0

/-- Row and column syndromes of a difference (check bits 0 to 7 are rows, 8 to 71 columns). -/
def synRow (d : BitVec 72) : BitVec 8 := d.extractLsb' 0 8
def synCol (d : BitVec 72) : BitVec 64 := d.extractLsb' 8 64

/-- The 72 check bits of 64 data bytes (R158). -/
def checkBits (data : List Byte) : BitVec 72 :=
  let n := leNat data
  let rows := (List.range 8).map (fun i => (n >>> (64 * i)) % 2 ^ 64)
  let rp := (List.range 8).foldl (fun a i => if popc (BitVec.ofNat 64 (rows.getD i 0)) % 2 = 1 then a + 2 ^ i else a) 0
  BitVec.ofNat 72 (rp + 256 * rows.foldl (fun a b => Nat.xor a b) 0)

/-- Outcomes of Table 7.2. -/
inductive Decode where
  | clean | dataFixed | checkFixed | poison | uncorrectable
  deriving DecidableEq, Repr

def decodeCode : Decode → Nat
  | .clean => 0
  | .dataFixed => 1
  | .checkFixed => 2
  | .poison => 3
  | .uncorrectable => 4

/-- Syndrome decode (R159). -/
def decodeSyn (d : BitVec 72) : Decode :=
  let r := popc (synRow d)
  let c := popc (synCol d)
  if r = 0 ∧ c = 0 then .clean
  else if r = 1 ∧ c = 1 then .dataFixed
  else if (r = 1 ∧ c = 0) ∨ (r = 0 ∧ c = 1) then .checkFixed
  else if r = 8 ∧ c = 64 then .poison
  else .uncorrectable

/-- The difference of a poisoned block: its check bits are the complement of those of its data (R163). -/
def poisonDiff : BitVec 72 := BitVec.allOnes 72

/-- Sets the difference of a block; blocks in rising order, and equal check bits are not listed. -/
def setDiff (l : Tbl (BitVec 72)) (blk : Nat) (d : BitVec 72) : Tbl (BitVec 72) :=
  let r := l.filter (fun e => e.1 != blk)
  if d = 0 then r else insertKey r blk d

def blkDiff (m : PMem) (blk : Nat) : BitVec 72 := tget 0 m.diff blk

/-- Flips stored data bit `b` of block `blk`, leaving its stored check bits. -/
def flipData (m : PMem) (blk b : Nat) : Mem :=
  let a := blk * 64 + b / 8
  memWrite m.bytes a (memRead m.bytes a ^^^ BitVec.ofNat 8 (2 ^ (b % 8)))

/-- A read of a block with its write back (R162, R163): the decode, and the memory after it. -/
def pmTouch (m : PMem) (blk : Nat) : PMem × Decode :=
  let d := blkDiff m blk
  match decodeSyn d with
  | .clean => (m, .clean)
  | .dataFixed =>
    (⟨flipData m blk (64 * lowBit (synRow d) + lowBit (synCol d)), setDiff m.diff blk 0⟩, .dataFixed)
  | .checkFixed => (⟨m.bytes, setDiff m.diff blk 0⟩, .checkFixed)
  | .poison => (m, .poison)
  | .uncorrectable => (⟨m.bytes, setDiff m.diff blk poisonDiff⟩, .uncorrectable)

/-- The difference that a disturbance of stored bit `b` of a block leaves: data bits 0 to 511, then check bits 0 to 71. -/
def upsetDiff (b : Nat) : BitVec 72 :=
  if b < 512 then BitVec.ofNat 72 (2 ^ (b / 64) + 256 * 2 ^ (b % 64)) else BitVec.ofNat 72 (2 ^ (b - 512))

/-- A disturbance of one of the 584 stored bits of a block. -/
def pmUpset (m : PMem) (blk b : Nat) : PMem :=
  ⟨if b < 512 then flipData m blk b else m.bytes, setDiff m.diff blk (blkDiff m blk ^^^ upsetDiff b)⟩

/-- The blocks that `n` bytes from `a` touch. -/
def blocksOf (a n : Nat) : List Nat := if n = 0 then [] else (List.range ((a + n - 1) / 64 - a / 64 + 1)).map (· + a / 64)

/-- The block lies wholly within the `n` bytes from `a`. -/
def blkWhole (a n blk : Nat) : Bool := a ≤ blk * 64 && blk * 64 + 64 ≤ a + n

/-- Stores bytes: whole blocks get check bits of their new data, a partly written block keeps its poison (R161, R163). -/
def pmStore (m : PMem) (a : Nat) (bs : List Byte) : PMem :=
  ⟨memWriteBytes m.bytes a bs,
   ((blocksOf a bs.length).filter (blkWhole a bs.length)).foldl (fun t b => setDiff t b 0) m.diff⟩

/-- The stored check bits of a block. -/
def storedChecks (m : PMem) (blk : Nat) : BitVec 72 := checkBits (memReadBytes m.bytes (blk * 64) 64) ^^^ blkDiff m blk

end Sys2Proof.Machine
end

