-- ==== Sys2Proof/Machine/Ops.lean ====
section
/-!
DEFINITION. The operations that every family of commands shares: raising a fault record (16_faults.md, R369 to R371),
posting a correctable event (07_near_slices.md, R165), reading and writing a core's local memories (R161 to R163), sync
operations on their way to a sync unit (10_mesh_sync_reduction.md, R251), tasks and their abort (03_cores.md, R78;
06_streams.md, R148), and taking a context fault (R80).
-/

namespace Sys2Proof.Machine

/-! ### Fault records -/

/-- A record with no unit named (Table 16.1): partition, region and core read 0xFF. -/
def recBlank (cls : Nat) (origin handled : Nat) : FaultRec where
  index := 0
  cls := BitVec.ofNat 8 cls
  origin := BitVec.ofNat 2 origin
  handled := BitVec.ofNat 2 handled
  reset := 0
  part := 0xFF
  die := BitVec.ofNat 8 dieHub
  region := 0xFF
  core := 0xFF
  context := 0
  optag := 0
  detail := 0
  iaddr := 0
  address := 0
  seq := 0
  dseq := 0

/-- The byte that names an optional partition. -/
def partByte (p : Option PartId) : BitVec 8 :=
  match p with
  | some x => BitVec.ofNat 8 x.val
  | none => 0xFF

/-- A record that names a region. -/
def recRegion (s : State) (r : RegionId) (cls origin handled : Nat) : FaultRec :=
  { recBlank cls origin handled with
    part := partByte (partOfRegion s r), die := BitVec.ofNat 8 (tileOfRegion r.val), region := BitVec.ofNat 8 r.val }

/-- A record that names a core. -/
def recCore (s : State) (k : CoreId) (cls origin handled : Nat) : FaultRec :=
  { recRegion s (regionOf k) cls origin handled with core := BitVec.ofNat 8 k.val }

/-- A record that names a context, with the instruction offset of R79 and the operation tag of its task. -/
def recCtx (s : State) (k : CoreId) (c : CtxId) (cls origin handled : Nat) (pc : BitVec 18) (tag : BitVec 16) : FaultRec :=
  { recCore s k cls origin handled with
    context := BitVec.ofNat 8 (c.val + 4 + 8), optag := tag, iaddr := pc.setWidth 32 }

/-- The index that the next record raised will get (R370). -/
def nextRecIndex (s : State) : W32 := BitVec.ofNat 32 ((s.flt.head.toNat + s.flt.waiting.length) % 0xFFFFFFFF)

/-- Raises a record: it takes its index and waits for the hub to write it (R371). -/
def raiseRec (s : State) (r : FaultRec) : State :=
  modFlt s (fun f => { f with waiting := f.waiting ++ [{ r with index := nextRecIndex s }] })

/-! ### Correctable events (R165, R166) -/

/-- Posts an event to the wait of the core's region; a full wait of 8 counts it as lost. -/
def postCet (s : State) (r : RegionId) (e : CetEv) : State :=
  modRegion s r (fun g =>
    if g.cetWait.length < 8 then { g with cetWait := g.cetWait ++ [e] } else { g with cetLost := g.cetLost + 1 })

/-! ### Local memories of a core (R34, R161 to R163) -/

/-- The local spaces, in the order of the SP field (R69). -/
inductive Space where
  | opbuf | near | imem
  deriving DecidableEq, Repr

/-- Bytes of the space (R34, Table 3.1). -/
def spaceSize : Space → Nat
  | .opbuf => 0x600000
  | .near => 0x40000000
  | .imem => 0x40000

/-- The event kind of the space (Table 7.5). -/
def spaceKind : Space → Nat
  | .opbuf => 1
  | .near => 0
  | .imem => 3

def getNear (s : State) (k : CoreId) : Near := vget s.near (nearIdx s k)
def modNear (s : State) (k : CoreId) (f : Near → Near) : State := { s with near := vmod s.near (nearIdx s k) f }

def getSpace (s : State) (k : CoreId) : Space → PMem
  | .opbuf => (getCore s k).opbuf
  | .near => (getNear s k).mem
  | .imem => (getCore s k).imem

def setSpace (s : State) (k : CoreId) (sp : Space) (m : PMem) : State :=
  match sp with
  | .opbuf => modCore s k (fun c => { c with opbuf := m })
  | .near => modNear s k (fun n => { n with mem := m })
  | .imem => modCore s k (fun c => { c with imem := m })

def modNsl (s : State) (k : CoreId) (f : NslRegs → NslRegs) : State := modCore s k (fun c => { c with nsl := f c.nsl })

/-- What a decode leaves beside the block itself: near-slice counters and event bits (R174), the correctable event (R162),
and the record of a newly poisoned block (R163). -/
def noteDecode (s : State) (k : CoreId) (sp : Space) (blk : Nat) (d : BitVec 72) (o : Decode) : State :=
  let s1 :=
    if sp = .near then
      match o with
      | .clean => s
      | .dataFixed | .checkFixed => modNsl s k (fun n => { n with evCorr := true, corr := n.corr + 1 })
      | .poison => modNsl s k (fun n => { n with evUncorr := true, uncorr := n.uncorr + 1 })
      | .uncorrectable =>
        modNsl s k (fun n => { n with evUncorr := true, evPoisoned := true, uncorr := n.uncorr + 1 })
    else s
  match o with
  | .dataFixed | .checkFixed =>
    postCet s1 (regionOf k)
      ⟨spaceKind sp, localOf k, blk, synRow d, popc (synCol d), lowBit (synCol d), 0⟩
  | .uncorrectable =>
    raiseRec s1 { recCore s1 k 0x21 1 2 with
      detail := BitVec.ofNat 16 (spaceKind sp), address := BitVec.ofNat 64 (blk * 64) }
  | _ => s1

/-- Reads one block, with its correction or poisoning; answers whether its data may be used. -/
def touchBlock (s : State) (k : CoreId) (sp : Space) (blk : Nat) : State × Bool :=
  let m := getSpace s k sp
  let (m', o) := pmTouch m blk
  match o with
  | .clean => (s, true)
  | .poison => (noteDecode s k sp blk (blkDiff m blk) o, false)
  | .uncorrectable => (noteDecode (setSpace s k sp m') k sp blk (blkDiff m blk) o, false)
  | _ => (noteDecode (setSpace s k sp m') k sp blk (blkDiff m blk) o, true)

def touchBlocks (s : State) (k : CoreId) (sp : Space) (bs : List Nat) : State × Bool :=
  bs.foldl (fun (p : State × Bool) b => let r := touchBlock p.1 k sp b; (r.1, p.2 && r.2)) (s, true)

/-- Reads `n` bytes of a local space: no data where a block is poisoned or uncorrectable (R162). -/
def readLocal (s : State) (k : CoreId) (sp : Space) (a n : Nat) : State × Option (List Byte) :=
  let r := touchBlocks s k sp (blocksOf a n)
  (r.1, if r.2 then some (memReadBytes (getSpace r.1 k sp).bytes a n) else none)

/-- Reads ranges of the operand buffer, one after the other; no bytes where a block is uncorrectable. -/
def readRanges (s : State) (k : CoreId) (rs : List (Nat × Nat)) : State × Option (List (List Byte)) :=
  rs.foldl (fun (a : State × Option (List (List Byte))) r =>
    let x := readLocal a.1 k .opbuf r.1 r.2
    (x.1, match a.2, x.2 with | some l, some b => some (l ++ [b]) | _, _ => none)) (s, some [])

/-- The ranges have a byte in common. -/
def meets (a n : Nat) (r : Nat × Nat) : Bool := decide (r.1 < a + n) && decide (a < r.1 + r.2)

/-- A write of operand-buffer bytes is held back for an operation that reads them (R94): one that has started, or one that was issued
before the write; `by'` is the operation that writes, where a tensor operation does. -/
def writeHeld (by' : Option Nat) (a n : Nat) (h : OpHold) : Bool :=
  h.bytes.isNone && (h.started || (match by' with | some id => decide (h.op < id) | none => true)) && h.ranges.any (meets a n)

/-- Before a write that R94 holds back reaches the bytes of an operation, the operation reads them; the write is then made at once.
The hold affects timing only (DEDUCED, log 11). -/
def keepHeld (s : State) (k : CoreId) (by' : Option Nat) (a n : Nat) : State :=
  ((getCore s k).holds.filter (writeHeld by' a n)).foldl (fun t h =>
    let r := if h.started then (t, some []) else readRanges t k h.ranges
    modCore r.1 k (fun m => { m with holds := updIf (fun x => x.op = h.op) (fun x => { x with bytes := some r.2 }) m.holds })) s

/-- Writes bytes of a local space: partly written blocks are read first (R161), and operations that read the bytes keep them (R94);
`by'` is the tensor operation that writes. -/
def writeLocalBy (by' : Option Nat) (s : State) (k : CoreId) (sp : Space) (a : Nat) (bs : List Byte) : State :=
  let s0 := if sp = .opbuf then keepHeld s k by' a bs.length else s
  let r := touchBlocks s0 k sp ((blocksOf a bs.length).filter (fun b => !blkWhole a bs.length b))
  setSpace r.1 k sp (pmStore (getSpace r.1 k sp) a bs)

/-- Writes bytes of a local space for an instruction or an engine. -/
def writeLocal (s : State) (k : CoreId) (sp : Space) (a : Nat) (bs : List Byte) : State := writeLocalBy none s k sp a bs

/-! ### The accumulator file and the inbox (R162, R163, R375) -/

/-- The two SRAMs whose contents stand elsewhere in the state, as numbers and messages: a block is described by the difference of
its check bits alone. -/
inductive Soft where
  | acc | inbox
  deriving DecidableEq, Repr

/-- The event kind (Table 7.5) and the number of blocks (R375). -/
def softKind : Soft → Nat
  | .acc => 2
  | .inbox => 4
def softBlocks : Soft → Nat
  | .acc => 0x2000
  | .inbox => 0x1000

def softTab (m : Core) : Soft → Tbl (BitVec 72)
  | .acc => m.accDiff
  | .inbox => m.inbDiff

def modSoft (s : State) (k : CoreId) (u : Soft) (f : Tbl (BitVec 72) → Tbl (BitVec 72)) : State :=
  modCore s k (fun m => match u with | .acc => { m with accDiff := f m.accDiff } | .inbox => { m with inbDiff := f m.inbDiff })

/-- Reads one block: it is corrected, which is reported, or becomes poisoned, which is recorded; answers whether its data may be
used. -/
def touchSoft (s : State) (k : CoreId) (u : Soft) (blk : Nat) : State × Bool :=
  let d := tget 0 (softTab (getCore s k) u) blk
  match decodeSyn d with
  | .clean => (s, true)
  | .poison => (s, false)
  | .uncorrectable =>
    (raiseRec (modSoft s k u (fun t => setDiff t blk poisonDiff)) { recCore s k 0x21 1 2 with
      detail := BitVec.ofNat 16 (softKind u), address := BitVec.ofNat 64 (blk * 64) }, false)
  | _ =>
    (postCet (modSoft s k u (fun t => setDiff t blk 0)) (regionOf k)
      ⟨softKind u, localOf k, blk, synRow d, popc (synCol d), lowBit (synCol d), 0⟩, true)

def touchSofts (s : State) (k : CoreId) (u : Soft) (bs : List Nat) : State × Bool :=
  bs.foldl (fun (p : State × Bool) b => let r := touchSoft p.1 k u b; (r.1, p.2 && r.2)) (s, true)

/-- Blocks written whole have check bits of their new data (R161). -/
def writeSofts (s : State) (k : CoreId) (u : Soft) (bs : List Nat) : State :=
  modSoft s k u (fun t => t.filter (fun e => !bs.contains e.1))

/-- The blocks of an accumulator tile that hold a difference, in rising order; all of them are read with the tile. -/
def tileSofts (m : Core) (a : Nat) : List Nat := (m.accDiff.map (fun e => e.1)).filter (fun b => b / 1024 = a)

/-- Reads an accumulator tile: no tile where a block of it is poisoned or uncorrectable. -/
def readTile (s : State) (k : CoreId) (a : Nat) : State × Option AccTile :=
  let r := touchSofts s k .acc (tileSofts (getCore s k) a)
  (r.1, if r.2 then some (vget (getCore s k).tiles (Fin.ofNat 8 a)) else none)

/-- The offset in the accumulator file of the first bad block of a tile. -/
def badTileBlock (m : Core) (a : Nat) : BitVec 64 :=
  BitVec.ofNat 64 (64 * (((tileSofts m a).find? (fun b => decodeSyn (tget 0 m.accDiff b) == .poison)).getD 0))

/-- The lowest free blocks of a quarter's space for a class take a message of `n` blocks: 896 for REQ and RSP, the last 128 for
CTRL (R76). The spec does not say where a message stands in its quarter (DESIGN CHOICE, log 84). -/
def inboxRoom (m : Core) (c : CtxId) (ctrl : Bool) (n : Nat) : List Nat :=
  let used := (vget m.inbox c).flatMap (fun x => x.blks)
  (((List.range (if ctrl then 128 else 896)).map (fun i => c.val * 1024 + (if ctrl then 896 else 0) + i)).filter (fun b => !used.contains b)).take n

/-! ### Sync operations on their way (R251) -/

/-- Sends a sync operation from a context's core to the sync unit of a region. -/
def sendSync (s : State) (k : CoreId) (c : CtxId) (r : RegionId) (b : FBody) : State :=
  meshSend s ⟨.ctx k c, .sync r, 1, b⟩

/-- The region and object of a handle (R72), for the partition of a region mask: `none` where the rank is out of range. -/
def handleObj (m : BitVec 32) (h : Nat) : Option (RegionId × Nat) :=
  if h / 2 ^ 21 ≠ 0 ∨ (h / 2 ^ 11) % 32 ≠ 0 then none
  else (regionOfRank m (h / 2 ^ 16)).map (fun r => (r, h % 2048))

/-- The handle of an object (R72). -/
def objHandle (m : BitVec 32) (r : RegionId) (obj : Nat) : W32 := BitVec.ofNat 32 (rankOfRegion m r * 2 ^ 16 + obj)

/-- A SYNC_RANGE record of the partition claims the object and lets the partition core number operate on it (R72). -/
def syncAllowed (p : PartCfg) (pcn : Nat) (r : RegionId) (obj : Nat) : Bool :=
  p.syncs.any (fun q => q.region = r.val && q.first ≤ obj && obj < q.first + q.count && (q.owner = 0xFFFF || q.owner = pcn))

/-- Sends an operation to a handle that was checked when it was given. -/
def sendSyncTo (s : State) (k : CoreId) (c : CtxId) (h : W32) (f : Nat → FBody) : State :=
  match partOfCore s k with
  | none => s
  | some p =>
    match handleObj (maskOf s p) h.toNat with
    | none => s
    | some (r, o) => sendSync s k c r (f o)

/-! ### Tasks (R78) -/

def findTask (s : State) (k : CoreId) (id : Nat) : Option Task := (getCore s k).tasks.find? (fun t => t.id = id)
def modTask (s : State) (k : CoreId) (id : Nat) (f : Task → Task) : State :=
  modCore s k (fun c => { c with tasks := updIf (fun t => t.id = id) f c.tasks })

/-- The tag of an optional task. -/
def taskTag (s : State) (k : CoreId) (t : Option Nat) : BitVec 16 :=
  match t with
  | none => 0
  | some id => ((findTask s k id).map (fun x => x.tag)).getD 0

/-- Once a closed task has no operation outstanding, the device sends its sync object an add of 1 (R78). -/
def taskCheck (s : State) (k : CoreId) (id : Nat) : State :=
  match findTask s k id with
  | none => s
  | some t =>
    if !t.isOpen && !t.adding && t.outst = 0 then
      modTask (sendSync s k t.ctx t.region (.taskAdd t.obj id)) k id (fun x => { x with adding := true })
    else s

/-- The sync object of a closed task has received its add: the task has completed (R78). -/
def taskDone (s : State) (k : CoreId) (id : Nat) : State :=
  modCore s k (fun c => { c with tasks := c.tasks.filter (fun x => x.id != id) })

/-- An operation of the task has been issued. -/
def taskOpBegin (s : State) (k : CoreId) (t : Option Nat) : State :=
  match t with
  | none => s
  | some id => modTask s k id (fun x => { x with outst := x.outst + 1 })

/-- An operation of the task has completed or been removed. -/
def taskOpEnd (s : State) (k : CoreId) (t : Option Nat) : State :=
  match t with
  | none => s
  | some id => taskCheck (modTask s k id (fun x => { x with outst := x.outst - 1 })) k id

/-- The open task of a context, where there is one. -/
def openTask (s : State) (k : CoreId) (c : CtxId) : Option Task :=
  (getCtx s k c).task.bind (fun id => findTask s k id)

/-! ### Transfers that stop (R146 to R149) -/

def xferActive (x : Xfer) : Bool := x.state != .ended
def modXfer (s : State) (k : CoreId) (id : Nat) (f : Xfer → Xfer) : State :=
  modCore s k (fun c => { c with xfers := updIf (fun x => x.id = id) f c.xfers })
def findXfer (s : State) (k : CoreId) (id : Nat) : Option Xfer := (getCore s k).xfers.find? (fun x => x.id = id)
def modStrm (s : State) (k : CoreId) (f : StrmRegs → StrmRegs) : State := modCore s k (fun c => { c with strm := f c.strm })

/-- The sides of a stopped transfer: both INVALID for an abort of a buffered transfer (R148), the engine side for a
cancellation (R149). A buffered transfer outside any
task is treated as one of an aborted task (DESIGN CHOICE, log 88). -/
def stoppedSides (x : Xfer) : Xfer :=
  if !x.desc.buffered then x
  else if x.code = 2 then { x with side0 := .invalid, side1 := .invalid }
  else if x.rbit then { x with side0 := .invalid } else { x with side1 := .invalid }

/-- A transfer in STOPPING with no request in flight reaches ENDED (Table 6.7). -/
def stopCheck (s : State) (k : CoreId) (id : Nat) : State :=
  match findXfer s k id with
  | none => s
  | some x =>
    if x.state = .stopping && !((getCore s k).reqs.any (fun r => r.xfer = id)) then
      let s1 := modXfer s k id (fun y => stoppedSides { y with state := .ended })
      let s2 := modStrm s1 k (fun m => if x.code = 2 then { m with evAbort := true } else { m with evCancel := true })
      taskOpEnd s2 k x.task
    else s

/-- A running or held transfer enters STOPPING with its code, cause and record. -/
def stopXfer (s : State) (k : CoreId) (id code cause : Nat) (record : W32) : State :=
  match findXfer s k id with
  | none => s
  | some x =>
    if x.state = .run || x.state = .hold then
      stopCheck (modXfer s k id (fun y => { y with state := .stopping, code := code, cause := cause, record := record,
                                                   dlDue := none })) k id
    else s

/-- Sends ABORT to the task's sync object and to the DONE_SYNC object of every transfer of the task (R148). -/
def abortSyncs (s : State) (k : CoreId) (t : Task) (record : W32) : State :=
  t.syncs.foldl (fun a h => sendSyncTo a k t.ctx h (fun o => .syncAbort o record))
    (sendSync s k t.ctx t.region (.syncAbort t.obj record))

/-- The operation decides the anchor of a tile (R109). -/
def decidesAnchor (acc : Nat) (o : TOp) : Bool :=
  match o.kind with
  | .accz a _ | .accwr a _ | .mma a _ _ _ _ _ => a = acc
  | .attn _ ts _ => ts.contains acc
  | .epi .. | .accrd .. => false

/-- An MMA that had resolved a pending anchor at its issue (R109) leaves its context's queue, which was `q`, without running. The last
operation before it that decides the anchor of its tile left it pending: an ACCZ that stays queued gets the anchor; where none was
queued the tile itself does; where that operation leaves the queue too, nothing does (log 75). -/
def settleAnchor (s : State) (k : CoreId) (c : CtxId) (q : List TOp) (stays : TOp → Bool) (o : TOp) : State :=
  match o.kind with
  | .mma acc _ _ _ (some v) _ =>
    match (q.filter (fun y => y.id < o.id && decidesAnchor acc y)).getLast? with
    | none => modCore s k (fun m => { m with tiles := vmod m.tiles (Fin.ofNat 8 acc) (fun t => { t with anchor := some (t.anchor.getD v) }) })
    | some z =>
      if stays z && z.kind = .accz acc (-512) then
        modCtx s k c (fun x => { x with queue := updIf (fun y => y.id = z.id) (fun y => { y with kind := .accz acc v }) x.queue })
      else s
  | _ => s

/-- An operation has ended: R94 holds nothing for it any more. -/
def dropHold (s : State) (k : CoreId) (id : Nat) : State := modCore s k (fun m => { m with holds := m.holds.filter (fun h => h.op != id) })

/-- Removes the context's queued tensor operations of a task; they never run (R148). -/
def dropQueued (s : State) (k : CoreId) (c : CtxId) (t : Option Nat) : State :=
  let q := (getCtx s k c).queue
  (q.filter (fun o => o.task == t)).foldl (fun a o => taskOpEnd (dropHold (settleAnchor a k c q (fun y => y.task != t) o) k o.id) k t)
    (modCtx s k c (fun x => { x with queue := x.queue.filter (fun o => o.task != t) }))

/-- Aborts a task (R148): its transfers stop, the faulting one with its own cause; its queued tensor operations go; its
sync objects become ABORTED. -/
def abortTask (s : State) (k : CoreId) (id : Nat) (self : Option Nat) (selfCause cause : Nat) (record : W32) : State :=
  match findTask s k id with
  | none => s
  | some t =>
    let xs := (getCore s k).xfers.filter (fun x => x.task == some id)
    let s1 := modTask s k id (fun x => { x with aborted := some (x.aborted.getD record) })
    let s2 := abortSyncs s1 k t record
    let s3 := xs.foldl (fun a x => stopXfer a k x.id 2 (if self == some x.id then selfCause else cause) record) s2
    dropQueued s3 k t.ctx (some id)

/-! ### Taking a context fault (R79, R80) -/

/-- Class codes 0x01 to 0x0F (R372). -/
def fclsCode : FCls → Nat
  | .illegal => 1
  | .align => 2
  | .range => 3
  | .bufOwner => 4
  | .accOwner => 5
  | .syncOwner => 6
  | .msgId => 7
  | .msgSize => 8
  | .taskState => 9
  | .ctxState => 10
  | .debugOnly => 11
  | .imageHeader => 12
  | .untasked => 13
  | .abftPersist => 14
  | .memUncorr => 15

/-- FAULT_ENTRY of a context, from the image header (R59). -/
def faultEntry (s : State) (k : CoreId) (c : CtxId) : Nat := memReadNat (getCore s k).imem.bytes (8 + 4 * c.val) 4

/-- ACC_OWN of a context, from the image header (R59). -/
def accOwn (s : State) (k : CoreId) (c : CtxId) : BitVec 8 := memRead (getCore s k).imem.bytes c.val

/-- What a context fault is about beside its class: the instruction offset, the task tag, DETAIL and ADDRESS. -/
structure FaultInfo where
  pc      : BitVec 18
  tag     : BitVec 16
  detail  : BitVec 16
  address : BitVec 64
  slot    : Option (Fin 8) := none
  deriving DecidableEq, Repr

/-- IADDR (Table 16.1): the instruction offset, and the stream slot where one is named. -/
def iaddrOf (pc : BitVec 18) (slot : Option (Fin 8)) : W32 :=
  pc.setWidth 32 ||| (match slot with | some n => BitVec.ofNat 32 (n.val * 2 ^ 18 + 2 ^ 21) | none => 0)

/-- Step 1 of R80: the open task of the context is aborted. -/
def faultAbort (s : State) (k : CoreId) (c : CtxId) (record : W32) : State :=
  match (getCtx s k c).task with
  | none => s
  | some id => abortTask s k id none 8 8 record

/-- Step 3 of R80: the fault is delivered to the handler at FAULT_ENTRY. A context that gave its slot up by YIELD shows that until it next
holds the slot (R64). -/
def faultDeliver (s : State) (k : CoreId) (c : CtxId) (cls : FCls) (record : W32) (pc : BitVec 18) : State :=
  let e := faultEntry s k c
  modCtx s k c (fun x =>
    { x with
      g := ((x.g.set 29 (BitVec.ofNat 64 (fclsCode cls))).set 30 (record.setWidth 64)).set 31 (pc.setWidth 64)
      handler := true
      pc := BitVec.ofNat 18 e
      st := if x.st = .running then .running else .ready
      wait := if x.st = .ready then x.wait else .none
      syncOut := none })

/-- Step 4 of R80: the context becomes FAULTED, which is an event of the core once. A HALTED context is left by CTX_START
only (Table 3.3), so it stays HALTED, unless its image header is bad (R59).
DEDUCED (log 50). -/
def faultRaise (s : State) (k : CoreId) (c : CtxId) (cls : FCls) : State :=
  let x := getCtx s k c
  if x.st = .faulted ∨ (x.st = .halted ∧ cls ≠ .imageHeader) then s
  else
    modCore (modCtx s k c (fun y => { y with st := .faulted, wait := .none, syncOut := none })) k
      (fun m => { m with evFaulted := m.evFaulted ||| BitVec.ofNat 4 (2 ^ c.val),
                         lastSlot := if x.st = .running then c else m.lastSlot })

/-- A context fault can be delivered (R80): FAULT_ENTRY is not zero, the context is not in handler mode, the fault is no
IMAGE_HEADER, and the context is one that can resume (Table 3.3). -/
def faultDeliverable (s : State) (k : CoreId) (c : CtxId) (cls : FCls) : Bool :=
  let x := getCtx s k c
  faultEntry s k c != 0 && !x.handler && cls != .imageHeader && x.st != .halted && x.st != .faulted

/-- The record of a context fault (R79, R372): its own class, or CONTEXT_FAULTED where it is raised to the region. A fault
has one record, which names where it started and the level that handled it (R16).
DEDUCED (log 50). -/
def faultRecord (s : State) (k : CoreId) (c : CtxId) (cls : FCls) (i : FaultInfo) (raised : Bool) : FaultRec :=
  if raised then
    { recCtx s k c 0x20 1 2 i.pc i.tag with detail := BitVec.ofNat 16 (fclsCode cls), iaddr := iaddrOf i.pc i.slot }
  else
    { recCtx s k c (fclsCode cls) (if cls = .abftPersist then 0 else 1) 1 i.pc i.tag with
      detail := i.detail, address := i.address, iaddr := iaddrOf i.pc i.slot }

/-- Takes a context fault, in the order of R80. In a unit that is being reset a fault only writes its record (R381). -/
def takeFault (s : State) (k : CoreId) (c : CtxId) (cls : FCls) (i : FaultInfo) : State :=
  let record := nextRecIndex s
  let up := !faultDeliverable s k c cls
  if resetCovers s k c.val && cls != .imageHeader then raiseRec s (faultRecord s k c cls i false)
  else
    let s1 := faultAbort (raiseRec s (faultRecord s k c cls i up)) k c record
    let s2 := modCtx s1 k c (fun x => { x with fltCls := BitVec.ofNat 8 (fclsCode cls), fltAddr := i.pc })
    if up then faultRaise s2 k c cls else faultDeliver s2 k c cls record i.pc

/-- A task fault on an operation issued outside any task (R78): UNTASKED, with the cause in DETAIL. -/
def untaskedFault (s : State) (k : CoreId) (c : CtxId) (pc : BitVec 18) (cause : Nat) (address : BitVec 64)
    (slot : Option (Fin 8)) : State :=
  takeFault s k c .untasked ⟨pc, 0, BitVec.ofNat 16 cause, address, slot⟩

/-- A task fault on an operation that is no transfer (R78, R148): the task is aborted and the record written, or UNTASKED
outside any task. -/
def opTaskFault (s : State) (k : CoreId) (c : CtxId) (pc : BitVec 18) (task : Option Nat) (cause : Nat) (address : BitVec 64) : State :=
  match task with
  | none => untaskedFault s k c pc cause address none
  | some id =>
    let r := nextRecIndex s
    abortTask (raiseRec s { recCtx s k c 0x10 1 1 pc (taskTag s k task) with
      detail := BitVec.ofNat 16 cause, address := address }) k id none 9 9 r

/-! ### Waking a region (R338) -/

/-- The region of a partition is held in reset (R382). -/
def ownerHeld (g : Region) : Bool := g.held && g.owner.isSome

/-- A wake event: a Dozing or Asleep region goes to Waking; wakes from Asleep count (Table 14.10). A region that stays held in
reset does not wake (DEDUCED, log 52). -/
def wakeRegion (s : State) (r : RegionId) : State :=
  modRegion s r (fun g =>
    if ownerHeld g then g
    else if g.power = .dozing then { g with wakeFrom := .dozing, power := .waking }
    else if g.power = .asleep then { g with wakeFrom := .asleep, power := .waking, wakes := g.wakes + 1 }
    else g)

/-- What a command answers. -/
abbrev Out := Host.Outcome State Fault Refusal

/-! ### Free values -/

/-- Draws a free value: a word the spec leaves open, different for each draw. -/
def drawFree (s : State) : State × BitVec 64 := ({ s with freeCtr := s.freeCtr + 1 }, Config.freeWord s.freeCtr)

/-- A free field of `n` bits: a value that the spec leaves open (log 16). -/
def freeField (s : State) (n : Nat) : Nat := (Config.freeWord s.freeCtr).toNat % 2 ^ n

/-- The cycles of an interval of 1,024 in which a guest's frame was held that came, or was lost, within it: a free value (R421, log 53). -/
def heldPart (s : State) (x : Guest) : BitVec 64 := if x.held.isEmpty then 0 else BitVec.ofNat 64 (freeField s 10)

end Sys2Proof.Machine
end

