-- ==== Sys2Proof/Machine/Flags.lean ====
section
/-!
DEFINITION. Bits and fields of register words. RW1C bits and counters read in halves stand in Access.lean (00_scope.md, R4, R6). The
instruction set has no condition flags (03_cores.md, R71: no vector instruction has exception flags to raise).
-/

namespace Sys2Proof.Machine

/-- A Bool as a bit at a place. -/
def bitAt (b : Bool) (i : Nat) : W32 := if b then BitVec.ofNat 32 (2 ^ i) else 0

/-- A number as a field whose lowest bit is at a place. -/
def fieldAt (n lo width : Nat) : W32 := BitVec.ofNat 32 ((n % 2 ^ width) * 2 ^ lo)

end Sys2Proof.Machine
end

