-- ==== Sys2Proof/Machine/Events.lean ====
section
/-!
DEFINITION. Event registers and their vectors, held entries, and notices (12_host.md, R296, R303, R304).
-/

namespace Sys2Proof.Machine

/-- A vector is raised: it is sent, or held pending while it is masked under MSI-X (R304). -/
def irq (s : State) (f : Fn) (v : Nat) : State :=
  if s.hst.mask.contains (f, v) then modHst s (fun h => { h with pend := (f, v) :: h.pend.filter (· != (f, v)) })
  else { s with irqs := s.irqs ++ [(f, v)] }

/-- Vectors of a function. -/
def vectorsOf : Fn → Nat
  | .pf => 16
  | .vf _ => 9

/-- The host masks a vector, or unmasks it, which sends it where it is pending. -/
def maskVector (s : State) (f : Fn) (v : Nat) (b : Bool) : State :=
  if vectorsOf f ≤ v then s
  else if b then modHst s (fun h => { h with mask := (f, v) :: h.mask.filter (· != (f, v)) })
  else
    let s1 := modHst s (fun h => { h with mask := h.mask.filter (· != (f, v)), pend := h.pend.filter (· != (f, v)) })
    if s.hst.pend.contains (f, v) then irq s1 f v else s1

/-- A reset of a function's PCI Express state leaves no vector of it masked or pending (log 48). -/
def vectorsReset (s : State) (f : Fn) : State :=
  modHst s (fun h => { h with mask := h.mask.filter (fun e => e.1 != f), pend := h.pend.filter (fun e => e.1 != f) })

/-- The event bits of HST_EVENT. -/
inductive HstEv where
  | ringFault | noticeLost | outCheck | refused | poison | drop
  deriving DecidableEq, Repr

/-- The event bits of HST_PART_EVENT. -/
inductive PartEv where
  | ringFault | fenceDone | noticeLost | fault | resetDone | absorbed
  deriving DecidableEq, Repr

def hstEvGet (h : Hst) : HstEv → Bool
  | .ringFault => h.evRingFault
  | .noticeLost => h.evNotice
  | .outCheck => h.evOutCheck
  | .refused => h.evRefused
  | .poison => h.evPoison
  | .drop => h.evDrop

def hstEvSet (h : Hst) (b : Bool) : HstEv → Hst
  | .ringFault => { h with evRingFault := b }
  | .noticeLost => { h with evNotice := b }
  | .outCheck => { h with evOutCheck := b }
  | .refused => { h with evRefused := b }
  | .poison => { h with evPoison := b }
  | .drop => { h with evDrop := b }

def partEvGet (x : PartStatus) : PartEv → Bool
  | .ringFault => x.evRingFault
  | .fenceDone => x.evFence
  | .noticeLost => x.evNotice
  | .fault => x.evFault
  | .resetDone => x.evReset
  | .absorbed => x.evAbsorbed

def partEvSet (x : PartStatus) (b : Bool) : PartEv → PartStatus
  | .ringFault => { x with evRingFault := b }
  | .fenceDone => { x with evFence := b }
  | .noticeLost => { x with evNotice := b }
  | .fault => { x with evFault := b }
  | .resetDone => { x with evReset := b }
  | .absorbed => { x with evAbsorbed := b }

/-- Hardware sets a bit of HST_EVENT; a bit that was clear raises vector 10 (R304). -/
def hstEvent (s : State) (e : HstEv) : State :=
  if hstEvGet s.hst e then s else irq (modHst s (fun h => hstEvSet h true e)) .pf 10

/-- Hardware sets a bit of HST_PART_EVENT; a bit that was clear raises vector 8 of the virtual function. -/
def partEvent (s : State) (p : PartId) (e : PartEv) : State :=
  if partEvGet (getPst s p) e then s else irq (modPst s p (fun x => partEvSet x true e)) (.vf p) 8

/-! ### Holds (R297) -/

/-- A channel exists when a HOST_WINDOW record of its partition names it (R291). -/
def chanRec (s : State) (p : PartId) (c : Nat) : Option HostWinRec :=
  if (getPart s p).live then (getPart s p).hostWins.find? (fun w => w.channel = c) else none

def devHeld (r : Ring) : Nat := (r.held.filter (fun e => !e.prog)).length

/-- The device hold of the channel has room. -/
def devRoom (s : State) (p : PartId) (c : Nat) : Bool := devHeld (getCh s p c).ring < 16

/-- Puts an entry into a channel's hold. -/
def holdEntry (s : State) (p : PartId) (c : Nat) (e : HeldEntry) : State :=
  modCh s p c (fun x => { x with ring := { x.ring with held := x.ring.held ++ [e] } })

/-- BODY of an ERROR entry (Table 12.6). -/
def errBody (hseq : W32) (code : Nat) (record : W32) : List Byte :=
  leBytes 4 hseq.toNat ++ leBytes 4 code ++ leBytes 4 record.toNat ++ List.replicate 32 0

/-- An ERROR entry enters the device hold and counts in HST_CH_ERRS; ABSORBED sets its event (R294). -/
def postError (s : State) (p : PartId) (c : Nat) (hseq : W32) (code : Nat) : State :=
  let s1 := modCh (holdEntry s p c ⟨1, errBody hseq code 0xFFFFFFFF, 0, false⟩) p c (fun x => { x with errs := x.errs + 1 })
  if code = 7 then partEvent s1 p .absorbed else s1

/-- ABSORBED entries of discarded bodies enter the device hold as it has room; each frees its body's space (R294). -/
def fillAbsorbed (s : State) (p : PartId) (c : Nat) : State :=
  let x := getCh s p c
  let n := 16 - devHeld x.ring
  (x.gone.take n).foldl (fun a e => postError a p c e.1 7) (modCh s p c (fun y => { y with gone := y.gone.drop n }))

/-! ### Notices (R303, R304) -/

/-- BODY of a NOTICE entry. -/
def noticeBody (typ die cause : Nat) (begin : Bool) (rank part : Nat) (record : W32) : List Byte :=
  [BitVec.ofNat 8 typ, BitVec.ofNat 8 die, BitVec.ofNat 8 cause, if begin then 1 else 0] ++ leBytes 2 rank ++
  [BitVec.ofNat 8 part, 0] ++ leBytes 4 record.toNat ++ List.replicate 32 0

/-- A notice for the physical function's rings whose mask selects its type. -/
def noticePf (s : State) (typ : Nat) (body : List Byte) : State :=
  (List.finRange 8).foldl (fun (a : State) r =>
    let g := vget a.hst.rings r
    if !g.mask.getLsbD (typ - 1) then a
    else if 16 ≤ g.ring.held.length then hstEvent a .noticeLost
    else modHst a (fun h => { h with rings := vmod h.rings r (fun x => { x with ring := { x.ring with held := x.ring.held ++ [⟨3, body, 0, false⟩] } }) })) s

/-- A notice for a partition that has them enabled, on the channel it names. -/
def noticePart (s : State) (p : PartId) (body : List Byte) : State :=
  let x := getPst s p
  if !x.noticeOn then s
  else if (chanRec s p x.noticeCh).isNone || !devRoom s p x.noticeCh then partEvent s p .noticeLost
  else holdEntry s p x.noticeCh ⟨3, body, 0, false⟩

/-- A notice of type 1 or 2 for the partitions of a list. -/
def notice (s : State) (typ die cause : Nat) (begin : Bool) (rank : Nat) (ps : List PartId) : State :=
  let b := fun (part : Nat) => noticeBody typ die cause begin rank part 0xFFFFFFFF
  ps.foldl (fun a p => noticePart a p (b p.val)) (noticePf s typ (b 0xFF))

end Sys2Proof.Machine
end

