-- ==== Sys2Proof/Machine/Links.lean ====
section
/-!
DEFINITION. Chip-link ports (11_chip_links.md, R263 to R274): flits and replay, frames, training and retraining,
edges and their windows. What the lanes bring is the environment's: a command brings a flit with the symbol errors of its codeword pair
(DESIGN CHOICE, log 29).
-/

namespace Sys2Proof.Machine

def getPort (s : State) (p : Nat) : LinkPort := vget s.ports (Fin.ofNat 24 p)
def modPort (s : State) (p : Nat) (f : LinkPort → LinkPort) : State := { s with ports := vmod s.ports (Fin.ofNat 24 p) f }
def modLink (s : State) (d : Nat) (f : LinkDie → LinkDie) : State := { s with links := vmod s.links (Fin.ofNat 3 d) f }

/-- The partition whose applied stream claims the port, and its record. -/
def portRec (s : State) (port : Nat) : Option (PartId × LinkPortRec) :=
  (liveParts s).findSome? (fun p => ((getPart s p).ports.find? (fun r => r.port = port)).map (fun r => (p, r)))

/-! ### Frames (Tables 11.3 and 11.4) -/

def kUp : Nat := 1
def kDown : Nat := 2
def kAck : Nat := 3
def kHello : Nat := 0x10
def kSubtree : Nat := 0x11
def kReady : Nat := 0x12
def kReset : Nat := 0x13
def kFail : Nat := 0x14
def kNotice : Nat := 0x15
def kDesc : Nat := 0x16

def kindKnown (k : Nat) : Bool := (1 ≤ k && k ≤ 3) || (0x10 ≤ k && k ≤ 0x16)
def kindSequenced (k : Nat) : Bool := k = kUp || k = kDown || k = kSubtree || k = kReady || k = kFail || k = kDesc
def kindCtrl (k : Nat) : Bool := k != kUp && k != kDown

/-- The bytes of a frame; a payload is padded to whole 64-byte units. -/
def frameBytes (f : LinkFrame) : List Byte :=
  let n := (f.data.length + 63) / 64
  [BitVec.ofNat 8 f.kind, BitVec.ofNat 8 f.tree, BitVec.ofNat 8 n, 0] ++ leBytes 2 f.seq ++ leBytes 2 (f.srcRank % 8192) ++
  leBytes 4 f.op ++ leBytes 4 ((f.dstRank % 8192) * 2 ^ 19 + f.chunk % 2 ^ 18) ++ f.data ++ List.replicate (64 * n - f.data.length) 0

/-- The frame that a header and its payload make. -/
def frameOf (b : List Byte) : LinkFrame :=
  let at_ := fun o n => leNat ((b.drop o).take n)
  { kind := at_ 0 1, tree := at_ 1 1 % 8, seq := at_ 4 2, srcRank := at_ 6 2 % 8192, op := at_ 8 4,
    dstRank := at_ 12 4 / 2 ^ 19, chunk := at_ 12 4 % 2 ^ 18, data := (b.drop 16).take (64 * at_ 2 1) }

/-! ### Flits and slots (R265, R266) -/

/-- Slots are numbered 5 × PAIR_SEQ + position, PAIR_SEQ modulo 4,096. -/
def slotCount : Nat := 20480
/-- A link-control slot. -/
def ctlSlot (n : Nat) : Bool := n % 80 = 79
def nextSlot (n : Nat) : Nat := (n + 1) % slotCount

/-- The header of the codeword pair that holds a slot: PAIR_SEQ, and the mask of quads in use. -/
def pairHeader (x : LinkPort) (n : Nat) : BitVec 40 := BitVec.ofNat 12 (n / 5) ++ x.quads ++ (0 : BitVec 24)

/-- A flit of a TYPE and SEQ around a body of 250 bytes (Table 11.2). -/
def mkFlit (type seq : Nat) (body : List Byte) : List Byte :=
  let b := leBytes 2 (type * 2 ^ 14 + seq) ++ body
  b ++ leBytes 4 (crc32 b).toNat

def dataFlit (seq : Nat) (body : List Byte) : List Byte := mkFlit 1 seq body
def idleFlit : List Byte := mkFlit 0 0 (List.replicate 250 0)

/-- A LINK_CTL flit: the ACK of the last SEQ received in order, if there is one, and a NAK of the expected SEQ where one is due. -/
def ctlFlit (x : LinkPort) (nak : Bool) : List Byte :=
  mkFlit 2 0 (leBytes 2 (if x.rxAny then 2 ^ 15 + (x.rxSeq + 4095) % 4096 else 0) ++
    leBytes 2 (if nak then 2 ^ 15 + x.rxSeq else 0) ++ List.replicate 246 0)

/-- The port sends a DATA flit in its next data slot; a link-control slot on the way carries its LINK_CTL flit. -/
def putFlit (x : LinkPort) (flit : List Byte) : LinkPort :=
  let y := if ctlSlot x.slot then { x with out := x.out ++ [(x.slot, ctlFlit x false)], slot := nextSlot x.slot } else x
  { y with out := y.out ++ [(y.slot, flit)], slot := nextSlot y.slot }

/-- The port reaches its next link-control slot and sends what is due there; the slots before it carry IDLE. Between the commands of
this block every port reaches one (DESIGN CHOICE, log 29). -/
def sendCtl (x : LinkPort) (nak : Bool) : LinkPort :=
  let n := (x.slot / 80) * 80 + 79
  { x with out := x.out ++ [(n, ctlFlit x nak)], slot := nextSlot n }

/-! ### Sending flits (R266 to R268) -/

/-- The next frame of a port's queue: the oldest control frame ahead of UP and DOWN, else the oldest. -/
def nextTx (q : List LinkFrame) : Option LinkFrame := (q.find? (fun f => kindCtrl f.kind)).or q.head?

/-- The next frame of a port, and the port without it: a waiting control frame, unless frames of its tree are sent again before it, then
the oldest of those, so that they go in order (R274), then what waits. -/
def takeTx (x : LinkPort) : Option (LinkFrame × LinkPort) :=
  let fresh := fun (f : LinkFrame) => !kindSequenced f.kind || !(x.rsq.any (fun g => g.tree = f.tree))
  match x.txq.find? (fun f => kindCtrl f.kind && fresh f), x.rsq with
  | some f, _ => some (f, { x with txq := x.txq.erase f })
  | none, f :: l => some (f, { x with rsq := l })
  | none, [] => (nextTx x.txq).map (fun f => (f, { x with txq := x.txq.erase f }))

/-- Fills a flit body of 250 bytes from the frames that wait; what stays free is padding. -/
def fillBody (x : LinkPort) : Nat → LinkPort
  | 0 => x
  | fuel + 1 =>
    if 250 ≤ x.txRest.length then x
    else
      match takeTx x with
      | none => x
      | some (f, y) => fillBody { y with txRest := x.txRest ++ frameBytes f } fuel

/-- Sends one DATA flit where the port is UP, something waits and fewer than 1,024 flits are unacknowledged. -/
def sendFlit (x : LinkPort) : Option LinkPort :=
  if x.st != .up || 1024 ≤ x.replay.length || (x.txRest.isEmpty && x.txq.isEmpty && x.rsq.isEmpty) then none
  else
    let y := fillBody x 251
    let body := y.txRest.take 250 ++ List.replicate (250 - y.txRest.length) 0
    some (putFlit { y with txRest := y.txRest.drop 250, replay := y.replay ++ [(y.txSeq, body)],
                           txSeq := (y.txSeq + 1) % 4096, txData := y.txData + 1 } (dataFlit y.txSeq body))

/-- Sends flits while it can; counts them. -/
def sendFlits : Nat → LinkPort → Nat → LinkPort × Nat
  | 0, x, n => (x, n)
  | fuel + 1, x, n => match sendFlit x with | some y => sendFlits fuel y (n + 1) | none => (x, n)

/-- Adds the bytes of sent flits to the meter of the partition that claims the port (R284). -/
def meterFlits (s : State) (p n : Nat) : State :=
  match portRec s p with
  | some (q, _) => addMeter s q 10 (256 * n)
  | none => s

/-- The port sends what it can. -/
def pump (s : State) (p : Nat) : State :=
  let r := sendFlits 1025 (getPort s p) 0
  if r.2 = 0 then s else meterFlits (modPort s p (fun _ => r.1)) p r.2

/-- Puts a frame into a port's queue. -/
def txFrame (s : State) (p : Nat) (f : LinkFrame) : State := pump (modPort s p (fun x => { x with txq := x.txq ++ [f] })) p

/-! ### Trees, edges and their windows -/

def treeRec (s : State) (p : PartId) (t : Nat) : Option TreeRec := (getPart s p).trees.find? (fun r => r.tree = t)
def findTree (s : State) (p : PartId) (t : Nat) : Option Tree := s.trees.find? (fun x => x.part = p && x.tree = t)
def modTree (s : State) (p : PartId) (t : Nat) (f : Tree → Tree) : State :=
  { s with trees := updIf (fun x => x.part = p && x.tree = t) f s.trees }
def edgeRec (r : TreeRec) (e : Nat) : EdgeRec := r.edges.getD e ⟨1, 0, 0xFF, 0⟩
def edgeReset : EdgeSt := ⟨false, false, 0, 0, [], [], [], false⟩
def getEdge (t : Tree) (e : Nat) : EdgeSt := t.edges.getD e edgeReset
def modEdge (s : State) (p : PartId) (t e : Nat) (f : EdgeSt → EdgeSt) : State :=
  modTree s p t (fun x => { x with edges := x.edges.set e (f (getEdge x e)) })

/-- The home engine's link die (R272): that of the ports of the edges. -/
def homeDie (r : TreeRec) : Option Nat := r.edges.head?.map (fun e => e.primary / 8)

/-- The active port of an edge. -/
def activePort (r : TreeRec) (t : Tree) (e : Nat) : Nat := if (getEdge t e).alt then (edgeRec r e).alternate else (edgeRec r e).primary

/-- Sends one frame of an edge on its active port; UP and DOWN payload is counted. -/
def edgeTx (s : State) (r : TreeRec) (t : Tree) (e : Nat) (f : LinkFrame) : State :=
  let s1 := if kindCtrl f.kind then s else modLink s ((homeDie r).getD 0) (fun d => { d with bytes := d.bytes + BitVec.ofNat 64 f.data.length })
  txFrame s1 (activePort r t e) f

/-- The port keeps no sequenced frame of a tree that waits. -/
def dropTree (x : LinkPort) (t : Nat) : LinkPort :=
  let keep := fun (f : LinkFrame) => !(f.tree = t && kindSequenced f.kind)
  { x with txq := x.txq.filter keep, rsq := x.rsq.filter keep }

/-- The frame is UP or DOWN data of a tree. -/
def treeData (t : Nat) (f : LinkFrame) : Bool := f.tree = t && !kindCtrl f.kind

/-- A control frame takes its EDGE_SEQ ahead of the UP and DOWN frames of its edge that still wait at the port, and they move back
by one: EDGE_SEQ follows the order of transmission. Answers the frame, the port's queue and the unacknowledged frames. -/
def seqAhead (t txSeq : Nat) (f : LinkFrame) (txq unacked : List LinkFrame) : LinkFrame × List LinkFrame × List LinkFrame :=
  let m := if kindCtrl f.kind then (txq.filter (treeData t)).length else 0
  let n := unacked.length - m
  let g := { f with seq := (txSeq + 65536 - m) % 65536 }
  let back := fun (x : LinkFrame) => { x with seq := (x.seq + 1) % 65536 }
  (g, if m = 0 then txq else updIf (treeData t) back txq, unacked.take n ++ g :: (unacked.drop n).map back)

/-- Moves waiting frames of an edge into its window of 32: a control frame ahead of UP and DOWN. A frame without a sequence needs no
room in it. -/
def edgeFill (s : State) (p : PartId) (t e : Nat) : Nat → State
  | 0 => s
  | fuel + 1 =>
    match findTree s p t, treeRec s p t with
    | some x, some r =>
      let y := getEdge x e
      match nextTx y.waitq with
      | none => s
      | some f =>
        if !kindSequenced f.kind then edgeFill (edgeTx (modEdge s p t e (fun z => { z with waitq := z.waitq.erase f })) r x e f) p t e fuel
        else if 32 ≤ y.unacked.length then s
        else
          let port := activePort r x e
          let (g, q, u) := seqAhead t y.txSeq f (getPort s port).txq y.unacked
          let s1 := modEdge s p t e (fun z => { z with txSeq := (z.txSeq + 1) % 65536, unacked := u, waitq := z.waitq.erase f })
          edgeFill (edgeTx (modPort s1 port (fun z => { z with txq := q })) r x e g) p t e fuel
    | _, _ => s

/-- Sends a frame on an edge. A TREE_RESET goes behind the control frames that wait for the window (Table 11.6). -/
def edgeSend (s : State) (p : PartId) (t e : Nat) (f : LinkFrame) : State :=
  match findTree s p t, treeRec s p t with
  | some x, some r =>
    if kindSequenced f.kind || (f.kind = kReset && (getEdge x e).waitq.any (fun g => kindCtrl g.kind)) then
      edgeFill (modEdge s p t e (fun z => { z with waitq := z.waitq ++ [f] })) p t e 33
    else edgeTx s r x e f
  | _, _ => s

def plainFrame (kind tree op : Nat) (data : List Byte) : LinkFrame := ⟨kind, tree, 0, 0, op, 0, 0, data⟩

/-- The partition's tree and edge that a frame of a port belongs to: those of the partition that claims the port, on either
port of an edge (R268, R273). -/
def frameEdge (s : State) (port tree : Nat) : Option (PartId × Nat) :=
  match portRec s port with
  | none => none
  | some (p, _) =>
    match treeRec s p tree, findTree s p tree with
    | some r, some _ => (r.edges.findIdx? (fun e => e.primary = port || e.alternate = port)).map (fun e => (p, e))
    | _, _ => none

/-! ### Receiving flits (R267) -/

/-- Takes complete frames off the received bytes. -/
def parseFrames : Nat → List Byte → List LinkFrame → List Byte × List LinkFrame
  | 0, b, acc => (b, acc)
  | fuel + 1, b, acc =>
    match b with
    | [] => ([], acc)
    | h :: _ =>
      if h = 0 then ([], acc)
      else
        let n := 16 + 64 * (b.getD 2 0).toNat
        if b.length < 16 || b.length < n then (b, acc) else parseFrames fuel (b.drop n) (acc ++ [frameOf (b.take n)])

/-- A frame has arrived: an unknown kind is discarded with UNCORR, a frame for no tree is discarded, the rest wait. -/
def takeLinkFrame (s : State) (p : Nat) (f : LinkFrame) : State :=
  if !kindKnown f.kind then modPort s p (fun x => { x with evUncorr := true })
  else if (frameEdge s p f.tree).isNone then s
  else modPort s p (fun x => { x with rxq := x.rxq ++ [f] })

def flitType (b : List Byte) : Nat := leNat (b.take 2) / 2 ^ 14
def flitSeq (b : List Byte) : Nat := leNat (b.take 2) % 4096
/-- The flit's CRC holds (R266). -/
def flitOk (b : List Byte) : Bool := b.length = 256 && leNat ((b.drop 252).take 4) = (crc32 (b.take 252)).toNat

/-- The symbol errors that a codeword corrects (R265). -/
def rsLimit : Nat := 15
/-- The symbols that a pair's codewords correct, and the codewords that are uncorrectable. -/
def pairFixed (q : RxPair) : Nat := (if q.errA ≤ rsLimit then q.errA else 0) + (if q.errB ≤ rsLimit then q.errB else 0)
def pairLost (q : RxPair) : Nat := (if q.errA ≤ rsLimit then 0 else 1) + (if q.errB ≤ rsLimit then 0 else 1)

/-- The first flit of a codeword pair brings its report, which counts once (R287); every flit of the pair shares it (R265). -/
def pairReport (x : LinkPort) (q : RxPair) : LinkPort :=
  if x.rxPair = some q.seq then x
  else
    { x with fecCorr := x.fecCorr + BitVec.ofNat 64 (pairFixed q), uncorr := x.uncorr + BitVec.ofNat 64 (pairLost q),
             evUncorr := x.evUncorr || pairLost q != 0, rxPair := some q.seq, rxLost := pairLost q != 0 }

/-- A flit is damaged: its CRC fails, or a codeword of its pair is uncorrectable. -/
def flitBad (x : LinkPort) (flit : List Byte) : Bool := x.rxLost || !flitOk flit

/-- A flit is discarded: a NAK goes out at the next link-control slot, and DATA flits are discarded until the expected one arrives. One
that comes out of order while they are discarded asks for no further NAK. -/
def discardFlit (x : LinkPort) (damaged : Bool) : LinkPort := sendCtl { x with nak := true } (damaged || !x.nak)

/-- LINK_DATA_FLIT: a DATA flit in a codeword pair; its position in the pair is that of a data slot. -/
def execLinkDataFlit (p : Fin 24) (flit : List Byte) (pair : RxPair) (_pos : Fin 5) (s : State) : Out :=
  let x := pairReport (getPort s p.val) pair
  if x.st != .up then .next s
  else
    let s1 := modPort s p.val (fun _ => x)
    if flitBad x flit then .next (modPort s1 p.val (fun y => discardFlit y true))
    else if flitType flit != 1 then .next s1
    else if flitSeq flit ≠ x.rxSeq then .next (modPort s1 p.val (fun y => discardFlit y false))
    else
      let r := parseFrames 17 (x.rxRest ++ (flit.drop 2).take 250) []
      .next (r.2.foldl (fun a f => takeLinkFrame a p.val f)
        (modPort s1 p.val (fun y => sendCtl { y with rxSeq := (y.rxSeq + 1) % 4096, rxAny := true, nak := false, rxRest := r.1 } false)))

/-! ### Training (R269 to R271) -/

/-- The settings saved for the port's band. -/
def savedFor (x : LinkPort) : Option SavedSet := (x.sets.find? (fun e => e.1 = x.band)).map (fun e => e.2)

/-- Training starts at DETECT, for the link die's current band. What STATUS, LANES and PEERn show is that of this training (R287). -/
def trainStart (s : State) (p : Nat) : State :=
  modPort s p (fun x =>
    let b := (vget s.thm.linkBand (Fin.ofNat 3 (p / 8))).band
    { x with st := .training, step := .detect, prevWidth := if x.st == .up then x.width else x.prevWidth, width := 0, quads := 0, cause := 0,
             peer := 0, reversed := false, polarity := 0, ident := [], band := b, saved := !x.full && (savedFor { x with band := b }).isSome, full := false, again := false, reps := 0, repAge := 0 })

/-- An UP or FAILED port retrains; RETRAINS counts since the power cycle. -/
def portRetrain (s : State) (p : Nat) : State :=
  let x := getPort s p
  if x.st == .up || x.st == .failed then
    modPort (trainStart (modPort s p (fun y => { y with retrains := y.retrains + 1 })) p) p (fun y => { y with again := true })
  else s

/-- PORT_RETRAIN: a request by Tops, for an UP port. -/
def execPortRetrain (p : Fin 24) (s : State) : Out := .next (if (getPort s p.val).st == .up then portRetrain s p.val else s)
/-- LNK_RETRAIN. -/
def execLnkRetrain (p : Fin 24) (s : State) : Out := .next (portRetrain s p.val)
/-- LNK_FULL: a port of an absent link die has no registers. -/
def execLnkFull (p : Fin 24) (s : State) : Out :=
  .next (if (linkMask s).getLsbD (p.val / 8) then modPort s p.val (fun x => { x with full := true }) else s)
/-- CHIP_LANE_LOCK_LOSS: an active lane of an UP port loses lock. -/
def execChipLaneLockLoss (p : Fin 24) (lane : Fin 16) (s : State) : Out :=
  let x := getPort s p.val
  .next (if x.st == .up && x.quads.getLsbD (lane.val / 4) then portRetrain s p.val else s)

/-- A replay of the last `n` unacknowledged flits is sent (R267); 64 of them within 2^16 ticks retrain the port (R270). -/
def countReplay (s : State) (p n : Nat) : State :=
  let s1 := meterFlits (modPort s p (fun x =>
    let fresh := x.reps = 0 || 2 ^ 16 ≤ x.repAge
    let x := (x.replay.drop (x.replay.length - n)).foldl (fun a e => putFlit a (dataFlit e.1 e.2)) x
    { x with replays := x.replays + 1, evReplay := true, txData := x.txData + BitVec.ofNat 64 n,
             reps := if fresh then 1 else x.reps + 1, repAge := if fresh then 0 else x.repAge })) p n
  if 64 ≤ (getPort s1 p).reps then portRetrain s1 p else s1

/-- LINK_CTL_FLIT: the ACK releases flits up to its SEQ, the NAK resends from its own; a damaged one is answered with a NAK. -/
def execLinkCtlFlit (p : Fin 24) (flit : RxFlit) (s : State) : Out :=
  let x := pairReport (getPort s p.val) flit.pair
  if x.st != .up then .next s
  else if flitBad x flit.bytes then .next (modPort s p.val (fun _ => discardFlit x true))
  else if flitType flit.bytes ≠ 2 then .next (modPort s p.val (fun _ => x))
  else
    let ack := leNat ((flit.bytes.drop 2).take 2)
    let nak := leNat ((flit.bytes.drop 4).take 2)
    let rel := fun (l : List (Nat × List Byte)) =>
      if ack.testBit 15 && l.any (fun e => e.1 = ack % 4096) then (l.dropWhile (fun e => e.1 != ack % 4096)).drop 1 else l
    let s1 := modPort s p.val (fun _ => { x with replay := rel x.replay })
    let again := ((getPort s1 p.val).replay.dropWhile (fun e => e.1 != nak % 4096)).length
    let s2 := if nak.testBit 15 && again ≠ 0 then countReplay s1 p.val again else s1
    .next (pump s2 p.val)

end Sys2Proof.Machine
end

