-- ==== Sys2Proof/Machine/Fec.lean ====
section
/-!
DEFINITION. The codeword pairs of a chip-link port as they go out on its lanes (11_chip_links.md, R265). The code is that of IEEE 802.3
Clause 91, which the rule names; its field GF(2^10), with x^10 + x^3 + 1, and the roots of its generator polynomial are taken from there
(PRESUMED, log 29).
-/

namespace Sys2Proof.Machine

/-! ### RS(544,514) over GF(2^10) -/

/-- Twice an element of the field. -/
def gfDouble (x : Nat) : Nat := if x < 512 then 2 * x else Nat.xor (2 * x) 0x409

/-- The product of two elements. -/
def gfMul (a b : Nat) : Nat :=
  ((List.range 10).foldl (fun (r : Nat × Nat) i => (if b.testBit i then Nat.xor r.1 r.2 else r.1, gfDouble r.2)) (0, a)).1

/-- The parity symbols of a codeword. -/
def rsCheck : Nat := 30

/-- A polynomial, highest coefficient first, times x + a. -/
def rsTimes (p : List Nat) (a : Nat) : List Nat := (p ++ [0]).zipWith Nat.xor (0 :: p.map (gfMul a))

/-- The generator polynomial without its leading 1: the product of x + 2^j for j = 0 to 29. -/
def rsGenerator : List Nat := ((List.range rsCheck).foldl (fun (r : List Nat × Nat) _ => (rsTimes r.1 r.2, gfDouble r.2)) ([1], 1)).1.drop 1

/-- The 30 parity symbols of a message: the remainder by the generator. -/
def rsParity (g : List Nat) (msg : List Nat) : List Nat :=
  msg.foldl (fun r m =>
    let f := Nat.xor m (r.headD 0)
    (r.drop 1 ++ [0]).zipWith (fun a c => Nat.xor a (gfMul f c)) g) (List.replicate rsCheck 0)

/-! ### The symbols of a pair -/

/-- Two lists of one length, element by element. -/
def interleave {α : Type} : List α → List α → List α
  | a :: as, b :: bs => a :: b :: interleave as bs
  | _, _ => []

/-- Every second element, from the first one. -/
def everySecond {α : Type} : List α → List α
  | a :: _ :: l => a :: everySecond l
  | l => l

/-- The 1,088 symbols of a pair in the order in which they go out: its message of a header and five flits, bit 0 of the header first, cut
into symbols of ten bits, then the parity of the even symbols and of the odd ones, interleaved. -/
def pairSymbols (header : BitVec 40) (flits : List (List Byte)) : List Nat :=
  let n := header.toNat + 2 ^ 40 * leNat flits.flatten
  let m := (List.range 1028).map (fun i => n / 2 ^ (10 * i) % 1024)
  m ++ interleave (rsParity rsGenerator (everySecond m)) (rsParity rsGenerator (everySecond (m.drop 1)))

/-- A symbol as 5 PAM4 symbols, most significant bits first. -/
def pam4 (x : Nat) : List Nat := [x / 256 % 4, x / 64 % 4, x / 16 % 4, x / 4 % 4, x % 4]

/-! ### What a port sends -/

/-- The flit that a port sends in a slot: the last one listed for it, else IDLE. -/
def slotFlit (x : LinkPort) (n : Nat) : List Byte := ((x.out.reverse.find? (fun e => e.1 = n)).map (fun e => e.2)).getD idleFlit

/-- The symbols of the `k`-th pair that a port sends, `k` counted from the start of its flit transfer. -/
def portPair (x : LinkPort) (k : Nat) : List Nat :=
  pairSymbols (pairHeader x (5 * (k % 4096))) ((List.range 5).map (fun i => slotFlit x (5 * (k % 4096) + i)))

/-- The active lanes, in ascending order. -/
def lanesOn (x : LinkPort) : List Nat := (List.range 16).filter (fun l => x.quads.getLsbD (l / 4))

/-- The PAM4 symbols of the `k`-th pair on an active lane: the symbols are dealt round-robin, continuing from pair to pair. -/
def laneSends (x : LinkPort) (k lane : Nat) : List Nat :=
  let ls := lanesOn x
  ((List.range 1088).filter (fun i => ls.getD ((1088 * k + i) % ls.length) 16 = lane)).flatMap (fun i => pam4 ((portPair x k).getD i 0))

end Sys2Proof.Machine
end

