-- ==== Sys2Proof/Machine/NearSlice.lean ====
section
/-!
DEFINITION. The near slices and the correctable-error tables (07_near_slices.md, R156, R164 to R173), and the retirement of
SRAM rows (16_faults.md, R373 to R375).
-/

namespace Sys2Proof.Machine

/-! ### Locations in a slice (Table 7.1) -/

/-- LAYER × 16 + BANK of a user block. -/
def bankOfBlock (blk : Nat) : Nat := ((blk / 2) % 4) * 16 + (blk / 8) % 16
/-- ROW of a user block. -/
def rowOfBlock (blk : Nat) : Nat := blk / 2048
/-- The 32 user blocks of a row. -/
def blocksOfRow (bank row : Nat) : List Nat :=
  (List.range 32).map (fun i => row * 2048 + (i / 2) * 128 + (bank % 16) * 8 + (bank / 16) * 2 + i % 2)
/-- A test block (R173) as a block number past the user blocks. -/
def testBlock (layer bank block : Nat) : Nat := 2 ^ 24 + (layer * 16 + bank) * 32 + block

/-- The lowest unused spare row of a bank (R167). -/
def freeSpare (n : Near) (bank : Nat) : Option Nat := (List.range 64).find? (fun i => !(n.used.contains (bank * 64 + i)))

/-- The scrubber reads its next block (R164); `ups` are the stored bits of that block disturbed before it does. -/
def execScrubRead (k : CoreId) (ups : List Nat) (s : State) : Out :=
  let g := getRegion s (regionOf k)
  if g.power = .awake || g.power = .dozing then
    let b := (getNear s k).scrub
    let s1 := modNear s k (fun n => { n with mem := ups.foldl (fun m u => pmUpset m b (u % 584)) n.mem, scrub := (b + 1) % 2 ^ 24 })
    .next (touchBlock s1 k .near b).1
  else .next s

/-! ### The table (R165, R166, R373) -/

def modCet (s : State) (r : RegionId) (i : Nat) (f : CetEntry → CetEntry) : State :=
  modRegion s r (fun g => { g with cet := vmod g.cet (Fin.ofNat 16 i) f })

/-- The failed retirement is raised to the region (R374). -/
def retireFailed (s : State) (k : CoreId) (kind : Nat) : State :=
  raiseRec s { recCore s k 0x22 1 2 with detail := BitVec.ofNat 16 kind }

/-- The copy of a row starts (R167 step 2): each block is decoded and corrected, or poisoned. -/
def startRowCopy (s : State) (k : CoreId) (c : NearCopy) : State :=
  let s1 := modCet s (regionOf k) c.entry (fun e => { e with action := 2 })
  let s2 := modNear s1 k (fun n => { n with copies := updIf (fun x => x.bank = c.bank && x.spare = c.spare) (fun x => { x with started := true }) n.copies })
  (touchBlocks s2 k .near (blocksOfRow c.bank c.row)).1

/-- The repair of a near-slice row starts (R167, R168): it waits in REPAIR_PENDING while its bank copies another row. -/
def startRowRepair (s : State) (k : CoreId) (entry blk : Nat) : State :=
  let bank := bankOfBlock blk
  let n := getNear s k
  match freeSpare n bank with
  | none =>
    retireFailed (modNsl (modCet s (regionOf k) entry (fun e => { e with action := 4 })) k (fun x => { x with evNoSpare := true })) k 0
  | some sp =>
    let c : NearCopy := ⟨entry, bank, rowOfBlock blk, sp, false⟩
    let busy := n.copies.any (fun x => x.bank = bank)
    let s1 := modCet (modNear s k (fun x => { x with copies := x.copies ++ [c], used := (bank * 64 + sp) :: x.used }))
      (regionOf k) entry (fun e => { e with action := 1, spare := sp })
    if busy then s1 else startRowCopy s1 k c

/-- Spare rows of each SRAM (R375), by kind 1 to 4. -/
def sramSpares (kind : Nat) : Nat := if kind = 1 then 32 else if kind = 2 then 8 else 4

/-- Spare rows of an SRAM that a core has used. -/
def sramUsed (c : Core) (kind : Nat) : Nat := ((c.copies ++ c.retired).filter (fun x => x.kind = kind)).length

/-- The retirement of an SRAM row starts (R375): its 16 blocks are copied, corrected or poisoned. -/
def startRetire (s : State) (k : CoreId) (kind blk : Nat) : State :=
  let n := sramUsed (getCore s k) kind
  if sramSpares kind ≤ n then retireFailed s k kind
  else
    let s1 := modCore s k (fun m => { m with copies := m.copies ++ [⟨kind, blk / 16, n⟩] })
    let bs := (List.range 16).map (fun i => (blk / 16) * 16 + i)
    if kind = 1 then (touchBlocks s1 k .opbuf bs).1
    else if kind = 3 then (touchBlocks s1 k .imem bs).1
    else if kind = 2 then (touchSofts s1 k .acc bs).1
    else (touchSofts s1 k .inbox bs).1

/-- The action that a LASTING entry starts (Table 16.4). -/
def startRetirement (s : State) (r : RegionId) (i : Nat) (e : CetEv) : State :=
  let k := coreOf r.val e.loc
  if e.kind = 0 then startRowRepair s k i e.addr
  else
    let s1 := modCet s r i (fun x => { x with action := 5 })
    if e.kind ≤ 4 then startRetire s1 k e.kind e.addr
    else
      let s2 := modCore s1 k (fun m => { m with cube := { m.cube with suspect := true } })
      raiseRec s2 { recCore s2 k 0x11 0 1 with
        detail := BitVec.ofNat 16 (e.det * 4096 + if e.kind = 5 then (e.addr / 16) * 256 + (e.addr % 16) * 16 else 0) }

/-- The entry is LASTING and takes new events as new cells (R165 step 3); so does every LASTING entry of kinds 1 to 6 (R373). -/
def cetReusable (e : CetEntry) : Bool := e.lasting && (e.action = 3 || (1 ≤ e.kind && e.kind ≤ 6))

/-- The entry that R166 gives for a new location. -/
def cetSlot (es : List CetEntry) : Option Nat :=
  match es.findIdx? (fun e => !e.valid) with
  | some i => some i
  | none =>
    match es.findIdx? cetReusable with
    | some i => some i
    | none =>
      let m := (es.filter (fun e => !e.lasting)).foldl (fun a e => max a (e.age + 1)) 0
      if m = 0 then none else es.findIdx? (fun e => !e.lasting && e.age + 1 = m)

/-- An entry that starts with one event. -/
def cetFresh (e : CetEv) : CetEntry := ⟨true, false, e.kind, e.loc, 0, 1, e.addr, e.sr, e.scW, e.scF, 0, 0⟩

/-- A table after one event (R165), and the entry that the event makes LASTING; `none` where the event is lost. -/
def cetUpdate (t : Vector CetEntry 16) (e : CetEv) : Option (Vector CetEntry 16 × Option Nat) :=
  let es := t.toList
  let put := fun (i : Nat) (x : CetEntry) => vset t (Fin.ofNat 16 i) { x with sr := e.sr, scW := e.scW, scF := e.scF }
  match es.findIdx? (fun x => x.valid && x.kind = e.kind && x.loc = e.loc && x.addr = e.addr) with
  | some i =>
    let x := es.getD i CetEntry.reset
    if !x.lasting then
      if x.age < 2 ^ 20 then
        let n := min 255 (x.count + 1)
        some (put i { x with count := n, lasting := decide (3 ≤ n) }, if n = 3 then some i else none)
      else some (put i { x with count := 1, age := 0 }, none)
    else if cetReusable x then some (put i { x with count := 1, age := 0, lasting := false, action := 0 }, none)
    else some (put i x, none)
  | none => (cetSlot es).map (fun i => (put i (cetFresh e), none))

/-- The region's table takes one event. -/
def cetTake (s : State) (r : RegionId) (e : CetEv) : State :=
  match cetUpdate (getRegion s r).cet e with
  | none => modRegion s r (fun g => { g with cetLost := g.cetLost + 1 })
  | some (t, l) =>
    let s1 := modRegion s r (fun g => { g with cet := t })
    match l with
    | some i => startRetirement s1 r i e
    | none => s1

/-- A disturbance of an SRAM of the region, which holds it until the block is read or written whole. -/
def sramUpset (s : State) (r : RegionId) (u : SramUpset) : State :=
  let k := coreOf r.val u.loc.val
  let b := u.bit % 584
  let soft := fun (v : Soft) => modSoft s k v (fun t => setDiff t (u.blk % softBlocks v) (tget 0 t (u.blk % softBlocks v) ^^^ upsetDiff b))
  if u.kind = 1 then setSpace s k .opbuf (pmUpset (getSpace s k .opbuf) (u.blk % 0x18000) b)
  else if u.kind = 3 then setSpace s k .imem (pmUpset (getSpace s k .imem) (u.blk % 0x1000) b)
  else if u.kind = 2 then soft .acc
  else if u.kind = 4 then soft .inbox
  else s

/-- CET_EVENT: the region's table takes its oldest waiting event; `ups` are disturbances of the region's SRAMs since. -/
def execCetEvent (r : RegionId) (ups : List SramUpset) (s : State) : Out :=
  let s1 := ups.foldl (fun a u => sramUpset a r u) s
  match (getRegion s1 r).cetWait with
  | [] => .next s1
  | e :: es => .next (cetTake (modRegion s1 r (fun g => { g with cetWait := es })) r e)

/-! ### The ends of repairs -/

/-- The physical core of a logical one within its region (R20). -/
def physOfCore (s : State) (k : CoreId) : Nat := (vget (getRegion s (regionOf k)).fusePhys (Fin.ofNat 4 (localOf k))).val

/-- NSL_ROW_REPAIR_DONE: the `i`-th repair of the slice, if its copy runs, redirects its row (R167 step 3), which Tops saves
(R169); the next repair of the bank starts. -/
def execNslRowRepairDone (k : CoreId) (i : Nat) (s : State) : Out :=
  match (getNear s k).copies[i]? with
  | none => .next s
  | some c =>
    if !c.started then .next s
    else
      let s1 := modNear s k (fun n => { n with copies := n.copies.eraseIdx i, moved := tset n.moved (c.bank * 8192 + c.row) c.spare })
      let s2 := modCet s1 (regionOf k) c.entry (fun e => { e with action := 3 })
      let s3 := toTops (modNsl s2 k (fun x => { x with evRepaired := true, repairs := x.repairs + 1 }))
        (.repair (.nearRow (regionOf k).val (physOfCore s k) (c.bank / 16) (c.bank % 16) c.row))
      match (getNear s3 k).copies.find? (fun x => x.bank = c.bank) with
      | some d => .next (startRowCopy s3 k d)
      | none => .next s3

/-- SRAM_ROW_RETIRE_DONE: the `i`-th retirement of the core finishes and its row is redirected, which Tops saves (R375 step 2). -/
def execSramRowRetireDone (k : CoreId) (i : Nat) (s : State) : Out :=
  match (getCore s k).copies[i]? with
  | none => .next s
  | some c =>
    .next (toTops (modCore s k (fun m => { m with copies := m.copies.eraseIdx i, retired := m.retired ++ [c] }))
      (.repair (.sramRow (regionOf k).val (physOfCore s k) c.kind c.row)))

/-- NSL_REFRESH: a bank refreshes its next row of the cycle of 8,192 user, 64 spare and 1 test rows (R170). -/
def execNslRefresh (k : CoreId) (bank : Fin 64) (s : State) : Out :=
  .next (modNear s k (fun n => { n with refresh := tset n.refresh bank.val ((tget 0 n.refresh bank.val + 1) % 8257) }))

/-! ### The checker test mode (R173) -/

/-- The result of a test read: the decode of the stored block. -/
def testResult (n : NslRegs) (d : BitVec 72) : NslRegs :=
  { n with sr := synRow d, scWeight := popc (synCol d), scFirst := lowBit (synCol d), outcome := decodeCode (decodeSyn d), done := true }

/-- 16 data words of a block. -/
def dataWords (bs : List Byte) : Vector W32 16 := Vector.ofFn (fun (i : Fin 16) => BitVec.ofNat 32 (leNat ((bs.drop (4 * i.val)).take 4)))
/-- The three check registers. -/
def checkWords (c : BitVec 72) : Vector W32 3 := #v[c.extractLsb' 0 32, c.extractLsb' 32 32, (c.extractLsb' 64 8).setWidth 32]
/-- The words of the data and check registers. -/
def regsData (n : NslRegs) : List Byte := n.tdata.toList.flatMap (fun w => leBytes 4 w.toNat)
def regsCheck (n : NslRegs) : BitVec 72 := BitVec.ofNat 72 (n.tchk[0].toNat + n.tchk[1].toNat * 2 ^ 32 + (n.tchk[2].toNat % 256) * 2 ^ 64)

/-- 64 free bytes: the data that a read without data leaves in NSL_TDATA (log 23). -/
def freeBlock (s : State) : State × List Byte :=
  (List.range 8).foldl (fun (a : State × List Byte) _ => let r := drawFree a.1; (r.1, a.2 ++ leBytes 8 r.2.toNat)) (s, [])

/-- Carries out a test command: 1 WRITE_RAW, 2 READ_RAW, 3 READ_CHECKED. -/
def testRun (s : State) (k : CoreId) (cmd blk : Nat) : State :=
  let m := (getNear s k).mem
  let n := (getCore s k).nsl
  if cmd = 1 then
    let bs := regsData n
    let s1 := modNear s k (fun x => { x with mem := ⟨memWriteBytes m.bytes (blk * 64) bs, setDiff m.diff blk (checkBits bs ^^^ regsCheck n)⟩ })
    modNsl s1 k (fun y => { y with done := true, test := none })
  else
    let d := blkDiff m blk
    let fixed := if cmd = 3 then (pmTouch m blk).1 else m
    let raw := memReadBytes fixed.bytes (blk * 64) 64
    let noData := decide (cmd = 3) && (decodeSyn d == .poison || decodeSyn d == .uncorrectable)
    let (s1, bs) := if noData then freeBlock s else (s, raw)
    modNsl s1 k (fun y => testResult { y with tdata := dataWords bs, tchk := checkWords (storedChecks m blk), test := none } d)

/-- A test command written to NSL_TCTL with its block. It is a wake event of the core's region (R338); on a region whose slices are
in self-refresh it waits for that wake. -/
def testCommand (s0 : State) (k : CoreId) (cmd layer bank block : Nat) : State :=
  let s := wakeRegion s0 (regionOf k)
  let s1 := modNsl s k (fun n => { n with layer := BitVec.ofNat 2 layer, bank := BitVec.ofNat 4 bank, block := BitVec.ofNat 5 block })
  if !(getCore s k).nsl.done then s1
  else if (partOfCore s k).isSome then modNsl s1 k (fun n => { n with outcome := 7, done := true })
  else
    let g := getRegion s (regionOf k)
    let b := testBlock layer bank block
    if g.power = .asleep || (g.power = .waking && g.wakeFrom = .asleep) then
      modNsl s1 k (fun n => { n with done := false, test := some (cmd, b) })
    else testRun s1 k cmd b

/-- NSL_WRITE_RAW: NSL_TCTL is written with command 1. -/
def execNslWriteRaw (k : CoreId) (layer : Fin 4) (bank : Fin 16) (block : Fin 32) (s : State) : Out :=
  .next (testCommand s k 1 layer.val bank.val block.val)

/-- NSL_READ_RAW: command 2. -/
def execNslReadRaw (k : CoreId) (layer : Fin 4) (bank : Fin 16) (block : Fin 32) (s : State) : Out :=
  .next (testCommand s k 2 layer.val bank.val block.val)

/-- NSL_READ_CHECKED: command 3. -/
def execNslReadChecked (k : CoreId) (layer : Fin 4) (bank : Fin 16) (block : Fin 32) (s : State) : Out :=
  .next (testCommand s k 3 layer.val bank.val block.val)

/-- A command is REFUSED (R173). -/
def testRefuse (s : State) (k : CoreId) : State := modNsl s k (fun n => { n with outcome := 7, done := true, test := none })

/-- The test commands that waited for a region's wake are carried out, where the core is still of no partition (R173). -/
def testWake (s : State) (r : RegionId) : State :=
  (List.range 4).foldl (fun a l =>
    let k := coreOf r.val l
    match (getCore a k).nsl.test with
    | some (c, b) => if (partOfCore a k).isSome then testRefuse a k else testRun a k c b
    | none => a) s

end Sys2Proof.Machine
end

