-- ==== Sys2Proof/Machine/Num.lean ====
section
/-!
DEFINITION. Exact numbers and their one rounding: a value is an integer times a power of two, every operation is exact,
and one rounding to nearest with ties to even narrows it (03_cores.md, R71; 05_accumulation.md, R118).
-/

namespace Sys2Proof.Machine

/-- The number of significant bits of a natural number: 0 for 0. -/
def bitLen (n : Nat) : Nat := if n = 0 then 0 else Nat.log2 n + 1

/-- An exact dyadic value `n · 2^e`. -/
structure Dy where
  n : Int
  e : Int
  deriving DecidableEq, Repr

/-- `a + b`, exact. -/
def dyAdd (a b : Dy) : Dy :=
  let e := min a.e b.e
  ⟨a.n * 2 ^ (a.e - e).toNat + b.n * 2 ^ (b.e - e).toNat, e⟩

def dyNeg (a : Dy) : Dy := ⟨-a.n, a.e⟩

/-- `a · b`, exact. -/
def dyMul (a b : Dy) : Dy := ⟨a.n * b.n, a.e + b.e⟩

/-- `a < b`, exact. -/
def dyLt (a b : Dy) : Bool :=
  let e := min a.e b.e
  decide (a.n * 2 ^ (a.e - e).toNat < b.n * 2 ^ (b.e - e).toNat)

/-- `a = b` as values. -/
def dyEq (a b : Dy) : Bool := !dyLt a b && !dyLt b a

/-- The integer nearest to `n / 2^k`, ties to even. -/
def shiftRNE (n k : Nat) : Nat :=
  let q := n >>> k
  let r := n - (q <<< k)
  let half := 2 ^ k
  if 2 * r > half then q + 1
  else if 2 * r = half then (if q % 2 = 1 then q + 1 else q)
  else q

/-- Magnitude `n · 2^e` rounded to nearest even on the grid of `p`-bit significands whose finest quantum is `2^emin`:
the pair `(m, q)` stands for `m · 2^q`, with `m ≤ 2^p` and `q ≥ emin`. -/
def roundMag (p : Nat) (emin : Int) (n : Nat) (e : Int) : Nat × Int :=
  let q := max emin (e + bitLen n - p)
  if q ≤ e then (n <<< (e - q).toNat, q) else (shiftRNE n (q - e).toNat, q)

/-- A rational `num / den` (with `den > 0`) as a magnitude with `p + 3` or more significant bits and a sticky last bit, so
that one `roundMag` of it is the rounding of the exact quotient for every grid of at most `p` bits. -/
def ratMag (p : Nat) (num den : Nat) : Nat × Int :=
  let k := p + 4 + bitLen den
  let q := (num <<< k) / den
  let r := (num <<< k) % den
  (2 * q + (if r = 0 then 0 else 1), -((k : Int) + 1))

/-- A lane value: the classes of IEEE 754 with the sign of zero kept. -/
inductive FVal where
  | nan
  | inf (neg : Bool)
  | fin (neg : Bool) (mag : Nat) (e : Int)
  deriving DecidableEq, Repr

/-- A binary interchange format with infinities and NaNs: `eb` exponent bits, `mb` fraction bits. -/
structure FFmt where
  eb : Nat
  mb : Nat
  deriving DecidableEq, Repr

/-- FP32 and BF16 lanes (03_cores.md, R67, R71). -/
def fp32Fmt : FFmt := ⟨8, 23⟩
def bf16Fmt : FFmt := ⟨8, 7⟩
/-- IEEE binary16 (04_cube_array.md). -/
def fp16Fmt : FFmt := ⟨5, 10⟩

/-- The exponent of the finest quantum of the format. -/
def fmtEmin (f : FFmt) : Int := 2 - 2 ^ (f.eb - 1) - f.mb

/-- The value that the format's bits stand for. -/
def fDecode (f : FFmt) (w : Nat) : FVal :=
  let m := w % 2 ^ f.mb
  let x := (w / 2 ^ f.mb) % 2 ^ f.eb
  let neg := (w / 2 ^ (f.mb + f.eb)) % 2 = 1
  if x = 2 ^ f.eb - 1 then (if m = 0 then .inf neg else .nan)
  else if x = 0 then .fin neg m (fmtEmin f)
  else .fin neg (m + 2 ^ f.mb) (fmtEmin f + x - 1)

/-- The bits of an infinity of the format, without its sign. -/
def fInfBits (f : FFmt) : Nat := (2 ^ f.eb - 1) * 2 ^ f.mb

/-- The canonical quiet NaN of the format (03_cores.md, R71). -/
def fNanBits (f : FFmt) : Nat := fInfBits f + 2 ^ (f.mb - 1)

def fSignBit (f : FFmt) (neg : Bool) : Nat := if neg then 2 ^ (f.mb + f.eb) else 0

/-- Rounds a signed magnitude once to the format, with overflow to an infinity (03_cores.md, R71). -/
def fRound (f : FFmt) (neg : Bool) (n : Nat) (e : Int) : Nat :=
  let (m, q) := roundMag (f.mb + 1) (fmtEmin f) n e
  let b := (q - fmtEmin f).toNat * 2 ^ f.mb + m
  fSignBit f neg + (if n = 0 then 0 else min b (fInfBits f))

/-- Encodes a lane value, rounding once. -/
def fEncode (f : FFmt) : FVal → Nat
  | .nan => fNanBits f
  | .inf neg => fSignBit f neg + fInfBits f
  | .fin neg n e => fRound f neg n e

/-- The exact value of a finite lane. -/
def fDy (neg : Bool) (n : Nat) (e : Int) : Dy := ⟨if neg then -(n : Int) else n, e⟩

/-- A signed exact value as a lane value; an exact zero takes the sign `zneg`. -/
def dyVal (zneg : Bool) (d : Dy) : FVal :=
  if d.n = 0 then .fin zneg 0 d.e else .fin (d.n < 0) d.n.natAbs d.e

def fNeg : FVal → FVal
  | .nan => .nan
  | .inf s => .inf !s
  | .fin s n e => .fin (!s) n e

/-- Exact sum, with the IEEE rules for infinities and for the sign of a zero sum (to nearest). -/
def fAdd : FVal → FVal → FVal
  | .nan, _ => .nan
  | _, .nan => .nan
  | .inf a, .inf b => if a = b then .inf a else .nan
  | .inf a, .fin .. => .inf a
  | .fin .., .inf b => .inf b
  | .fin s n e, .fin t m g =>
    if n = 0 ∧ m = 0 then .fin (s && t) 0 e else dyVal false (dyAdd (fDy s n e) (fDy t m g))

/-- Exact product, with the IEEE rules for infinities and zeros. -/
def fMul : FVal → FVal → FVal
  | .nan, _ => .nan
  | _, .nan => .nan
  | .inf a, .inf b => .inf (a != b)
  | .inf a, .fin t m _ => if m = 0 then .nan else .inf (a != t)
  | .fin s n _, .inf b => if n = 0 then .nan else .inf (s != b)
  | .fin s n e, .fin t m g => .fin (s != t) (n * m) (e + g)

/-- `a < b` in the order in which −0 is below +0; NaNs are not ordered. -/
def fLt : FVal → FVal → Bool
  | .nan, _ => false
  | _, .nan => false
  | .inf a, .inf b => a && !b
  | .inf a, .fin .. => a
  | .fin .., .inf b => !b
  | .fin s n e, .fin t m g =>
    if n = 0 ∧ m = 0 then s && !t else dyLt (fDy s n e) (fDy t m g)

/-- Maximum and minimum with the NaN rule of R71: lane A if it is a NaN, else lane B if it is one, both quieted. -/
def fMax (a b : FVal) : FVal := if fLt a b then b else a
def fMin (a b : FVal) : FVal := if fLt b a then b else a

/-- The integer nearest to `±n · 2^e`, ties to even. -/
def fToInt (neg : Bool) (n : Nat) (e : Int) : Int :=
  let m : Nat := if 0 ≤ e then n <<< e.toNat else shiftRNE n (-e).toNat
  if neg then -(m : Int) else m

/-- Clamps an integer to `[lo, hi]`. -/
def clampInt (lo hi x : Int) : Int := max lo (min hi x)

end Sys2Proof.Machine
end

