-- ==== Sys2Proof/Machine/CubeCalc.lean ====
section
/-!
DEFINITION. The arithmetic of a cube pass (04_cube_array.md, R82 to R100; 05_accumulation.md, R104 to R108): operand
formats, exact products placed on the anchor, X128 sums, and the residue checks.
-/

namespace Sys2Proof.Machine

/-! ### Operand formats (Tables 4.1 and 4.2) -/

/-- Width in bits of a FORMAT code; 0 for a code that is not used. -/
def fmtBits (f : Nat) : Nat :=
  if f = 0 then 8 else if f = 1 then 4 else if f = 2 then 8 else if f = 3 then 8 else if f = 4 then 6
  else if f = 5 then 6 else if f = 6 then 4 else if f = 7 then 16 else if f = 8 then 16 else 0

/-- Exponent and mantissa widths of a floating-point FORMAT code. -/
def fmtFloat (f : Nat) : FFmt :=
  if f = 2 then ⟨4, 3⟩ else if f = 3 then ⟨5, 2⟩ else if f = 4 then ⟨2, 3⟩ else if f = 5 then ⟨3, 2⟩
  else if f = 6 then ⟨2, 1⟩ else if f = 7 then bf16Fmt else fp16Fmt

def fmtIsInt (f : Nat) : Bool := f ≤ 1
def fmtIsNarrow (f : Nat) : Bool := 2 ≤ f && f ≤ 6

/-- The value of an element (Table 4.2). Negative zero decodes to zero. -/
def decodeEl (f : Nat) (x : Nat) : OpVal :=
  if f = 0 then .fin (BitVec.ofNat 8 x).toInt 0
  else if f = 1 then .fin (BitVec.ofNat 4 x).toInt 0
  else
    let q := fmtFloat f
    let m := x % 2 ^ q.mb
    let e := (x / 2 ^ q.mb) % 2 ^ q.eb
    let neg := (x / 2 ^ (q.mb + q.eb)) % 2 = 1
    if f = 2 ∧ e = 15 ∧ m = 7 then .nan
    else if (f = 3 ∨ 7 ≤ f) ∧ e = 2 ^ q.eb - 1 then (if m = 0 then .inf neg else .nan)
    else
      let n : Int := if e = 0 then m else m + 2 ^ q.mb
      .fin (if neg then -n else n) (fmtEmin q + (if e = 0 then 0 else e - 1))

/-- An element under its E8M0 scale byte (R86). -/
def scaleEl (f : Nat) (sc : Nat) (v : OpVal) : OpVal :=
  if sc = 255 then .nan
  else
    match v with
    | .fin n e => .fin n (e + sc - 127 - (if f = 0 then 6 else 0))
    | x => x

/-- Element n of a row of bytes (R85). -/
def rowEl (f : Nat) (row : Nat) (n : Nat) : Nat := (row >>> (n * fmtBits f)) % 2 ^ fmtBits f

/-- SCALED is allowed with the format (R86). -/
def scaledOk (f : Nat) : Bool := f = 0 || fmtIsNarrow f

/-- The allowed format pairs (Table 4.3). -/
def pairOk (a b : Nat) : Bool :=
  (fmtIsInt a && fmtIsInt b) || (fmtIsNarrow a && fmtIsNarrow b) || (a = 7 && b = 7) || (a = 8 && b = 8)

/-- kstep of a pair (Table 4.4): the wider operand sets it. -/
def kstep (a b : Nat) : Nat :=
  let w := max (fmtBits a) (fmtBits b)
  if w ≤ 6 then 16 else if w = 8 then 8 else 4

/-- The meter of a pair (Table 12.8). -/
def pairMeter (a b : Nat) : Nat :=
  if fmtIsInt a then (if a = 0 || b = 0 then 1 else 0)
  else if fmtIsNarrow a then (if max (fmtBits a) (fmtBits b) = 8 then 3 else 2)
  else if a = 7 then 4 else 5

/-- Least place q(F) for the default anchor (Table 5.2); none for BF16 and FP16. -/
def leastPlace (f : Nat) : Option Int :=
  if f ≤ 1 then some 0 else if fmtIsNarrow f then some (fmtEmin (fmtFloat f)) else none

/-! ### Tile descriptors (Table 3.6) -/

structure TileDesc where
  scaleBase : Nat
  scaled    : Bool
  k         : Nat
  fmt       : Nat
  rows      : Nat
  stride    : Nat
  base      : Nat
  rsv       : Bool
  deriving DecidableEq, Repr

/-- Reads a descriptor; `rows` is the ROWS field, rows − 1; `rsv` says that a reserved field is not zero. -/
def tileDesc (t : TReg) : TileDesc where
  scaleBase := (t.extractLsb' 105 23).toNat
  scaled := t.getLsbD 104
  k := (t.extractLsb' 64 20).toNat
  fmt := (t.extractLsb' 60 4).toNat
  rows := (t.extractLsb' 54 6).toNat
  stride := (t.extractLsb' 32 16).toNat
  base := (t.extractLsb' 0 23).toNat
  rsv := t.extractLsb' 84 20 != 0 || t.extractLsb' 48 6 != 0 || t.extractLsb' 23 9 != 0

def tdRowBytes (d : TileDesc) : Nat := d.k * fmtBits d.fmt / 8
def tdPitch (d : TileDesc) : Nat := if d.stride = 0 then tdRowBytes d else d.stride
/-- Offset and length of each row, then of the scales where SCALED is set. -/
def tdRanges (d : TileDesc) : List (Nat × Nat) :=
  (List.range (d.rows + 1)).map (fun r => (d.base + r * tdPitch d, tdRowBytes d)) ++
  (if d.scaled then [(d.scaleBase, (d.rows + 1) * (d.k / 32))] else [])

/-- Faults of a descriptor by itself (R68). -/
def tdIllegal (d : TileDesc) : Bool := d.rsv || fmtBits d.fmt = 0 || d.k < 32 || d.k % 32 != 0
def tdAlign (d : TileDesc) : Bool := d.base % 64 != 0 || d.stride % 64 != 0 || (d.scaled && d.scaleBase % 64 != 0)
def tdRange (d : TileDesc) : Bool :=
  0x600000 < d.base + d.rows * tdPitch d + tdRowBytes d || (d.scaled && 0x600000 < d.scaleBase + (d.rows + 1) * (d.k / 32))

/-! ### Products on the anchor (R105 to R107) -/

/-- The combine rule of Table 5.1. -/
def clsCombine : XCls → XCls → XCls
  | .finite, b => b
  | a, .finite => a
  | .posInf, .posInf => .posInf
  | .negInf, .negInf => .negInf
  | _, _ => .nan

/-- The class of a product (R106), and the exact product where it is finite. -/
def prodOf (a b : OpVal) : XCls × Int × Int :=
  match a, b with
  | .nan, _ => (.nan, 0, 0)
  | _, .nan => (.nan, 0, 0)
  | .fin n e, .fin m g => (.finite, n * m, e + g)
  | .fin n _, .inf s => if n = 0 then (.nan, 0, 0) else (if (n < 0) = s then .posInf else .negInf, 0, 0)
  | .inf s, .fin n _ => if n = 0 then (.nan, 0, 0) else (if (n < 0) = s then .posInf else .negInf, 0, 0)
  | .inf s, .inf t => (if s = t then .posInf else .negInf, 0, 0)

def xMax : Int := 2 ^ 127 - 1
def xMin : Int := -(2 ^ 127)

/-- A clamped value and whether the clamp applied. -/
def xClamp (v : Int) : Int × Bool := (clampInt xMin xMax v, decide (xMax < v) || decide (v < xMin))

/-- The residue of n × 2^e modulo 4095 (R95). -/
def res (n e : Int) : Nat := ((n % 4095) * 2 ^ (e % 12).toNat % 4095).toNat

/-- Places one product p × 2^e on the grid of 2^A (R106). -/
def placeOne (anchor : Int) (acc : PlaceSum) (a b : OpVal) : PlaceSum :=
  let (c, p, e) := prodOf a b
  match c with
  | .finite =>
    let q0 : Int := if anchor ≤ e then p * 2 ^ (e - anchor).toNat else Int.fdiv p (2 ^ (anchor - e).toNat)
    let rest : Int := if anchor ≤ e then 0 else p - q0 * 2 ^ (anchor - e).toNat
    let (q, o) := xClamp q0
    { sum := acc.sum + q, cls := acc.cls, dropped := acc.dropped || rest != 0, sat := acc.sat || o,
      dropRes := (acc.dropRes + res rest e) % 4095 }
  | _ => { acc with cls := clsCombine acc.cls c }

/-- Σ over k of the placed products of two operand rows. -/
def placeRow (anchor : Int) : List OpVal → List OpVal → PlaceSum → PlaceSum
  | a :: as, b :: bs, acc => placeRow anchor as bs (placeOne anchor acc a b)
  | _, _, acc => acc

def placeZero : PlaceSum := ⟨0, .finite, false, false, 0⟩

def xelZero : XEl := ⟨0, .finite⟩
def xelVal (x : XEl) : Int := x.n.toInt

/-- One output element of a pass (R107): the element after it, and what its placement left; `extra` is a disturbance of
the data cube in units of the anchor, 0 without a fault. -/
def passEl (anchor : Int) (old : XEl) (a b : List OpVal) (extra : Int) : XEl × PlaceSum :=
  let p := placeRow anchor a b placeZero
  let (v, o) := xClamp (xelVal old + p.sum + extra)
  (⟨BitVec.ofInt 128 v, clsCombine old.cls p.cls⟩, { p with sat := p.sat || o })

/-! ### Checksums (R95 to R100) -/

def opRes : OpVal → Nat
  | .fin n e => res n e
  | _ => 0

/-- Row `8i + r` of a list of operand rows; rows beyond the tile enter as zero (R83). -/
def opRow (v : List (List OpVal)) (m : Nat) : List Nat := (v.getD m []).map opRes

def addRes : List Nat → List Nat → List Nat
  | a :: as, b :: bs => (a + b) % 4095 :: addRes as bs
  | [], bs => bs
  | as, [] => as

def dotRes : List Nat → List Nat → Nat
  | a :: as, b :: bs => (a * b + dotRes as bs) % 4095
  | _, _ => 0

/-- rA[r] and rB[c]: the residue rows that enter the checksum row and column. -/
def sumRows (v : List (List OpVal)) (r : Nat) : List Nat := (List.range 8).foldl (fun acc i => addRes acc (opRow v (8 * i + r))) []

/-- The disturbance of a cube at a position, as a residue change or a count of anchor units. -/
def upsetAt (us : List CubeUpset) (row col r c : Nat) : Int :=
  ((us.filter (fun u => u.row.val = row && u.col.val = col && u.r.val = r && u.c.val = c)).map (fun u => u.amt)).foldl (· + ·) 0

def modRes (x : Nat) (d : Int) : Nat := ((x + d) % 4095).toNat

/-- The outcome of the comparisons at one position (r, c): failing row checks, failing column checks, K1 and K2 (R97). -/
structure CheckFail where
  rows : List Nat
  cols : List Nat
  k1   : Bool
  k2   : Bool
  deriving DecidableEq, Repr

/-- The comparisons at (r, c). `pres i j` is the pass residue P of element (8i + r, 8j + c). -/
def checkAt (a b : List (List OpVal)) (us : List CubeUpset) (pres : Nat → Nat → Nat) (r c : Nat) : CheckFail :=
  let ra := sumRows a r
  let rb := sumRows b c
  let cr := (List.range 8).map (fun j => modRes (dotRes ra (opRow b (8 * j + c))) (upsetAt us 8 j r c))
  let cc := (List.range 8).map (fun i => modRes (dotRes (opRow a (8 * i + r)) rb) (upsetAt us i 8 r c))
  let x := modRes (dotRes ra rb) (upsetAt us 8 8 r c)
  { rows := (List.range 8).filter (fun j => cr.getD j 0 != (List.range 8).foldl (fun t i => (t + pres i j) % 4095) 0)
    cols := (List.range 8).filter (fun i => cc.getD i 0 != (List.range 8).foldl (fun t j => (t + pres i j) % 4095) 0)
    k1 := x != cr.foldl (fun t y => (t + y) % 4095) 0
    k2 := x != cc.foldl (fun t y => (t + y) % 4095) 0 }

def joinFail (a b : CheckFail) : CheckFail :=
  ⟨a.rows ++ b.rows.filter (fun x => !a.rows.contains x), a.cols ++ b.cols.filter (fun x => !a.cols.contains x), a.k1 || b.k1, a.k2 || b.k2⟩

/-- Of the cubes that reported a parity error, the one in the lowest logical row, and within that row the lowest logical column
(R100). -/
def firstReport : List (Fin 9 × Fin 9) → Option (Fin 9 × Fin 9)
  | [] => none
  | x :: xs =>
    match firstReport xs with
    | none => some x
    | some y => if x.1 < y.1 || (x.1 = y.1 && x.2 ≤ y.2) then some x else some y

/-- Table 4.6: KIND, ROW and COL of a failure; KIND 0 when nothing failed. A parity report takes precedence (R100). -/
def failDecode (f : CheckFail) (parity : List (Fin 9 × Fin 9)) : Nat × Nat × Nat :=
  match firstReport parity with
  | some (i, j) => (6, i.val, j.val)
  | none =>
    match f.rows, f.cols, f.k1, f.k2 with
    | [], [], false, false => (0, 0, 0)
    | [j], [i], false, false => (1, i, j)
    | [j], [], true, false => (2, 8, j)
    | [], [i], false, true => (3, i, 8)
    | [], [], true, true => (4, 8, 8)
    | _, _, _, _ => (5, 0, 0)

/-- The elements of a tile after a pass, and for each the placement it left; `none` for an element the pass does not
touch. -/
def passTile (p : Pass) (anchor : Int) (t : AccTile) (us : List CubeUpset) : List (XEl × Option PlaceSum) :=
  (List.range 4096).map (fun i =>
    let m := i / 64
    let n := i % 64
    let old := t.els.getD i xelZero
    if m < p.rowsA ∧ n < p.rowsB then
      let r := passEl anchor old (p.aVals.getD m []) (p.bVals.getD n []) (upsetAt us (m / 8) (n / 8) (m % 8) (n % 8))
      (r.1, some r.2)
    else (old, none))

/-- The pass residue P of an element (R96). -/
def passRes (anchor : Int) (old new : XEl) (q : Option PlaceSum) : Nat :=
  match q with
  | none => 0
  | some s => ((res (xelVal new) anchor : Int) - res (xelVal old) anchor + s.dropRes).emod 4095 |>.toNat

/-- All 1,152 comparisons of a pass. -/
def passChecks (p : Pass) (anchor : Int) (t : AccTile) (out : List (XEl × Option PlaceSum)) (us : List CubeUpset) : CheckFail :=
  (List.range 64).foldl (fun acc rc =>
    joinFail acc (checkAt p.aVals p.bVals us (fun i j =>
      let n := (8 * i + rc / 8) * 64 + 8 * j + rc % 8
      let o := out.getD n (xelZero, none)
      passRes anchor (t.els.getD n xelZero) o.1 o.2) (rc / 8) (rc % 8))) ⟨[], [], false, false⟩

/-- A pass reads a non-finite element (R87). -/
def passNonFinite (p : Pass) : Bool :=
  (p.aVals ++ p.bVals).any (fun r => r.any (fun v => match v with | .fin .. => false | _ => true))

end Sys2Proof.Machine
end

