-- ==== Sys2Proof/Machine/AttnBlock.lean ====
section
/-!
DEFINITION. Fields of the 64-byte command blocks, and the block of ATTN (09_attention.md, R206 to R211, R217, R218).
-/

namespace Sys2Proof.Machine

/-- A field of a command block: `n` bytes at an offset. -/
def blkField (b : List Byte) (off n : Nat) : Nat := leNat ((b.drop off).take n)
def blkSigned16 (b : List Byte) (off : Nat) : Int := (BitVec.ofNat 16 (blkField b off 2)).toInt

/-! ### The command block (Table 9.1) -/

def atMode (b : List Byte) : Nat := blkField b 0 1
def atThin (b : List Byte) : Bool := (b.getD 1 0).getLsbD 0
def atNoCheck (b : List Byte) : Bool := (b.getD 1 0).getLsbD 1
def atMask (b : List Byte) : Nat := (blkField b 1 1 / 4) % 4
def atPBf16 (b : List Byte) : Bool := (b.getD 1 0).getLsbD 4
def atKFmt (b : List Byte) : Nat := blkField b 2 1 / 16
def atQFmt (b : List Byte) : Nat := blkField b 2 1 % 16
def atOutFmt (b : List Byte) : Nat := blkField b 3 1
def atAccO (b : List Byte) : Nat := blkField b 4 1 % 8
def atAccS (b : List Byte) : Nat := (blkField b 4 1 / 8) % 8
def atD128 (b : List Byte) : Bool := (b.getD 5 0).getLsbD 7
def atM (b : List Byte) : Nat := blkField b 5 1 % 64 + 1
def atWork (b : List Byte) : Nat := blkField b 6 1
def atTable (b : List Byte) : Nat := blkField b 7 1
def atScale (b : List Byte) : Nat := blkField b 16 4
def atQOff (b : List Byte) : Nat := blkField b 20 4
def atOutOff (b : List Byte) : Nat := blkField b 24 4
def atListOff (b : List Byte) : Nat := blkField b 28 4
def atListLen (b : List Byte) : Nat := blkField b 32 4
def atKeys (b : List Byte) : Nat := blkField b 36 4
def atFirst (b : List Byte) : Nat := blkField b 40 4
def atQPos (b : List Byte) : Nat := blkField b 44 4
def atWindow (b : List Byte) : Nat := blkField b 48 4
def atPrefix (b : List Byte) : Nat := blkField b 52 4

/-- Head dimension, probability format, row size B and keys per page P (Tables 9.1 and 9.4). -/
def atD (b : List Byte) : Nat := if atD128 b then 128 else 64
def atPFmt (b : List Byte) : Nat := if atPBf16 b then 7 else 2
def atB (b : List Byte) : Nat := atD b * fmtBits (atKFmt b) / 8
def atP (b : List Byte) : Nat := if atB b = 0 then 1 else 16384 / atB b
def atMerge (b : List Byte) : Bool := atMode b = 2 || atMode b = 3
def atPartial (b : List Byte) : Bool := atMode b = 1 || atMode b = 3

/-- The output tiles. -/
def atOutTiles (b : List Byte) : List Nat := if atD128 b then [atAccO b, atAccO b + 1] else [atAccO b]
/-- Every tile that the command uses: the merge modes use no score tile. -/
def atTiles (b : List Byte) : List Nat := if atMerge b then atOutTiles b else atOutTiles b ++ [atAccS b]

/-- The sum of the least places of two formats (Table 9.3), where both have one. -/
def atDefault (f g : Nat) : Option Int :=
  match leastPlace f, leastPlace g with
  | some x, some y => some (x + y)
  | _, _ => none

/-- Default anchors (Table 9.3). -/
def atDefS (b : List Byte) : Option Int := atDefault (atQFmt b) (atKFmt b)
def atDefO (b : List Byte) : Option Int := atDefault (atPFmt b) (atKFmt b)
def atDefL (b : List Byte) : Option Int := leastPlace (atPFmt b)

/-- An anchor field with its default. -/
def atAnchor (v : Int) (d : Option Int) : Option Int := if v = -512 then d else if -511 ≤ v ∧ v ≤ 511 then some v else none
def atAS (b : List Byte) : Option Int := atAnchor (blkSigned16 b 8) (atDefS b)
def atAO (b : List Byte) : Option Int := atAnchor (blkSigned16 b 10) (atDefO b)
def atAL (b : List Byte) : Option Int := atAnchor (blkSigned16 b 12) (atDefL b)

/-- The combinations of Table 9.3. -/
def atFmtsOk (b : List Byte) : Bool :=
  let k := atKFmt b
  let q := atQFmt b
  ((k = 2 || k = 3) && (q = 2 || q = 3) && !atPBf16 b) || (k = 7 && q = 7 && atPBf16 b)

/-- Bytes of a partial record (R217), of the output, and of the query rows. -/
def atRecBytes (b : List Byte) : Nat := 4096 + 1024 * atD b
def atOutBytes (b : List Byte) : Nat := if atPartial b then atRecBytes b else atM b * atD b * fmtBits (atOutFmt b) / 8
def atQBytes (b : List Byte) : Nat := atM b * atD b * fmtBits (atQFmt b) / 8

/-- Bytes of the partial record at an offset, by its own SHAPE byte (R218). -/
def recBytesAt (m : Mem) (off : Nat) : Nat := 4096 + 1024 * (if (memRead m off).getLsbD 7 then 128 else 64)

/-- Operand-buffer ranges that the command reads or writes, where `m` is what stands in the operand buffer. -/
def atRanges (m : Mem) (b : List Byte) : List (Nat × Nat) :=
  (atOutOff b, atOutBytes b) ::
  (if atMerge b then [(atFirst b, recBytesAt m (atFirst b)), (atQPos b, recBytesAt m (atQPos b))]
   else [(atQOff b, atQBytes b), (atListOff b, 8 * atListLen b)])

/-- The SHAPE bytes of the records of a merge that lie in the operand buffer. -/
def atShapes (b : List Byte) : List (Nat × Nat) :=
  if atMerge b then [(atFirst b, 1), (atQPos b, 1)].filter (fun r => r.1 < 0x600000) else []

end Sys2Proof.Machine
end

