-- ==== Sys2Proof/Machine/Activation.lean ====
section
/-!
DEFINITION. The default activation tables (05_accumulation.md, R122): the functions of Table 5.7 in fixed point with 640
fraction bits, correctly rounded to binary64, and the three coefficients of each segment by the rule of R122.
DEDUCED (log 22): an error below 2^-500 in the value decides no rounding of these functions at these points.
-/

namespace Sys2Proof.Machine

/-- Fraction bits. -/
def fxBits : Nat := 640
def fxOne : Int := 2 ^ fxBits
def fxMul (a b : Int) : Int := Int.fdiv (a * b) fxOne
def fxDiv (a b : Int) : Int := Int.fdiv (a * fxOne) b

/-- Σ of a series whose terms come from a step on (term, index); stops after `fuel` terms. -/
def fxSeries (step : Int → Nat → Int) : Nat → Nat → Int → Int → Int
  | 0, _, _, acc => acc
  | fuel + 1, i, t, acc => if t = 0 then acc else fxSeries step fuel (i + 1) (step t i) (acc + t)

/-- atanh z for |z| ≤ 1/3: Σ z^(2i+1) / (2i + 1). -/
def fxAtanh (z : Int) : Int :=
  let z2 := fxMul z z
  let rec go : Nat → Nat → Int → Int → Int
    | 0, _, _, acc => acc
    | f + 1, i, p, acc => if p = 0 then acc else go f (i + 1) (fxMul p z2) (acc + Int.fdiv p (2 * i + 1))
  go 400 0 z 0

/-- atan (1/n). -/
def fxAtanInv (n : Nat) : Int :=
  let rec go : Nat → Nat → Int → Int → Int
    | 0, _, _, acc => acc
    | f + 1, i, p, acc =>
      if p = 0 then acc
      else go f (i + 1) (Int.fdiv p (n * n)) (if i % 2 = 0 then acc + Int.fdiv p (2 * i + 1) else acc - Int.fdiv p (2 * i + 1))
  go 400 0 (Int.fdiv fxOne n) 0

def fxPi : Int := 16 * fxAtanInv 5 - 4 * fxAtanInv 239
def fxLn2 : Int := 2 * fxAtanh (Int.fdiv fxOne 3)

/-- Square root of a natural number, bit by bit from bit `b` down. -/
def isqrtBits (n : Nat) : Nat → Nat → Nat
  | 0, r => r
  | b + 1, r => let c := r + 2 ^ b; isqrtBits n b (if c * c ≤ n then c else r)

def fxSqrt (x : Int) : Int := isqrtBits (x.toNat * 2 ^ fxBits) (fxBits + 8) 0

/-- e^x. -/
def fxExp (x : Int) : Int :=
  let k := Int.fdiv x fxLn2
  let r := x - k * fxLn2
  let e := fxSeries (fun t i => Int.fdiv (fxMul t r) (i + 1)) 400 0 fxOne 0
  if 0 ≤ k then e * 2 ^ k.toNat else Int.fdiv e (2 ^ (-k).toNat)

/-- ln y for y ≥ 1. -/
def fxLn (y : Int) : Int :=
  let k := bitLen y.toNat - (fxBits + 1)
  let m := Int.fdiv y (2 ^ k)
  k * fxLn2 + 2 * fxAtanh (fxDiv (m - fxOne) (m + fxOne))

/-- erf z. -/
def fxErf (z : Int) : Int :=
  let z2 := fxMul z z
  let rec go : Nat → Nat → Int → Int → Int
    | 0, _, _, acc => acc
    | f + 1, i, p, acc => if p = 0 then acc else go f (i + 1) (-(Int.fdiv (fxMul p z2) (i + 1))) (acc + Int.fdiv p (2 * i + 1))
  fxDiv (2 * go 700 0 z 0) (fxSqrt fxPi)

def fxTanh (x : Int) : Int := let e := fxExp (2 * x); fxDiv (e - fxOne) (e + fxOne)

/-- The functions 0x03 to 0x09 of Table 5.7. -/
def fxFunc (f : Nat) (x : Int) : Int :=
  if f = 3 then
    let a := fxMul (fxSqrt (fxDiv (2 * fxOne) fxPi)) (x + Int.fdiv (44715 * fxMul x (fxMul x x)) 1000000)
    Int.fdiv (fxMul x (fxOne + fxTanh a)) 2
  else if f = 4 then Int.fdiv (fxMul x (fxOne + fxErf (fxDiv x (fxSqrt (2 * fxOne))))) 2
  else if f = 5 then fxDiv x (fxOne + fxExp (-x))
  else if f = 6 then fxDiv fxOne (fxOne + fxExp (-x))
  else if f = 7 then fxTanh x
  else if f = 8 then fxLn (fxOne + fxExp x)
  else fxExp (fxMul x fxLn2)

/-- log2 of the range R of a function (Table 5.7): 8 or 16. -/
def tableLogR (f : Nat) : Nat := if f = 5 ∨ f = 6 ∨ f = 8 then 4 else 3

/-- Exponent of the segment width w (R122). -/
def tableLogW (f : Nat) : Int := if f = 9 then -8 else (tableLogR f : Int) - 7

/-- The function at `x_i + j · w / 2`, correctly rounded to binary64. -/
def tableY (f i j : Nat) : Dy :=
  let x : Int :=
    if f = 9 then (2 * i + j : Int) * 2 ^ (fxBits - 9)
    else -(2 ^ (tableLogR f) * fxOne) + (2 * i + j : Int) * 2 ^ (fxBits + tableLogR f - 8)
  let y := fxFunc f x
  let (m, q) := roundMag 53 (-1074) y.natAbs (-(fxBits : Int))
  ⟨if y < 0 then -(m : Int) else m, q⟩

def dyToFp32 (d : Dy) : Nat := fRound fp32Fmt (d.n < 0) d.n.natAbs d.e

def dyScale (c : Int) (d : Dy) : Dy := ⟨c * d.n, d.e⟩

/-- The coefficients c0, c1 and c2 of segment i of a default table (R122). -/
def defaultCoeff (f i : Nat) : Nat × Nat × Nat :=
  let y0 := tableY f i 0
  let y1 := tableY f i 1
  let y2 := tableY f i 2
  let w := tableLogW f
  let c1 := dyAdd (dyAdd (dyScale (-3) y0) (dyScale 4 y1)) (dyScale (-1) y2)
  let c2 := dyScale 2 (dyAdd (dyAdd y0 (dyScale (-2) y1)) y2)
  (dyToFp32 y0, dyToFp32 ⟨c1.n, c1.e - w⟩, dyToFp32 ⟨c2.n, c2.e - 2 * w⟩)

end Sys2Proof.Machine
end

