-- ==== Sys2Proof/Machine/Lanes.lean ====
section
/-!
DEFINITION. Lane arithmetic of the vector unit (03_cores.md, R67, R71), which the reduction nodes, the collective engines
and the epilogue share.
-/

namespace Sys2Proof.Machine

/-- Lane types (MOD[1:0] of a vector instruction). -/
inductive Lane where
  | fp32 | bf16 | int32
  deriving DecidableEq, Repr

def laneOf (m : Nat) : Option Lane :=
  if m = 0 then some .fp32 else if m = 1 then some .bf16 else if m = 2 then some .int32 else none

def laneBits : Lane → Nat
  | .bf16 => 16
  | _ => 32

def laneCount (l : Lane) : Nat := 8192 / laneBits l

def laneFmt : Lane → FFmt
  | .bf16 => bf16Fmt
  | _ => fp32Fmt

/-- The lanes of a register, lane 0 first. -/
def unpackLanes (l : Lane) (v : Nat) : List Nat :=
  (List.range (laneCount l)).map (fun n => (v >>> (n * laneBits l)) % 2 ^ laneBits l)

/-- Packs lanes of `w` bits, lane 0 lowest. -/
def packLanes (w : Nat) : List Nat → Nat
  | [] => 0
  | x :: xs => x % 2 ^ w + 2 ^ w * packLanes w xs

/-- A lane is a NaN. -/
def laneNaN (f : FFmt) (x : Nat) : Bool := fInfBits f < x % 2 ^ (f.eb + f.mb)
/-- A NaN with its quiet bit set. -/
def laneQuiet (f : FFmt) (x : Nat) : Nat := x ||| 2 ^ (f.mb - 1)

/-- The signed value of a 32-bit lane. -/
def sint32 (x : Nat) : Int := (BitVec.ofNat 32 x).toInt

def laneAdd (l : Lane) (a b : Nat) : Nat :=
  match l with
  | .int32 => (a + b) % 2 ^ 32
  | _ => fEncode (laneFmt l) (fAdd (fDecode (laneFmt l) a) (fDecode (laneFmt l) b))

def laneSub (l : Lane) (a b : Nat) : Nat :=
  match l with
  | .int32 => (a + (2 ^ 32 - b)) % 2 ^ 32
  | _ => fEncode (laneFmt l) (fAdd (fDecode (laneFmt l) a) (fNeg (fDecode (laneFmt l) b)))

def laneMul (l : Lane) (a b : Nat) : Nat :=
  match l with
  | .int32 => (a * b) % 2 ^ 32
  | _ => fEncode (laneFmt l) (fMul (fDecode (laneFmt l) a) (fDecode (laneFmt l) b))

/-- v[A] × v[B] + v[C], rounded once. -/
def laneFma (l : Lane) (a b c : Nat) : Nat :=
  let f := laneFmt l
  fEncode f (fAdd (fMul (fDecode f a) (fDecode f b)) (fDecode f c))

/-- Maximum or minimum under the NaN rule: lane A quieted if it is a NaN, else lane B quieted if it is one. -/
def laneSel (l : Lane) (wantMax : Bool) (a b : Nat) : Nat :=
  match l with
  | .int32 => if wantMax then (if sint32 a < sint32 b then b else a) else (if sint32 b < sint32 a then b else a)
  | _ =>
    let f := laneFmt l
    if laneNaN f a then laneQuiet f a
    else if laneNaN f b then laneQuiet f b
    else
      let x := fDecode f a
      let y := fDecode f b
      if wantMax then (if fLt x y then b else a) else (if fLt y x then b else a)

/-- The exact value of an INT32 lane. -/
def intVal (x : Nat) : FVal := let n := sint32 x; .fin (n < 0) n.natAbs 0

/-- Saturating conversion of a lane value to INT32: nearest even, a NaN gives 0. -/
def toInt32 : FVal → Nat
  | .nan => 0
  | .inf true => 0x80000000
  | .inf false => 0x7FFFFFFF
  | .fin s n e => (BitVec.ofInt 32 (clampInt (-(2 ^ 31)) (2 ^ 31 - 1) (fToInt s n e))).toNat

/-- Conversion of one lane between types (R71). -/
def laneCvt (src dst : Lane) (x : Nat) : Nat :=
  if src = dst then x
  else
    match dst with
    | .int32 => toInt32 (fDecode (laneFmt src) x)
    | _ => fEncode (laneFmt dst) (match src with | .int32 => intVal x | _ => fDecode (laneFmt src) x)

/-- One level of the fixed tree: element i of the next level combines elements 2i and 2i + 1. -/
def treeLevel (op : Nat → Nat → Nat) : List Nat → List Nat
  | a :: b :: r => op a b :: treeLevel op r
  | l => l

/-- The fixed tree over `2^levels` lanes. -/
def treeFold (op : Nat → Nat → Nat) : Nat → List Nat → Nat
  | 0, l => l.headD 0
  | n + 1, l => treeFold op n (treeLevel op l)

def treeLevels : Lane → Nat
  | .bf16 => 9
  | _ => 8

end Sys2Proof.Machine
end

