-- ==== Sys2Proof/Machine/EpiCalc.lean ====
section
/-!
DEFINITION. The arithmetic of the output path (05_accumulation.md, R118 to R126), which the epilogue and ATTN share.
-/

namespace Sys2Proof.Machine

/-! ### Stage 1 (R118) -/

/-- One rounding of n × 2^A to FP32. -/
def intToFp32 (n : Int) (e : Int) : Nat := if n = 0 then 0 else fRound fp32Fmt (n < 0) n.natAbs e

def x128ToFp32 (anchor : Option Int) (x : XEl) : Nat :=
  match anchor with
  | none => 0
  | some a =>
    match x.cls with
    | .finite => intToFp32 (xelVal x) a
    | .nan => 0x7FC00000
    | .posInf => 0x7F800000
    | .negInf => 0xFF800000

/-! ### Stages 2 and 3 (R119) -/

def f32Mul (a b : Nat) : Nat := laneMul .fp32 a b
def f32Add (a b : Nat) : Nat := laneAdd .fp32 a b

/-! ### Stage 4 (R120, R121) -/

/-- The coefficients of a function's segment: FP32 bits c0, c1, c2. -/
abbrev Coeffs := Nat → Nat × Nat × Nat

/-- The coefficients of an EPI_TABLE record (R122). -/
def recordCoeffs (l : List W32) : Coeffs := fun i =>
  ((l.getD (3 * i) 0).toNat, (l.getD (3 * i + 1) 0).toNat, (l.getD (3 * i + 2) 0).toNat)

def f32Dy (x : Nat) : Option Dy :=
  match fDecode fp32Fmt x with
  | .fin s n e => some (fDy s n e)
  | _ => none

/-- RN32(2^k × (c0 + c1 t + c2 t²)), evaluated exactly; the canonical NaN where a coefficient is not finite. -/
def polyF32 (c : Nat × Nat × Nat) (t : Dy) (k : Int) : Nat :=
  match f32Dy c.1, f32Dy c.2.1, f32Dy c.2.2 with
  | some c0, some c1, some c2 =>
    let p := dyAdd c0 (dyAdd (dyMul c1 t) (dyMul c2 (dyMul t t)))
    if p.n = 0 then 0 else fRound fp32Fmt (p.n < 0) p.n.natAbs (p.e + k)
  | _, _, _ => 0x7FC00000

/-- floor of an exact value. -/
def dyFloor (d : Dy) : Int := if 0 ≤ d.e then d.n * 2 ^ d.e.toNat else Int.fdiv d.n (2 ^ (-d.e).toNat)

/-- The value below −R and the value at or above R of a table function (Table 5.7). -/
def tailLow (f : Nat) : Nat := if f = 7 then 0xBF800000 else 0
def tailHigh (f : Nat) (x : Nat) : Nat := if f = 6 ∨ f = 7 then 0x3F800000 else x

/-- A table function of Table 5.7 other than exp2, at a finite value. -/
def tableFunc (f : Nat) (cs : Coeffs) (x : Nat) (d : Dy) : Nat :=
  let r : Int := 2 ^ tableLogR f
  if dyLt d ⟨-r, 0⟩ then tailLow f
  else if !dyLt d ⟨r, 0⟩ then tailHigh f x
  else
    let s := dyAdd d ⟨r, 0⟩
    let i := dyFloor ⟨s.n, s.e + 7 - tableLogR f⟩
    polyF32 (cs i.toNat) (dyAdd s ⟨-i, tableLogR f - 7⟩) 0

/-- exp2 at a finite value. -/
def exp2Func (cs : Coeffs) (d : Dy) : Nat :=
  if !dyLt d ⟨128, 0⟩ then 0x7F800000
  else if dyLt d ⟨-150, 0⟩ then 0
  else
    let k := dyFloor d
    let f := dyAdd d ⟨-k, 0⟩
    let i := dyFloor ⟨f.n, f.e + 8⟩
    polyF32 (cs i.toNat) (dyAdd f ⟨-i, -8⟩) k

/-- x3 := f(x2). -/
def activate (f : Nat) (alpha : Nat) (cs : Coeffs) (x : Nat) : Nat :=
  match fDecode fp32Fmt x with
  | .nan => 0x7FC00000
  | .inf neg =>
    if f = 0 then x
    else if f = 1 then (if neg then 0 else x)
    else if f = 2 then (if neg then f32Mul alpha x else x)
    else if f = 9 then (if neg then 0 else 0x7F800000)
    else if neg then tailLow f else tailHigh f x
  | .fin neg n e =>
    if f = 0 then x
    else if f = 1 then (if neg ∨ n = 0 then 0 else x)
    else if f = 2 then (if neg ∧ n ≠ 0 then f32Mul alpha x else x)
    else if f = 9 then exp2Func cs (fDy neg n e)
    else tableFunc f cs x (fDy neg n e)

/-! ### Stage 5 (R123, R124) -/

/-- The format has infinities and NaNs in the IEEE places: E5M2, BF16, FP16. -/
def fmtIeee (f : Nat) : Bool := f = 3 || f = 7 || f = 8

/-- The code of the largest finite magnitude of a floating-point FORMAT. -/
def fmtMaxCode (f : Nat) : Nat :=
  let q := fmtFloat f
  if f = 2 then 126 else if fmtIeee f then fInfBits q - 1 else 2 ^ (q.eb + q.mb) - 1

/-- The canonical NaN of the formats that have one. -/
def fmtNan (f : Nat) : Option Nat :=
  if f = 7 then some 0x7FC0 else if f = 8 then some 0x7E00 else if f = 3 then some 0x7E else if f = 2 then some 0x7F else none

/-- The exponent of the quantum of a code. -/
def codeQuantum (q : FFmt) (code : Nat) : Int := fmtEmin q + ((max (code / 2 ^ q.mb) 1 : Nat) : Int) - 1

/-- The magnitude of a code. -/
def codeMag (q : FFmt) (code : Nat) : Dy :=
  if code / 2 ^ q.mb = 0 then ⟨code, fmtEmin q⟩ else ⟨code % 2 ^ q.mb + 2 ^ q.mb, codeQuantum q code⟩

/-- `r < fr × 2^32`, exactly, for 0 ≤ fr. -/
def drawBelow (r : Nat) (fr : Dy) : Bool := dyLt ⟨r, -32⟩ fr

/-- The result of a conversion: the bits, and whether it saturated or lost a NaN. -/
structure Conv where
  bits : Nat
  sat  : Bool
  lost : Bool
  deriving DecidableEq, Repr

/-- The code nearest to a magnitude on the format's grid continued past its largest value, ties to even. -/
def nearCode (q : FFmt) (n : Nat) (e : Int) : Nat :=
  let (m, x) := roundMag (q.mb + 1) (fmtEmin q) n e
  if n = 0 then 0 else (x - fmtEmin q).toNat * 2 ^ q.mb + m

/-- Converts a finite value to a floating-point FORMAT; `mx` is the saturating conversion of R126. -/
def convFloat (f : Nat) (mx : Bool) (rnd : Option Nat) (neg : Bool) (n : Nat) (e : Int) : Conv :=
  let q := fmtFloat f
  let sign := fSignBit q neg
  let top := fmtMaxCode f
  let near := nearCode q n e
  let past := dyLt (codeMag q top) ⟨n, e⟩
  match rnd with
  | some r =>
    if past then
      (if near ≤ top then ⟨sign + near, false, false⟩
       else if fmtIeee f && !mx then ⟨sign + fInfBits q, false, false⟩ else ⟨sign + top, true, false⟩)
    else
      -- the code whose magnitude is nearest below: the rounded code, or the one before it
      let lo := if dyLt ⟨n, e⟩ (codeMag q near) then near - 1 else near
      let rest := dyAdd ⟨n, e⟩ (dyNeg (codeMag q lo))
      if rest.n = 0 then ⟨sign + lo, false, false⟩
      else
        let fr : Dy := ⟨rest.n, rest.e - codeQuantum q lo⟩
        let up := if neg then !drawBelow r (dyAdd ⟨1, 0⟩ (dyNeg fr)) else drawBelow r fr
        ⟨sign + (if up then lo + 1 else lo), false, false⟩
  | none =>
    if near ≤ top then ⟨sign + near, false, false⟩
    else if fmtIeee f && !mx then ⟨sign + fInfBits q, false, false⟩ else ⟨sign + top, true, false⟩

/-- Converts a finite value to INT8. -/
def convInt8 (rnd : Option Nat) (d : Dy) : Conv :=
  let fl := dyFloor d
  let rest := dyAdd d ⟨-fl, 0⟩
  let near : Int := fToInt (d.n < 0) d.n.natAbs d.e
  let inside := !dyLt d ⟨-128, 0⟩ && !dyLt ⟨127, 0⟩ d
  let v : Int :=
    match rnd with
    | some r => if inside then (if rest.n ≠ 0 ∧ drawBelow r rest then fl + 1 else fl) else near
    | none => near
  let w := clampInt (-128) 127 v
  ⟨(BitVec.ofInt 8 w).toNat, v != w, false⟩

/-- Converts an FP32 value divided by 2^sh to a FORMAT. -/
def convTo (f : Nat) (mx : Bool) (rnd : Option Nat) (sh : Int) (x : Nat) : Conv :=
  match fDecode fp32Fmt x with
  | .nan =>
    match fmtNan f with
    | some b => ⟨b, false, false⟩
    | none => ⟨0, false, true⟩
  | .inf neg =>
    if f = 0 then ⟨if neg then 0x80 else 0x7F, true, false⟩
    else if fmtIeee f && !mx then ⟨fSignBit (fmtFloat f) neg + fInfBits (fmtFloat f), false, false⟩
    else ⟨fSignBit (fmtFloat f) neg + fmtMaxCode f, true, false⟩
  | .fin neg n e =>
    if f = 0 then convInt8 rnd (fDy neg n (e - sh)) else convFloat f mx rnd neg n (e - sh)

/-! ### Block scales (R126) -/

def fmtEmax (f : Nat) : Int := if f = 2 then 8 else if f = 3 then 15 else if f = 4 then 2 else if f = 5 then 4 else if f = 6 then 2 else 0

/-- floor(log2) of the largest finite magnitude of a block, where there is a non-zero one. -/
def blockLog (xs : List Nat) : Option Int :=
  xs.foldl (fun b x =>
    match fDecode fp32Fmt x with
    | .fin _ n e =>
      if n = 0 then b
      else
        let l : Int := e + bitLen n - 1
        match b with
        | none => some l
        | some y => some (max l y)
    | _ => b) none

/-- The scale byte of a block. -/
def blockScale (f : Nat) (xs : List Nat) : Nat :=
  if xs.any (fun x => laneNaN fp32Fmt x) then 255
  else
    match blockLog xs with
    | none => 127
    | some l => (clampInt 0 254 (l - fmtEmax f + 127)).toNat

/-! ### Stochastic draws (R125) -/

def draw (seed : BitVec 64) (trow tcol : Nat) (idx : Nat) : Nat :=
  let z0 : BitVec 64 := seed ^^^ (BitVec.ofNat 64 trow <<< 48) ^^^ (BitVec.ofNat 64 tcol <<< 32) ^^^ BitVec.ofNat 64 idx
  let z1 := z0 + 0x9E3779B97F4A7C15
  let z2 := (z1 ^^^ (z1 >>> 30)) * 0xBF58476D1CE4E5B9
  let z3 := (z2 ^^^ (z2 >>> 27)) * 0x94D049BB133111EB
  let z4 := z3 ^^^ (z3 >>> 31)
  z4.toNat / 2 ^ 32

/-! ### A row of output -/

/-- Packs elements of `w` bits into bytes (R85). -/
def packBytes (w : Nat) (xs : List Nat) : List Byte := leBytes (xs.length * w / 8) (packLanes w xs)

/-- A converted row: its bytes, its scale bytes, and how many elements saturated and how many lost a NaN. -/
structure RowOut where
  bytes  : List Byte
  scales : List Byte
  sats   : Nat
  losts  : Nat
  deriving DecidableEq, Repr

/-- Converts 32 values with the scale of their block. -/
def convBlock (f : Nat) (rnd : Nat → Option Nat) (first : Nat) (xs : List Nat) : List Conv × Nat :=
  let sc := blockScale f xs
  if sc = 255 then (xs.map (fun x => ⟨0, false, laneNaN fp32Fmt x⟩), 255)
  else
    let sh : Int := if f = 0 then sc - 133 else sc - 127
    ((List.range xs.length).map (fun i => convTo f true (rnd (first + i)) sh (xs.getD i 0)), sc)

/-- Converts the x3 values of one output row. `rnd n` is the draw of column n under ROUND = 1. -/
def convRow (f : Nat) (scaled : Bool) (rnd : Nat → Option Nat) (xs : List Nat) : RowOut :=
  let cs : List Conv × List Nat :=
    if scaled then
      (List.range (xs.length / 32)).foldl (fun (a : List Conv × List Nat) b =>
        let r := convBlock f rnd (32 * b) ((xs.drop (32 * b)).take 32)
        (a.1 ++ r.1, a.2 ++ [r.2])) ([], [])
    else ((List.range xs.length).map (fun n => convTo f false (rnd n) 0 (xs.getD n 0)), [])
  { bytes := packBytes (fmtBits f) (cs.1.map (fun c => c.bits))
    scales := cs.2.map (fun x => BitVec.ofNat 8 x)
    sats := (cs.1.filter (fun c => c.sat)).length
    losts := (cs.1.filter (fun c => c.lost)).length }

end Sys2Proof.Machine
end

