-- ==== Sys2Proof/Machine/DieFlits.lean ====
section
/-!
DEFINITION. The flits of the die links (17_package.md, R406, R407): their layout, and the sender of each direction of a bundle, which
numbers DATA flits, keeps them until an ACK covers them and resends from the SEQ that a NAK asks for. A DATA flit carries the data bits of
two mesh flits, or half of a unit of a stack (DESIGN CHOICE, log 39). Direction 0 leads from the lower die of a pair to the higher.
-/

namespace Sys2Proof.Machine

/-! ### Pairs (Table 17.8) -/

/-- The two dies of a pair, by die ID. -/
def pairDies (k : Nat) : Nat × Nat :=
  if k = 0 then (0, 1) else if k = 1 then (2, 3) else if k = 2 then (0, 2) else if k = 3 then (1, 3)
  else if k < 12 then ((k - 4) / 2, dieStack (k - 4))
  else if k < 18 then ((tilesOfLink ((k - 12) / 2)).getD ((k - 12) % 2) 0, dieLink ((k - 12) / 2))
  else (k - 18, dieHub)

/-- The pair that joins two dies. -/
def pairBetween (a b : Nat) : Option Nat := (List.range 22).find? (fun k => pairDies k == (min a b, max a b))

/-- Bundles of a pair. -/
def bundlesOf (k : Nat) : Nat := if k < 4 then 8 else if k < 12 then 2 else if k < 18 then 7 else 2

def pairBundles (p : Pair) (k : Nat) : List Bundle := p.bundles.toList.take (bundlesOf k)

/-- The bundle carries flits. -/
def bundleWorks (x : Bundle) : Bool := x.st == .full || x.st == .half

/-! ### Flits (Table 17.7) -/

/-- LCHK: the CRC-4 of a lane's 64 payload bits, the most significant bit first. -/
def crc4 (w : Nat) : Nat :=
  (List.range 64).foldl (fun c i =>
    let x := (c / 8 + (if w.testBit (63 - i) then 1 else 0)) % 2
    (c * 2) % 16 ^^^ (if x = 1 then 3 else 0)) 0

/-- A flit: 256 bytes of payload, the header's low half with SEQ, ACK and TYPE, and the CRC-32 over both. -/
def dlFlit (type seq ack : Nat) (payload : List Byte) : List Byte :=
  let b := payload ++ leBytes 4 (seq * 2 ^ 20 + ack * 2 ^ 8 + type * 2 ^ 6)
  b ++ leBytes 4 (crc32 b).toNat

/-- The 32 lane words of a flit: its payload in bits [63:0], LCHK in [67:64] and the lane's slice of the header in [69:68]. -/
def laneWords (flit : List Byte) : List (BitVec 70) :=
  (List.range 32).map (fun n =>
    let w := leNat ((flit.drop (8 * n)).take 8)
    BitVec.ofNat 70 (w + crc4 w * 2 ^ 64 + leNat ((flit.drop 256).take 8) / 4 ^ n % 4 * 2 ^ 68))

/-- A NAK flit, which asks for the flit that the receiver expects. -/
def dlNak (seq : Nat) : List Byte := dlFlit 2 0 seq (List.replicate 256 0)

/-- An IDLE flit, which carries an ACK alone. -/
def dlIdle (ack : Nat) : List Byte := dlFlit 0 0 ack (List.replicate 256 0)

/-! ### Payload -/

/-- The payloads of 256 bytes that carry so many bytes of data from a start; what the data does not fill is open. -/
def flitPayloads (data : List Byte) (flits : Nat) : List (List (Option Byte)) :=
  (List.range flits).map (fun i =>
    let d := (data.drop (256 * i)).take 256
    d.map some ++ List.replicate (256 - d.length) none)

/-- The two payloads of a unit of a stack: the bytes of an access in the 512-byte unit that holds it. -/
def unitPayloads (addr : Nat) (data : List Byte) : List (List (Option Byte)) :=
  let o := addr % 512
  let l := List.replicate o none ++ data.map some ++ List.replicate (512 - o - data.length) none
  [l.take 256, (l.drop 256).take 256]

/-! ### The sender of a direction (R407) -/

/-- The ACK of the flits that leave in a direction: the last in-order SEQ received in the other. -/
def dlAck (x : Bundle) (dir : Fin 2) : Nat := ((vget x.rx (1 - dir)).1 + 4095) % 4096

/-- A payload is numbered and sent, and kept in the replay buffer; with 512 flits there it waits. `loc` names the bundle: open bytes are
free values, drawn for each flit. -/
def dlSend (loc : Nat) (dir : Fin 2) (x : Bundle) (p : List (Option Byte)) : Bundle :=
  let q := vget x.tx dir
  if 512 ≤ q.replay.length then { x with tx := vset x.tx dir { q with wait := q.wait ++ [p] } }
  else
    let bs := (List.range 256).map (fun i => (p.getD i none).getD (Config.flitFill (2 * loc + dir.val) q.n i))
    { x with tx := vset x.tx dir { q with n := q.n + 1, replay := q.replay ++ [(q.n % 4096, bs)] },
             sent := x.sent ++ [(dir, dlFlit 1 (q.n % 4096) (dlAck x dir) bs)] }

/-- Payloads that wait go out as the replay buffer has room. -/
def dlRefill (loc : Nat) (dir : Fin 2) (x : Bundle) : Bundle :=
  let w := (vget x.tx dir).wait
  w.foldl (dlSend loc dir) { x with tx := vmod x.tx dir (fun q => { q with wait := [] }) }

/-- The SEQ that the receiver awaits, which an ACK or a NAK tells the sender of the direction: the flits before it leave the replay
buffer. A SEQ that names neither a flit there nor the next one changes nothing. -/
def dlCovered (loc : Nat) (dir : Fin 2) (x : Bundle) (seq : Nat) : Bundle :=
  let q := vget x.tx dir
  let kept := if q.replay.any (fun e => e.1 = seq % 4096) then q.replay.dropWhile (fun e => e.1 != seq % 4096)
    else if seq % 4096 = q.n % 4096 then [] else q.replay
  dlRefill loc dir { x with tx := vset x.tx dir { q with replay := kept } }

/-- The replay buffer is sent again, from its start. -/
def dlResend (dir : Fin 2) (x : Bundle) : Bundle :=
  { x with sent := x.sent ++ (vget x.tx dir).replay.map (fun e => (dir, dlFlit 1 e.1 (dlAck x dir) e.2)) }

/-- The payloads that a direction of a bundle still has to deliver, oldest first. -/
def dlPending (x : Bundle) (dir : Fin 2) : List (List (Option Byte)) :=
  let q := vget x.tx dir
  let r := (vget x.rx dir).1
  let left := if q.replay.any (fun e => e.1 = r) then q.replay.dropWhile (fun e => e.1 != r) else if r = q.n % 4096 then [] else q.replay
  left.map (fun e => e.2.map some) ++ q.wait

def DlTx.start : DlTx := ⟨0, [], []⟩

/-! ### Traffic of a pair (R393, R408) -/

/-- The bundle that takes the next payload of a direction: the working one with the fewest flits before it, else one that is being
trained, which holds it. -/
def carrier (p : Pair) (k : Nat) (dir : Fin 2) : Option Nat :=
  let load := fun (b : Nat) => let q := vget (vget p.bundles (Fin.ofNat 8 b)).tx dir; q.replay.length + q.wait.length
  let among := fun (f : Bundle → Bool) => ((List.range (bundlesOf k)).filter (fun b => f (vget p.bundles (Fin.ofNat 8 b)))).foldl
    (fun (o : Option Nat) b => match o with | none => some b | some c => if load b < load c then some b else o) none
  (among bundleWorks).or (among (fun x => x.st == .untrained))

/-- A payload enters a pair. A bundle in training holds it; a severed pair, or one without a bundle, carries nothing. -/
def carryOne (k : Nat) (dir : Fin 2) (p : Pair) (l : List (Option Byte)) : Pair :=
  if p.severed then p
  else
    match carrier p k dir with
    | none => p
    | some b => { p with bundles := vmod p.bundles (Fin.ofNat 8 b) (fun x =>
        if bundleWorks x then dlSend (8 * k + b) dir x l
        else { x with tx := vmod x.tx dir (fun q => { q with wait := q.wait ++ [l] }) }) }

/-- Payloads travel from a die to another, over the pair that joins them. -/
def carry (s : State) (src dst : Nat) (ls : List (List (Option Byte))) : State :=
  match pairBetween src dst with
  | none => s
  | some k => modPair22 s k (fun p => ls.foldl (carryOne k (if src < dst then 0 else 1)) p)

/-- A bundle leaves service: what it has not delivered moves to the pair's other working bundles, or is held by it while it alone is
left. -/
def moveTraffic (k b : Nat) (p : Pair) : Pair :=
  let x := vget p.bundles (Fin.ofNat 8 b)
  let held := fun (d : Fin 2) => dlPending x d
  let p1 := { p with bundles := vset p.bundles (Fin.ofNat 8 b) { x with tx := .replicate 2 DlTx.start } }
  let put := fun (q : Pair) (d : Fin 2) => (held d).foldl (carryOne k d) q
  put (put p1 0) 1

/-- A trained bundle starts its flits anew with what it holds. -/
def flitsStart (loc : Nat) (x : Bundle) : Bundle :=
  let y := { x with rx := .replicate 2 (0, false), tx := .replicate 2 DlTx.start, sent := [] }
  (dlPending x 1).foldl (dlSend loc 1) ((dlPending x 0).foldl (dlSend loc 0) y)

end Sys2Proof.Machine
end

