-- ==== Sys2Proof/Machine/Operands.lean ====
section
/-!
DEFINITION. The operands of core instructions: scalar, vector and tile registers, the fields each instruction may use
(03_cores.md, R67, R69), effective addresses, and handles and message IDs (R72, R73).
-/

namespace Sys2Proof.Machine

/-! ### Registers (R67) -/

/-- g[i]; g0 reads zero. -/
def gGet (x : Ctx) (i : BitVec 5) : W64 := if i = 0 then 0 else vget x.g (i.toFin)

/-- g[i] := v; a write to g0 is discarded. -/
def gSet (x : Ctx) (i : BitVec 5) (v : W64) : Ctx := if i = 0 then x else { x with g := vset x.g i.toFin v }

/-- A vector or tile register field must hold a value below 16. -/
def vtOk (i : BitVec 5) : Bool := i.toNat < 16

def vGet (x : Ctx) (i : BitVec 5) : VReg := vget x.v (Fin.ofNat 16 i.toNat)
def vSet (x : Ctx) (i : BitVec 5) (v : VReg) : Ctx := { x with v := vset x.v (Fin.ofNat 16 i.toNat) v }
def tGet (x : Ctx) (i : Nat) : TReg := vget x.t (Fin.ofNat 16 i)
def tSet (x : Ctx) (i : Nat) (v : TReg) : Ctx := { x with t := vset x.t (Fin.ofNat 16 i) v }

/-- g[i] of a context of the state. -/
def gOf (s : State) (k : CoreId) (c : CtxId) (i : BitVec 5) : W64 := gGet (getCtx s k c) i
def setG (s : State) (k : CoreId) (c : CtxId) (i : BitVec 5) (v : W64) : State := modCtx s k c (fun x => gSet x i v)

/-! ### Unused fields (R69)

The word is ILLEGAL unless every field the instruction does not use is zero. -/

/-- Class R: which of D, A, B, C are used, and the mask of used MOD bits. -/
def okR (f : FieldsR) (d a b c : Bool) (modMask : BitVec 16) : Bool :=
  (d || f.d = 0) && (a || f.a = 0) && (b || f.b = 0) && (c || f.c = 0) && (f.mod &&& ~~~modMask = 0) && f.rsv = 0

/-- Class I: whether SP is used. D, A and IMM32 always are. -/
def okI (f : FieldsI) (sp : Bool) : Bool := (sp || f.sp = 0) && f.rsv = 0

def okL (f : FieldsL) : Bool := f.rsv = 0

/-- Class B: whether B is used. -/
def okB (f : FieldsB) (b : Bool) : Bool := (b || f.b = 0) && f.rsv = 0

/-- Class T: which of ACC, TA, TB, TC, G and ANCHOR are used, and the mask of used MOD bits. -/
def okT (f : FieldsT) (acc ta tb tc g anchor : Bool) (modMask : BitVec 16) : Bool :=
  (acc || f.acc = 0) && (ta || f.ta = 0) && (tb || f.tb = 0) && (tc || f.tc = 0) && (g || f.g = 0) &&
  (anchor || f.anchor = 0) && (f.mod &&& ~~~modMask = 0) && f.rsv = 0

/-- Class S: which of A, B, C and TAG are used, and the mask of used IMM16 bits. -/
def okS (f : FieldsS) (a b c tag : Bool) (immMask : BitVec 16) : Bool :=
  (a || f.a = 0) && (b || f.b = 0) && (c || f.c = 0) && (tag || f.tag = 0) && (f.imm &&& ~~~immMask = 0) && f.rsv = 0

/-! ### Faults at issue, in the order of R422 -/

/-- The first fault of a list whose test holds. -/
def firstFault : List (Bool × FCls) → Option FCls
  | [] => none
  | (b, f) :: r => if b then some f else firstFault r

/-! ### Effective addresses (R69) -/

def spaceOf (sp : BitVec 3) : Option Space :=
  if sp = 0 then some .opbuf else if sp = 1 then some .near else if sp = 2 then some .imem else none

/-- g[A] + sext(IMM32), modulo 2^64. -/
def effAddr (x : Ctx) (f : FieldsI) : W64 := gGet x f.a + f.imm.signExtend 64

/-! ### Claimed pairs (R61) -/

/-- The operand-buffer pair of a byte. -/
def pairOf (a : Nat) : Nat := a / 131072

/-- A BUF_CLAIM record gives the pair to another context of the core. -/
def pairForeign (s : State) (k : CoreId) (c : CtxId) (pair : Nat) : Bool :=
  match partOfCore s k with
  | none => false
  | some p =>
    (getPart s p).bufs.any (fun b =>
      b.core = pcnOf (maskOf s p) k && b.first ≤ pair && pair < b.first + b.count && b.context != c.val)

/-- Some BUF_CLAIM record of the core claims the pair. -/
def pairClaimed (s : State) (k : CoreId) (pair : Nat) : Bool :=
  match partOfCore s k with
  | none => false
  | some p =>
    (getPart s p).bufs.any (fun b => b.core = pcnOf (maskOf s p) k && b.first ≤ pair && pair < b.first + b.count)

/-- The pairs that `n` bytes from `a` touch. -/
def pairsOf (a n : Nat) : List Nat := if n = 0 then [] else (List.range ((a + n - 1) / 131072 - a / 131072 + 1)).map (· + a / 131072)

/-- The operand-buffer bytes reach a pair claimed by another context (R61). -/
def bufForeign (s : State) (k : CoreId) (c : CtxId) (a n : Nat) : Bool := (pairsOf a n).any (pairForeign s k c)

/-! ### Handles and message IDs (R72, R73) -/

/-- The region mask of the core's partition. -/
def coreMask (s : State) (k : CoreId) : BitVec 32 :=
  match partOfCore s k with
  | none => 0
  | some p => maskOf s p

def corePcn (s : State) (k : CoreId) : Nat := pcnOf (coreMask s k) k

/-- The handle is out of range (R72): RANGE. -/
def handleBad (s : State) (k : CoreId) (h : W64) : Bool := (handleObj (coreMask s k) h.toNat).isNone

/-- The object is not the core's to operate on (R72): SYNC_OWNER. -/
def handleForeign (s : State) (k : CoreId) (h : W64) : Bool :=
  match handleObj (coreMask s k) h.toNat, partOfCore s k with
  | some (r, o), some p => !syncAllowed (getPart s p) (corePcn s k) r o
  | _, _ => true

/-- A context ID of Table 3.14 below 4 × the partition's cores. -/
def ctxIdOk (s : State) (k : CoreId) (id : W64) : Bool := id.toNat < 0x200 && id.toNat < 16 * regionCount (coreMask s k)

/-- The sender ID of a context (R74). -/
def ctxMsgId (s : State) (k : CoreId) (c : CtxId) : BitVec 16 := BitVec.ofNat 16 (corePcn s k * 4 + c.val)

def guestWins (s : State) (k : CoreId) (site : Nat) : List GuestWinRec :=
  match partOfCore s k with
  | none => []
  | some p => (getPart s p).guestWins.filter (fun g => g.site = site)

/-- SEND to the ID is allowed (Table 3.14). -/
def sendIdOk (s : State) (k : CoreId) (id : W64) : Bool :=
  ctxIdOk s k id ||
  ((id = 0x410 || id = 0x411) &&
    (guestWins s k (id.toNat - 0x410)).any (fun g => (g.kind = 0 || g.kind = 2) && g.core = corePcn s k))

/-- RECV from the ID in the class is allowed (Table 3.14): a host channel only with CTRL. -/
def recvIdOk (s : State) (k : CoreId) (id : W64) (cls : Nat) : Bool :=
  ctxIdOk s k id ||
  (0x400 ≤ id.toNat && id.toNat ≤ 0x407 && cls = 2) ||
  ((id = 0x410 || id = 0x411) &&
    (guestWins s k (id.toNat - 0x410)).any (fun g =>
      ((g.kind = 0 || g.kind = 2) && g.core = corePcn s k) || g.kind = 2))

/-- The partition is in debug mode. -/
def debugMode (s : State) (k : CoreId) : Bool :=
  match partOfCore s k with
  | none => false
  | some p => (getPart s p).debug

end Sys2Proof.Machine
end

