-- ==== Sys2Proof/Machine/Issue.lean ====
section
/-!
DEFINITION. The issue slot of a core (03_cores.md, R64): the conditions of the blocking waits (Table 3.4), and running one
instruction of the context that holds the slot.
-/

namespace Sys2Proof.Machine

/-! ### What the waits of Table 3.4 wait for -/

/-- The oldest message of the quarter that matches sender, tag and class (R75). -/
def matchMsg (sender tag : BitVec 16) (cls : Nat) (m : InMsg) : Bool := m.sender = sender && m.tag = tag && m.cls = cls
def findMsg (s : State) (k : CoreId) (c : CtxId) (sender tag : BitVec 16) (cls : Nat) : Option InMsg :=
  (vget (getCore s k).inbox c).find? (matchMsg sender tag cls)

/-- Bytes held in the outbound buffer (Table 3.1: 16 KiB). -/
def outUsed (s : State) (k : CoreId) : Nat := ((getCore s k).outbox.map (fun m => m.payload.length)).foldl (· + ·) 0
def outRoom (s : State) (k : CoreId) (n : Nat) : Bool := outUsed s k + n ≤ 16384

/-- The current transfer of a slot (R130). -/
def currentXfer (s : State) (k : CoreId) (c : CtxId) (slot : Nat) : Option Xfer :=
  (getCore s k).xfers.find? (fun x => x.ctx = c && x.slot = slot && x.current)

/-- A running ATTN counts as an active transfer while it fetches keys and values itself (R222): not in thin mode and not in the
merge modes. -/
def attnActive (m : Core) : Nat :=
  match m.attn with
  | some a => if (a.block.getD 0 0).toNat < 2 && !(a.block.getD 1 0).getLsbD 0 then 1 else 0
  | none => 0

/-- The requests of a core in flight, of which there are at most 64 (R141): those of transfers and the fetches of a running ATTN, which
is a transfer too (R222). -/
def inFlight (m : Core) : Nat := m.reqs.length + (match m.attn with | some a => a.fetches.length | none => 0)

/-- The active transfers of a core, of which there are at most 8 (R129). -/
def activeCount (s : State) (k : CoreId) : Nat := ((getCore s k).xfers.filter xferActive).length + attnActive (getCore s k)

/-- The slot's descriptor has INDEXED set, so a start takes two transfers (R129, R135). -/
def slotIndexed (s : State) (k : CoreId) (c : CtxId) (slot : Nat) : Bool :=
  (vget (getCtx s k c).slots (Fin.ofNat 8 slot)).getLsbD (18 * 8 + 6)

/-- STRM_GO or STRM_FILL on the slot must wait (R129). -/
def strmGoBlocked (s : State) (k : CoreId) (c : CtxId) (slot : Nat) : Bool :=
  (match currentXfer s k c slot with
   | some x => xferActive x
   | none => false) ||
  8 < activeCount s k + (if slotIndexed s k c slot then 2 else 1)

/-- Bytes of a transfer in one phase, and in all (R133, R137). -/
def elemSize (d : Desc) : Nat := 2 ^ d.esize
def dimCount (d : Desc) (i : Fin 5) : Nat := (vget d.dims i).count
def totalPos (d : Desc) : Nat := dimCount d 0 * dimCount d 1 * dimCount d 2 * dimCount d 3 * dimCount d 4
def phasePos (d : Desc) : Nat := if d.buffered then totalPos d / dimCount d 4 else totalPos d
def phaseBytes (d : Desc) : Nat := phasePos d * elemSize d
def totalBytes (d : Desc) : Nat := totalPos d * elemSize d

/-- STRM_SWAP on the slot must wait: the transfer is buffered and active, and its engine side is not done (R138). -/
def strmSwapBlocked (s : State) (k : CoreId) (c : CtxId) (slot : Nat) : Bool :=
  match currentXfer s k c slot with
  | some x => x.desc.buffered && x.state == .run || x.desc.buffered && x.state == .stopping
  | none => false

/-- The accumulator tiles that an operation names (R111). -/
def opTiles : TKind → List Nat
  | .accz a _ => [a]
  | .mma a _ _ _ _ _ => [a]
  | .epi a _ _ => [a]
  | .attn _ ts _ => ts
  | .accrd a _ => [a]
  | .accwr a _ => [a]

/-- The tensor operations that have been granted and have not completed (R111): in the array or waiting for a replay, in the
epilogue, and the running ATTN. -/
def startedOps (m : Core) : List TOp :=
  m.passes.map (fun p => p.op) ++ m.replays.map (fun p => p.op) ++
  (match m.epi with | some e => [e.op] | none => []) ++ (match m.attn with | some a => [a.op] | none => [])

/-- The tensor operations of a context that have not completed. -/
def tensorOut (s : State) (k : CoreId) (c : CtxId) : List TOp :=
  (startedOps (getCore s k)).filter (fun o => o.ctx = c) ++ (getCtx s k c).queue

/-- TWAIT must wait, for every operation or for those naming a tile. -/
def twaitBlocked (s : State) (k : CoreId) (c : CtxId) (acc : Option Nat) : Bool :=
  (tensorOut s k c).any (fun o => match acc with | none => true | some a => (opTiles o.kind).contains a)

def queueFull (s : State) (k : CoreId) (c : CtxId) : Bool := 4 ≤ (getCtx s k c).queue.length

/-- The transfer still writes a local space of its core (R66): an IN transfer, or an OUT transfer to NEAR, of whose phase
positions are not done. -/
def xferWritesLocal (x : Xfer) : Bool := x.state == .run && (!x.desc.out || x.desc.rclass = 2) && !x.desc.index

/-- FENCE must wait (Table 3.13). -/
def fenceBlocked (s : State) (k : CoreId) (c : CtxId) : Bool :=
  (getCore s k).xfers.any (fun x => x.ctx = c && xferWritesLocal x) ||
  (tensorOut s k c).any (fun o => match o.kind with | .epi .. | .attn .. | .accrd .. => true | _ => false)

/-- The context has a task that has not received its add (R78). -/
def taskBlocked (s : State) (k : CoreId) (c : CtxId) : Bool := (getCore s k).tasks.any (fun t => t.ctx = c && !t.isOpen)

/-- The program hold of a channel of the core's partition has room (R297). -/
def hpostRoom (s : State) (k : CoreId) (ch : Nat) : Bool :=
  match partOfCore s k with
  | none => true
  | some p => ((getCh s p ch).ring.held.filter (fun e => e.prog)).length < 16
/-- COL_ISSUE on the tree has room: fewer than 8 commands of the core are in progress on it, and the outbound buffer can take
the block (R277). -/
def colRoom (s : State) (k : CoreId) (t : Nat) : Bool :=
  decide (((getCore s k).cols.filter (fun x => x.tree = t)).length < 8) && outRoom s k 64

/-- The condition of the context's wait holds, so that a BLOCKED context is READY (R64). -/
def waitMet (s : State) (k : CoreId) (c : CtxId) : Bool :=
  match (getCtx s k c).wait with
  | .none => true
  | .yield => true
  | .recv f t q => (findMsg s k c f t q).isSome
  | .sync => (getCtx s k c).syncOut.isSome
  | .strmWait n => match currentXfer s k c n with | some x => !xferActive x | none => true
  | .strmSwap n => !strmSwapBlocked s k c n
  | .strmGo n => !strmGoBlocked s k c n
  | .tensor a => !twaitBlocked s k c a
  | .queue => !queueFull s k c
  | .send n => outRoom s k n
  | .hpost ch => hpostRoom s k ch && outRoom s k 64
  | .sprIssue => (getCtx s k c).sprOut < 16 && outRoom s k 64
  | .colIssue t => colRoom s k t
  | .fence => !fenceBlocked s k c
  | .sprFence => (getCtx s k c).sprOut = 0
  | .task => !taskBlocked s k c

/-- The state a context shows (Table 3.3): a BLOCKED context whose condition is met is READY. -/
def ctxShown (s : State) (k : CoreId) (c : CtxId) : CtxState :=
  match (getCtx s k c).st with
  | .blocked => if waitMet s k c then .ready else .blocked
  | x => x

/-- The context that holds the issue slot. -/
def runningCtx (s : State) (k : CoreId) : Option CtxId :=
  (List.finRange 4).find? (fun c => (getCtx s k c).st == .running)

/-! ### One instruction -/

/-- How an instruction ends (R64, R70, R80): it completes and the pc advances or jumps, it waits, or it faults with the
DETAIL and ADDRESS of its record. `doneThen` also says what the operation it issued does at once, after the instruction. -/
inductive IRes where
  | done (s : State)
  | doneThen (s : State) (after : State → State)
  | jump (s : State) (pc : BitVec 18)
  | wait (s : State) (w : Wait)
  | fault (s : State) (f : FCls) (detail : BitVec 16) (address : BitVec 64)

/-- A plain fault at issue. -/
def iFault (s : State) (f : FCls) : IRes := .fault s f 0 0

/-- Issues an instruction of the context that holds the issue slot of a core. With no holder, with the core's clock
stopped, or while a reset covers the context, nothing issues. An instruction at an offset below 64 takes a RANGE fault,
because no instruction is fetched from the image header (R59). -/
def runInstr (k : CoreId) (body : CtxId → State → IRes) (s : State) : State :=
  match runningCtx s k with
  | none => s
  | some c =>
    if !coreClocked s k || resetCovers s k c.val then s
    else
      let pc := (getCtx s k c).pc
      let tag := taskTag s k (getCtx s k c).task
      if pc.toNat < 64 then takeFault s k c .range ⟨pc, tag, 0, 0, none⟩
      else
        match body c s with
        | .done s' => modCtx s' k c (fun x => { x with pc := pc + 8, ret := x.ret + 1 })
        | .doneThen s' g => g (modCtx s' k c (fun x => { x with pc := pc + 8, ret := x.ret + 1 }))
        | .jump s' t => modCtx s' k c (fun x => { x with pc := t, ret := x.ret + 1 })
        | .wait s' w => modCore (modCtx s' k c (fun x => { x with st := .blocked, wait := w })) k (fun m => { m with lastSlot := c })
        | .fault s' f d a => takeFault s' k c f ⟨pc, tag, d, a, none⟩

/-- The next context in rotation that is READY, after the last holder (R64). -/
def nextReady (s : State) (k : CoreId) : Option CtxId :=
  let l := (getCore s k).lastSlot.val
  ([l + 1, l + 2, l + 3, l].map (fun n => (Fin.ofNat 4 n : CtxId))).find?
    (fun c => ctxShown s k c == .ready && !resetCovers s k c.val)

end Sys2Proof.Machine
end

