-- ==== Sys2Proof/Machine/Paths.lean ====
section
/-!
DEFINITION. Mesh paths (02_configuration_stream.md, R49; 10_mesh_sync_reduction.md, R239, R243, R244).
-/

namespace Sys2Proof.Machine

/-- A router position. -/
abbrev Pos := Nat × Nat

/-- The position after a hop: 0 north, 1 east, 2 south, 3 west; none where it leaves the grid. -/
def hop (p : Pos) (d : Nat) : Option Pos :=
  if d = 0 then (if p.2 = 0 then none else some (p.1, p.2 - 1))
  else if d = 1 then (if p.1 < 15 then some (p.1 + 1, p.2) else none)
  else if d = 2 then (if p.2 < 7 then some (p.1, p.2 + 1) else none)
  else if p.1 = 0 then none else some (p.1 - 1, p.2)

/-- The positions of a path, its first one included. -/
def walk (p : Pos) : List Nat → Option (List Pos)
  | [] => some [p]
  | d :: ds => match hop p d with | none => none | some q => (walk q ds).map (fun l => p :: l)

/-- The hops of a PATH field. -/
def pathHops (hops path : Nat) : List Nat := (List.range hops).map (fun i => (path / 4 ^ i) % 4)

/-- The hops between two positions, along x first, then along y. -/
def xyHops (a b : Pos) : List Nat :=
  (if a.1 ≤ b.1 then List.replicate (b.1 - a.1) 1 else List.replicate (a.1 - b.1) 3) ++
  (if a.2 ≤ b.2 then List.replicate (b.2 - a.2) 2 else List.replicate (a.2 - b.2) 0)

/-- The dimension-order path between two regions. -/
def defaultHops (src dst : Nat) : List Nat := xyHops (regX src 0, regY src 0) (regX dst 0, regY dst 0)

/-- The route record that covers a pair of regions and a class. -/
def routeFor (rs : List RouteRec) (src dst cls : Nat) : Option RouteRec :=
  rs.find? (fun r => r.src = src && r.dst = dst && r.classes.testBit cls)

/-- The hops that a pair and class use. -/
def hopsFor (rs : List RouteRec) (src dst cls : Nat) : List Nat :=
  match routeFor rs src dst cls with
  | some r => pathHops r.hops r.path
  | none => defaultHops src dst

/-- The start of a path translated to offset `o`. -/
def startAt (src o : Nat) : Pos := (regX src 0 + o % 2, regY src 0 + o / 2)

def tileAt (p : Pos) : Nat := (p.2 / 4) * 2 + p.1 / 8

/-- Every position lies in a tile of the list. -/
def within (tiles : List Nat) (l : List Pos) : Bool := l.all (fun p => tiles.contains (tileAt p))

/-- The tiles that hold regions of a mask. -/
def tilesOfMask (m : BitVec 32) : List Nat := (List.range 4).filter (fun t => (regionsOfMask m).any (fun r => tileOfRegion r.val = t))

/-- The entries of one translated path (R244). -/
def pathEntries (p : PartId) (src dst cls off : Nat) : Pos → List Nat → List RouteEnt
  | q, [] => [⟨q.2 * 16 + q.1, src, dst, cls, off, 4, p⟩]
  | q, d :: ds => ⟨q.2 * 16 + q.1, src, dst, cls, off, d, p⟩ :: (match hop q d with | some x => pathEntries p src dst cls off x ds | none => [])

/-- The route entries of a partition. -/
def partEntries (p : PartId) (m : BitVec 32) (rs : List RouteRec) : List RouteEnt :=
  let l := (regionsOfMask m).map (fun r => r.val)
  l.flatMap (fun src => (l.filter (· != src)).flatMap (fun dst => (List.range 4).flatMap (fun cls => (List.range 4).flatMap (fun o =>
    pathEntries p src dst cls o (startAt src o) (hopsFor rs src dst cls)))))

/-- Some path of the partition crosses from one of the two tiles to the other. -/
def crosses (s : State) (p : PartId) (a b : Nat) : Bool :=
  let l := (regionsOfMask (maskOf s p)).map (fun r => r.val)
  l.any (fun src => (l.filter (· != src)).any (fun dst => (List.range 4).any (fun cls =>
    match walk (startAt src 0) (hopsFor (getPart s p).routes src dst cls) with
    | none => false
    | some w => (w.zip (w.drop 1)).any (fun e => (tileAt e.1 = a && tileAt e.2 = b) || (tileAt e.1 = b && tileAt e.2 = a)))))

end Sys2Proof.Machine
end

