-- ==== Sys2Proof/Machine/Router.lean ====
section
/-!
DEFINITION. The routers of the mesh (10_mesh_sync_reduction.md, R235 to R245): where endpoints attach, the header of a
message, the legs it travels and the level at each router of its path, the grant of an output port, and the flits it counts.

A command moves a message from its source to its destination at once (log 9). What stands in a level buffer between two hops
is timing, which no meter counts (R259); the room of a buffer and the level of a message at each hop are given here.
-/

namespace Sys2Proof.Machine

/-! ### Endpoints (R238, R239, Table 10.1) -/

/-- The link die on the side edge of a tile: that of the west for tiles 0 and 2, that of the east for tiles 1 and 3. -/
def sideDie (t : Nat) : Nat := dieLink (t % 2)

/-- The end edge of a tile: the endpoints' die IDs with their columns u. -/
def endEdge (t : Nat) : List (Nat × List Nat) :=
  if t = 0 then [(dieStack 0, [0, 1]), (dieStack 1, [2, 3]), (dieHub, [6, 7])]
  else if t = 1 then [(dieHub, [0, 1]), (dieStack 2, [4, 5]), (dieStack 3, [6, 7])]
  else if t = 2 then [(dieStack 4, [0, 1]), (dieStack 5, [2, 3]), (dieHub, [4]), (dieLink 2, [5, 6, 7])]
  else [(dieLink 2, [0, 1, 2]), (dieHub, [3]), (dieStack 6, [4, 5]), (dieStack 7, [6, 7])]

/-- The router positions of an endpoint's ports in a tile, in the order of their numbers: the side edge in ascending v, the end
edge in ascending u. -/
def epPorts (die t : Nat) : List Pos :=
  let x := 8 * (t % 2)
  let y := 4 * (t / 2)
  if die = sideDie t then (List.range 4).map (fun v => (x + (if t % 2 = 0 then 0 else 7), y + v))
  else (((endEdge t).find? (fun e => e.1 = die)).map (fun e => e.2.map (fun u => (x + u, y + (if t < 2 then 0 else 3))))).getD []

/-- A port is in use where its die is present (R2, R3). -/
def portUsed (s : State) (die : Nat) : Bool :=
  if 8 ≤ die ∧ die < 16 then (siteMask s).getLsbD (die - 8) else if 16 ≤ die ∧ die < 19 then (linkMask s).getLsbD (die - 16) else true

/-- The die ID of the endpoint that an end lies behind: guests are behind the hub; 0 for cores and region units. -/
def endDie : End → Nat
  | .host _ _ => dieHub
  | .guest _ => dieHub
  | .hub => dieHub
  | .stack n => dieStack n
  | .link d => dieLink d
  | _ => 0

/-- The core at whose router an end on the grid attaches: region units attach at local index 0 (R245). -/
def endCore : End → CoreId
  | .ctx k _ => k
  | .sync r => coreOf r.val 0
  | .red r => coreOf r.val 0
  | _ => 0

/-- The endpoint's tile for a core's traffic: the core's own where the endpoint attaches there, else the lowest-numbered tile of
the partition to which it attaches. -/
def epTile (m : BitVec 32) (die t : Nat) : Nat :=
  if (epPorts die t).isEmpty then ((tilesOfMask m).find? (fun x => !(epPorts die x).isEmpty)).getD t else t

/-- The partition's lowest-ID region in a tile. -/
def gatewayRegion (m : BitVec 32) (t : Nat) : Nat :=
  (((regionsOfMask m).find? (fun r => tileOfRegion r.val = t)).map (fun r => r.val)).getD 0

/-- The port number: the partition core number mod n. A region unit's traffic uses partition core number 0 (R281). -/
def epPort (m : BitVec 32) (die t : Nat) : End → Nat
  | .ctx k _ => pcnOf m k % (epPorts die t).length
  | _ => 0

/-- The partition that an end works for. -/
def endPart (s : State) : End → Option PartId
  | .ctx k _ => partOfCore s k
  | .host p _ => some p
  | .sync r => partOfRegion s r
  | .red r => partOfRegion s r
  | _ => none

/-- The partition that a frame works for, and its regions. -/
def framePart (s : State) (src dst : End) : Option PartId := (endPart s src).or (endPart s dst)
def frameMask (s : State) (src dst : End) : BitVec 32 := ((framePart s src dst).map (fun p => maskOf s p)).getD 0

/-! ### The header (R242, Tables 10.2 and 10.3) -/

/-- The fields of Table 10.2; `srcLow` is bits [37:34]. -/
structure MeshHdr where
  cls       : BitVec 2
  kind      : BitVec 4
  len       : BitVec 6
  dstRegion : BitVec 5
  dstLocal  : BitVec 2
  dstCtx    : BitVec 2
  srcRegion : BitVec 5
  srcLow    : BitVec 4
  ep        : BitVec 5
  epSrc     : BitVec 1
  epPort    : BitVec 2
  tag       : BitVec 16
  level     : BitVec 6
  epoch     : BitVec 1
  deriving DecidableEq, Repr

/-- The 64 bits of a header. -/
def hdrBits (h : MeshHdr) : BitVec 64 :=
  h.cls ++ h.kind ++ h.len ++ h.dstRegion ++ h.dstLocal ++ h.dstCtx ++ h.srcRegion ++ h.srcLow ++ h.ep ++ h.epSrc ++ h.epPort ++
  h.tag ++ h.level ++ h.epoch ++ (0 : BitVec 3)

/-- The header that 64 bits hold. -/
def hdrOfBits (w : BitVec 64) : MeshHdr :=
  { cls := w.extractLsb' 62 2, kind := w.extractLsb' 58 4, len := w.extractLsb' 52 6, dstRegion := w.extractLsb' 47 5
    dstLocal := w.extractLsb' 45 2, dstCtx := w.extractLsb' 43 2, srcRegion := w.extractLsb' 38 5, srcLow := w.extractLsb' 34 4
    ep := w.extractLsb' 29 5, epSrc := w.extractLsb' 28 1, epPort := w.extractLsb' 26 2, tag := w.extractLsb' 10 16
    level := w.extractLsb' 4 6, epoch := w.extractLsb' 3 1 }

def kindMem : Nat := 4
def kindNotice : Nat := 9

/-- KIND of a frame (Table 10.3). -/
def kindOf : FBody → Nat
  | .msg .. => 0
  | .ack _ => 1
  | .refuse .. => 2
  | .resume _ => 3
  | .syncAdd .. => 5
  | .taskAdd .. => 5
  | .syncArm .. => 5
  | .syncAbort .. => 5
  | .syncCancel _ => 5
  | .syncWait .. => 5
  | .syncReply .. => 6
  | .notice .. => 6
  | .red _ => 7
  | .command .. => 8
  | .thinCmd .. => 8
  | .thinSums .. => 8
  | .error _ => 10
  | .waitError _ => 10
  | .cmdError .. => 10

/-- Bytes of payload: 64 for sync traffic and none for header-only kinds. A thin command carries its block, x and the covered
pages (R221); its sums are laid out as Table 8.8 (DEDUCED, log 82). -/
def payloadBytes : FBody → Nat
  | .msg _ _ _ _ _ d => d.length
  | .red c => c.data.length
  | .command b .. => b.length
  | .thinCmd _ b x pages => b.length + x.length + 8 * pages.length + 8 * ((pages.length + 7) / 8)
  | .thinSums _ sums _ => 64 * ((sums.length + 3) / 4) + 64 * ((sums.length + 255) / 256) + 64
  | b => if kindOf b = 5 || kindOf b = 6 then 64 else 0

/-- TAG and EPOCH: those of a MSG. A frame of another kind shows what it answers to by the low bits of its number, or 0 (DESIGN
CHOICE, log 82). -/
def frameTag : FBody → BitVec 16 × Bool
  | .msg _ _ _ t e _ => (t, e)
  | .ack id => (BitVec.ofNat 16 id, false)
  | .refuse id _ _ => (BitVec.ofNat 16 id, false)
  | .error id => (BitVec.ofNat 16 id, false)
  | .command _ id _ _ => (BitVec.ofNat 16 id, false)
  | .thinCmd id _ _ _ => (BitVec.ofNat 16 id, false)
  | .thinSums id _ _ => (BitVec.ofNat 16 id, false)
  | .cmdError id _ _ => (BitVec.ofNat 16 id, false)
  | _ => (0, false)

/-- LEN: 64-byte units − 1, zero for header-only kinds. -/
def lenField (bytes : Nat) : Nat := (bytes + 63) / 64 - 1

/-- Flits of a message (R242). -/
def flitsOf (bytes : Nat) : Nat := max 1 ((bytes + 127) / 128)

/-- SRC_LOCAL and SRC_CTX, or the host channel or guest site of hub traffic. -/
def srcLowOf : End → Nat
  | .ctx k c => localOf k * 4 + c.val
  | .host _ n => n
  | .guest g => 8 + g
  | _ => 0

/-- Both ends of a message as its header names them: the endpoint's die (0 for none), whether it is the source, its port, and the
two regions, the gateway region standing for the endpoint (R239, R242). -/
structure Legs where
  ep        : Nat
  epSrc     : Bool
  port      : Nat
  tile      : Nat
  srcRegion : Nat
  dstRegion : Nat
  deriving DecidableEq, Repr

def legsOf (s : State) (src dst : End) : Legs :=
  let m := frameMask s src dst
  let rs := (regionOf (endCore src)).val
  let rd := (regionOf (endCore dst)).val
  if endDie src ≠ 0 then
    let t := epTile m (endDie src) (tileOfCore (endCore dst))
    ⟨endDie src, true, epPort m (endDie src) t dst, t, gatewayRegion m t, rd⟩
  else if endDie dst ≠ 0 then
    let t := epTile m (endDie dst) (tileOfCore (endCore src))
    ⟨endDie dst, false, epPort m (endDie dst) t src, t, rs, gatewayRegion m t⟩
  else ⟨0, false, 0, 0, rs, rd⟩

/-- The header of a message of a kind and class between two ends, at a level. Traffic to an endpoint has DST_LOCAL and DST_CTX
0 (DESIGN CHOICE, log 82). -/
def mkHdr (s : State) (src dst : End) (cls kind bytes : Nat) (tag : BitVec 16) (epoch : Bool) (level : Nat) : MeshHdr :=
  let l := legsOf s src dst
  { cls := BitVec.ofNat 2 cls, kind := BitVec.ofNat 4 kind, len := BitVec.ofNat 6 (lenField bytes)
    dstRegion := BitVec.ofNat 5 l.dstRegion
    dstLocal := if endDie dst ≠ 0 then 0 else BitVec.ofNat 2 (localOf (endCore dst))
    dstCtx := match dst with | .ctx _ c => BitVec.ofNat 2 c.val | _ => 0
    srcRegion := BitVec.ofNat 5 l.srcRegion, srcLow := BitVec.ofNat 4 (srcLowOf src), ep := BitVec.ofNat 5 l.ep
    epSrc := BitVec.ofBool l.epSrc, epPort := BitVec.ofNat 2 l.port, tag := tag, level := BitVec.ofNat 6 level
    epoch := BitVec.ofBool epoch }

/-- The header of a frame at a level. -/
def frameHdr (s : State) (f : Frame) (level : Nat) : MeshHdr :=
  mkHdr s f.src f.dst f.cls (kindOf f.body) (payloadBytes f.body) (frameTag f.body).1 (frameTag f.body).2 level

/-- The header of a MEM message: a request or write data to an endpoint, or read data and acknowledgements from it. -/
def memHdr (s : State) (src dst : End) (reply : Bool) (bytes : Nat) (tag : BitVec 16) (level : Nat) : MeshHdr :=
  mkHdr s src dst (if reply then 3 else 2) kindMem bytes tag false level

/-- The header of a NOTICE of the hub. -/
def noticeHdr (s : State) (dst : End) (bytes level : Nat) : MeshHdr := mkHdr s .hub dst 0 kindNotice bytes 0 false level

/-! ### Paths (R243) -/

/-- The hops of the region leg between two regions, by the path of R49 for the class. -/
def regionLeg (s : State) (p : Option PartId) (src dst cls : Nat) : List Nat :=
  if src = dst then [] else hopsFor ((p.map (fun q => (getPart s q).routes)).getD []) src dst cls

/-- The first router of a message and its hops, leg by leg. -/
def framePath (s : State) (src dst : End) (cls : Nat) : Pos × List Nat :=
  let l := legsOf s src dst
  let leg := regionLeg s (framePart s src dst) l.srcRegion l.dstRegion cls
  let port := ((epPorts l.ep l.tile)[l.port]?).getD (0, 0)
  let os := localOf (endCore src)
  let od := localOf (endCore dst)
  if l.ep = 0 then (startAt l.srcRegion os, leg ++ xyHops (startAt l.dstRegion os) (startAt l.dstRegion od))
  else if l.epSrc then (port, xyHops port (startAt l.srcRegion od) ++ leg)
  else (startAt l.srcRegion os, leg ++ xyHops (startAt l.dstRegion os) port)

/-- The routers of a message in order; its level at the i-th of them is i (R241). -/
def frameRouters (s : State) (src dst : End) (cls : Nat) : List Pos :=
  let w := framePath s src dst cls
  (walk w.1 w.2).getD [w.1]

/-! ### Buffers and grants (R240, R241) -/

/-- Levels of an input port's buffers, and the flits that each of them holds for a class. -/
def bufLevels : Nat := 48
def bufRoom : Nat := 2

/-- A flit of a message at a level moves into the next router where that port's buffer of its class and the next level has
room; `held` counts the flits in each buffer of the port, by class and level. -/
def mayAdvance (held : Nat → Nat → Nat) (cls level : Nat) : Bool := level + 1 < bufLevels && held cls (level + 1) < bufRoom

/-- Input ports of a router: 0 to 3 north, east, south and west; 4 the core port; 5 and 6 the endpoint ports. -/
def inputWeight (wRouter i : Nat) : Nat := if i = 4 then wRouter else 1

/-- W_ROUTER of a core, from the ARB record of its region. -/
def wRouterOf (s : State) (k : CoreId) : Nat :=
  match partOfCore s k with
  | none => 1
  | some p => (((getPart s p).arbs.find? (fun a => a.region = (regionOf k).val)).map (fun a => a.wRouter.getD (localOf k) 1)).getD 1

/-- The class and input port that an output port of the router at core `k` grants next, one flit: CTRL, SYNC, RSP, then REQ, and
within the class by weighted round-robin. `work` says which inputs hold a flit of a class for the output, `rr` where each
class's round stands. -/
def routerGrant (s : State) (k : CoreId) (work : Nat → Nat → Bool) (rr : Nat → Nat × Nat) : Option (Nat × Nat × Nat) :=
  [0, 1, 3, 2].findSome? (fun c => (wrrPick 7 (work c) (inputWeight (wRouterOf s k)) (rr c)).map (fun g => (c, g)))

/-! ### Counting (R260) -/

def modMeshTile (s : State) (t : Nat) (f : MeshTile → MeshTile) : State :=
  { s with meshTiles := vmod s.meshTiles (Fin.ofNat 4 t) f }

/-! ### Bundles in service (R236, R408) -/

/-- Every bundle of the pair is OUT. -/
def pairOut (p : Pair) (k : Nat) : Bool := (pairBundles p k).all (fun b => b.st == .out)
/-- DL_Pk_STATUS.WORKING: 2 for a FULL bundle, 1 for a HALF one. -/
def pairWorking (p : Pair) (k : Nat) : Nat :=
  ((pairBundles p k).map (fun b => match b.st with | .full => 2 | .half => 1 | _ => 0)).foldl (· + ·) 0

/-- The rate of a boundary's hops, in percent (R236); none over a severed pair. -/
def hopRate (p : Pair) (k hops : Nat) : Nat := if p.severed then 0 else min 100 (pairWorking p k * 128 * 100 / (hops * 224))

/-- The MESH registers after a change of a tile pair. -/
def meshRates (s : State) : State :=
  (List.finRange 4).foldl (fun a t =>
    let kh := t.val / 2
    let kv := 2 + t.val % 2
    let h := hopRate (getPair a kh) kh 4
    let v := hopRate (getPair a kv) kv 8
    modMeshTile a t.val (fun m => { m with hRate := h, vRate := v, evDeg := m.evDeg || (h < 100 && m.hRate = 100) || (v < 100 && m.vRate = 100) })) s

/-- A bundle stops until its training ends; its traffic moves to the pair's other working bundles, or is held. -/
def bundleStop (s : State) (k b : Nat) : State :=
  meshRates (modPair22 s k (fun p => moveTraffic k b { p with bundles := vmod p.bundles (Fin.ofNat 8 b) (fun x => { x with st := .untrained }) }))

/-- A working bundle that is not on the settings of its pair's band is due for a training. In service Tops trains such bundles one at a
time (R408). -/
def bandRetrain (s : State) (k : Nat) : State :=
  let p := getPair s k
  if !s.hub.ready || (pairBundles p k).any (fun x => x.st == .untrained) then s
  else match (pairBundles p k).findIdx? (fun x => bundleWorks x && x.band != p.band.band) with
    | some b => bundleStop s k b
    | none => s

/-! ### Flits on their way -/

/-- `n` flits with their data over a row of routers: each hop between two tiles counts them in the tile that sends, and the die link
between the tiles carries them (R236, R406). -/
def countHops (s : State) (n : Nat) (data : List Byte) (l : List Pos) : State :=
  (l.zip (l.drop 1)).foldl (fun a e =>
    if tileAt e.1 = tileAt e.2 then a
    else carry (modMeshTile a (tileAt e.1) (fun t => { t with flits := t.flits + BitVec.ofNat 64 n })) (tileAt e.1) (tileAt e.2) (flitPayloads data ((n + 1) / 2))) s

/-- `n` flits between the die of an end and the tile where its path begins or ends; for an end on the grid there is no such die. -/
def carryEnd (s : State) (e : End) (tile n : Nat) (data : List Byte) (out : Bool) : State :=
  let d := endDie e
  let ls := flitPayloads data ((n + 1) / 2)
  if d = 0 then s else if out then carry s d tile ls else carry s tile d ls

/-- Payload bytes of a frame whose places in its flits follow from the spec's text. -/
def bodyData : FBody → List Byte
  | .msg _ _ _ _ _ d => d
  | .red c => c.data
  | .command b _ _ _ => b
  | .thinCmd _ b x _ => b ++ x
  | _ => []

/-- A frame has travelled its whole path. -/
def countFrame (s : State) (f : Frame) : State :=
  let n := flitsOf (payloadBytes f.body)
  let d := bodyData f.body
  let l := frameRouters s f.src f.dst f.cls
  let t0 := (l.head?.map tileAt).getD 0
  let t1 := (l.getLast?.map tileAt).getD 0
  carryEnd (countHops (carryEnd s f.src t0 n d true) n d l) f.dst t1 n d false

/-- A MEM request of a core to an endpoint and the reply have travelled their paths: write data or read data in whole 64-byte units, and
a header-only flit the other way (R242, Table 10.3). A request to a stack travels unit by unit (DESIGN CHOICE, log 53). -/
def countMem (s : State) (k : CoreId) (d : End) (write : Bool) (addr len : Nat) : State :=
  let n := flitsOf ((addr % 64 + len + 63) / 64 * 64)
  countHops (countHops s (if write then n else 1) [] (frameRouters s (.ctx k 0) d 2)) (if write then 1 else n) [] (frameRouters s d (.ctx k 0) 3)

/-- The part of a row of routers up to the first one in a tile. -/
def upToTile (t : Nat) (l : List Pos) : List Pos := l.take ((l.takeWhile (fun p => tileAt p != t)).length + 1)

/-- A frame has travelled as far as its first router in a tile. -/
def countUpTo (s : State) (f : Frame) (t : Nat) : State :=
  countHops s (flitsOf (payloadBytes f.body)) (bodyData f.body) (upToTile t (frameRouters s f.src f.dst f.cls))

end Sys2Proof.Machine
end

