-- ==== Sys2Proof/Machine/Mesh.lean ====
section
/-!
DEFINITION. Frames in flight, inbox admission and the message units (10_mesh_sync_reduction.md, R244 to R249), and the
sync units (R250 to R253).
-/

namespace Sys2Proof.Machine

/-! ### Frames in flight -/

/-- Removes the element at a place. -/
def dropAt {α : Type} : List α → Nat → List α
  | [], _ => []
  | _ :: xs, 0 => xs
  | x :: xs, n + 1 => x :: dropAt xs n

/-- Both ends are contexts of one core. -/
def sameCore : End → End → Bool
  | .ctx k _, .ctx l _ => k == l
  | _, _ => false

/-- The end is the sync unit of the region that the other end's core lies in. -/
def ownSync : End → End → Bool
  | .ctx k _, .sync r => r == regionOf k
  | _, _ => false

/-- The earlier of two frames holds the later one back: they have one source, destination and class (R246), or are operations of one
core for the sync unit of its region, which wait in the order in which they arose (R251). -/
def holdsBack (g f : Frame) : Bool :=
  g.dst == f.dst && g.cls == f.cls && (g.src == f.src || (sameCore g.src f.src && ownSync f.src f.dst))

/-- The tile of an end on the grid. -/
def endTile : End → Option Nat
  | .ctx k _ => some (tileOfCore k)
  | .sync r => some (tileOfRegion r.val)
  | .red r => some (tileOfRegion r.val)
  | _ => none

/-- The tile of an end is SEVERED and the other end lies outside it: no die link carries traffic between them (R389). -/
def cutFrom (s : State) (a b : End) : Bool := (endTile a).any (fun t => dieDown s (dieTile t) && endTile b != some t)

/-- A frame that asks something of its destination, so that it completes with an error where it cannot get there. -/
def asksEnd (b : FBody) : Bool := kindOf b = 0 || kindOf b = 5 || kindOf b = 7

/-- A die link that no longer carries traffic lies on the way of the frame: out of a SEVERED tile, or, for a frame that nothing answers,
into one. An ERROR frame stands for what the link no longer brings (R389; DEDUCED, log 86). -/
def frameCut (s : State) (f : Frame) : Bool :=
  kindOf f.body != 10 && (cutFrom s f.src f.dst || (cutFrom s f.dst f.src && !asksEnd f.body))

/-- The frame at place `j` may arrive: no earlier frame holds it back, and the links on its way carry it. -/
def arrives (s : State) (j : Nat) : Option Frame :=
  match s.mesh[j]? with
  | none => none
  | some f => if (s.mesh.take j).any (fun g => holdsBack g f) || frameCut s f then none else some f

/-- The mesh without the frame at place `j`. -/
def dropFrame (s : State) (j : Nat) : State := { s with mesh := dropAt s.mesh j }

/-- The frame at place `j` has reached its destination: it leaves the mesh, and its flits are counted on the boundary hops of
its path (R260). -/
def takeFrame (s : State) (j : Nat) : State :=
  match s.mesh[j]? with
  | none => s
  | some f => dropFrame (countFrame s f) j

/-- Mesh class of an inbox class (0 REQ, 1 RSP, 2 CTRL; Table 10.2). -/
def meshClass (cls : Nat) : Nat := if cls = 0 then 2 else if cls = 1 then 3 else 0

/-- The end that a message ID names, for a partition (Table 3.14). -/
def endOfId (s : State) (p : PartId) (id : BitVec 16) : Option End :=
  let n := id.toNat
  if n < 0x200 then (coreOfPcn (maskOf s p) (n / 4)).map (fun k => .ctx k (Fin.ofNat 4 (n % 4)))
  else if 0x400 ≤ n ∧ n ≤ 0x407 then some (.host p (n - 0x400))
  else if n = 0x410 ∨ n = 0x411 then some (.guest (n - 0x410))
  else none

/-- Traffic to the end is absorbed (R383). -/
def absorbed (s : State) (e : End) : Bool :=
  match endPart s e with
  | some p => partResetting s p
  | none => false

/-! ### The sender's message unit (R248) -/

def findPair (m : Core) (c : CtxId) (dst : BitVec 16) (cls : Nat) : Option SendPair :=
  m.pairs.find? (fun p => p.ctx = c && p.dst = dst && p.cls = cls)

def pairStopped (m : Core) (c : CtxId) (dst : BitVec 16) (cls : Nat) : Bool :=
  match findPair m c dst cls with
  | some p => p.stopped
  | none => false

def pairEpoch (m : Core) (c : CtxId) (dst : BitVec 16) (cls : Nat) : Bool :=
  match findPair m c dst cls with
  | some p => p.epoch
  | none => false

/-- Updates a pair, adding it with epoch 0 where it is new. -/
def modPair (m : Core) (c : CtxId) (dst : BitVec 16) (cls : Nat) (f : SendPair → SendPair) : Core :=
  let p := (findPair m c dst cls).getD ⟨c, dst, cls, false, false⟩
  { m with pairs := f p :: m.pairs.filter (fun q => !(q.ctx = c && q.dst = dst && q.cls = cls)) }

/-- The request of a MESH OUT stream whose message has entered the mesh waits for nothing more (R144). -/
def reqEntered (s : State) (k : CoreId) (req : Option Nat) : State :=
  match req with
  | none => s
  | some i => modCore s k (fun x => { x with reqs := updIf (fun r => r.id = i) (fun r => { r with waits := 0 }) x.reqs })

/-- Injects one kept message, unless its pair is stopped; its payload is metered (R259). -/
def injectMsg (s : State) (k : CoreId) (m : OutMsg) : State :=
  if pairStopped (getCore s k) m.ctx m.dst m.cls then s
  else
    match partOfCore s k with
    | none => s
    | some p =>
      match endOfId s p m.dst with
      | none => s
      | some d =>
        addMeter (meshSend (reqEntered s k m.req) ⟨.ctx k m.ctx, d, meshClass m.cls,
          .msg m.id (ctxMsgId s k m.ctx) m.dst m.tag (pairEpoch (getCore s k) m.ctx m.dst m.cls) m.payload⟩) p 9 m.payload.length

/-- A new message enters the outbound buffer and the mesh. -/
def sendMsg (s : State) (k : CoreId) (c : CtxId) (dst tag : BitVec 16) (cls : Nat) (payload : List Byte) (req : Option Nat := none) : State :=
  let m : OutMsg := ⟨(getCore s k).nextId, c, dst, tag, cls, payload, req⟩
  injectMsg (modCore s k (fun x => { x with nextId := x.nextId + 1, outbox := x.outbox ++ [m] })) k m

/-- An ACK or ERROR frees the message's space. -/
def freeMsg (s : State) (k : CoreId) (id : Nat) : State :=
  modCore s k (fun x => { x with outbox := x.outbox.filter (fun m => m.id != id) })

/-! ### Inbox admission (R247, R248) -/

def quarterUsed (s : State) (k : CoreId) (c : CtxId) (ctrl : Bool) : Nat :=
  (((vget (getCore s k).inbox c).filter (fun m => (m.cls == 2) == ctrl)).map (fun m => m.payload.length)).foldl (· + ·) 0

/-- Free bytes of the quarter for a class (R76). -/
def quarterFree (s : State) (k : CoreId) (c : CtxId) (cls : Nat) : Nat :=
  if cls = 2 then 8192 - quarterUsed s k c true else 57344 - quarterUsed s k c false

def findMark (m : Core) (c : CtxId) (sender : BitVec 16) (cls : Nat) : Option RefMark :=
  m.marks.find? (fun x => x.ctx = c && x.sender = sender && x.cls = cls)

def setMark (m : Core) (x : RefMark) : Core :=
  { m with marks := x :: m.marks.filter (fun y => !(y.ctx = x.ctx && y.sender = x.sender && y.cls = x.cls)) }

/-- The class number of a mesh class for the inbox. -/
def inboxClass (cls : Nat) : Nat := if cls = 2 then 0 else if cls = 3 then 1 else 2

/-- The refusal of a message: the pair is marked, a REFUSE returns. -/
def refuseMsg (s : State) (k : CoreId) (c : CtxId) (src : End) (id : Nat) (sender : BitVec 16) (cls : Nat) (epoch : Bool) : State :=
  let s1 := modCore s k (fun m => setMark m ⟨c, sender, cls, true, epoch⟩)
  let s2 := modMeshTile s1 (tileOfCore k) (fun t => { t with evRefuse := true, refuses := t.refuses + 1 })
  meshSend s2 ⟨.ctx k c, src, 0, .refuse id cls epoch⟩

/-- A message is written into the quarter, behind the others. -/
def enterInbox (s : State) (k : CoreId) (c : CtxId) (sender tag : BitVec 16) (cls : Nat) (payload : List Byte) : State :=
  let bs := inboxRoom (getCore s k) c (cls == 2) (payload.length / 64)
  writeSofts (modCore s k (fun x => { x with inbox := vmod x.inbox c (· ++ [⟨sender, tag, cls, payload, bs⟩]) })) k .inbox bs

/-- A MSG arrives at a context's quarter. -/
def admitMsg (s : State) (k : CoreId) (c : CtxId) (src : End) (id : Nat) (sender tag : BitVec 16) (cls : Nat) (epoch : Bool)
    (payload : List Byte) : State :=
  let p := (getRegion s (regionOf k)).power
  let s := wakeRegion s (regionOf k)
  match findMark (getCore s k) c sender cls with
  | some m =>
    if m.refusing then refuseMsg s k c src id sender cls epoch
    else if m.epoch != epoch then s
    else if (p == .awake || p == .dozing) && payload.length ≤ quarterFree s k c cls then
      meshSend (enterInbox s k c sender tag cls payload) ⟨.ctx k c, src, 0, .ack id⟩
    else refuseMsg s k c src id sender cls epoch
  | none =>
    if (p == .awake || p == .dozing) && payload.length ≤ quarterFree s k c cls then
      meshSend (enterInbox s k c sender tag cls payload) ⟨.ctx k c, src, 0, .ack id⟩
    else refuseMsg s k c src id sender cls epoch

/-! ### Sync units (R250 to R253) -/

def getObj (s : State) (r : RegionId) (o : Nat) : SyncObj := tget SyncObj.reset (getRegion s r).objs o
def setObj (s : State) (r : RegionId) (o : Nat) (x : SyncObj) : State := modRegion s r (fun g => { g with objs := tset g.objs o x })

/-- The outcome of a wait, where it is satisfied (Table 3.13; R252: a sticky state takes precedence). -/
def syncOutcome (x : SyncObj) (threshold : W32) : Option W64 :=
  match x.state with
  | .aborted => some (x.record ++ (1 : W32))
  | .cancelled => some 2
  | _ => if threshold ≤ x.count then some 0 else none

def stateCode : SState → Nat
  | .armed => 0
  | .done => 1
  | .aborted => 2
  | .cancelled => 3

/-- The outcome byte of a completion message (R253). -/
def noticeCode : SState → Nat
  | .aborted => 1
  | .cancelled => 2
  | _ => 0

/-- The notify slot fires: it is disarmed, and a SYNC_REPLY goes to the context that armed it (R253). -/
def fireNotify (s : State) (r : RegionId) (o : Nat) : State :=
  let x := getObj s r o
  match x.notify with
  | none => s
  | some n =>
    let s1 := setObj s r o { x with notify := none }
    let h := match partOfRegion s r with | some p => objHandle (maskOf s p) r o | none => 0
    meshSend s1 ⟨.sync r, .ctx n.core n.ctx, 1, .notice h (noticeCode x.state) x.record n.dst n.tag⟩

/-- Evaluates the registered waits on an object: the satisfied ones leave, and their outcomes go out in order (R252). -/
def evalWaits (s : State) (r : RegionId) (o : Nat) : State :=
  let x := getObj s r o
  let ws := (getRegion s r).waits
  let hit := ws.filter (fun w => w.obj = o && (syncOutcome x w.threshold).isSome)
  let s1 := modRegion s r (fun g => { g with waits := ws.filter (fun w => !(w.obj = o && (syncOutcome x w.threshold).isSome)) })
  hit.foldl (fun a w => meshSend a ⟨.sync r, .ctx w.core w.ctx, 1, .syncReply ((syncOutcome x w.threshold).getD 0) w.seq⟩) s1

/-- The sync unit has performed an operation on an object. -/
def syncDone (s : State) (r : RegionId) (o : Nat) : State :=
  evalWaits (modRegion s r (fun g => { g with syncOps := g.syncOps + 1 })) r o

/-- ADD n (Table 10.5). -/
def syncAdd (s : State) (r : RegionId) (o : Nat) (n : W32) : State :=
  let x := getObj s r o
  let c := x.count + n
  if x.state = .armed && x.target ≤ c then
    syncDone (fireNotify (setObj s r o { x with count := c, state := .done }) r o) r o
  else syncDone (setObj s r o { x with count := c }) r o

/-- ARM t, notify. -/
def syncArm (s : State) (r : RegionId) (o : Nat) (t : W32) (n : Option Notify) : State :=
  if t = 0 then syncDone (fireNotify (setObj s r o ⟨0, 0, .done, 0, n⟩) r o) r o
  else syncDone (setObj s r o ⟨0, t, .armed, 0, n⟩) r o

/-- ABORT r. -/
def syncAbort (s : State) (r : RegionId) (o : Nat) (record : W32) : State :=
  let x := getObj s r o
  if x.state = .aborted || x.state = .cancelled then syncDone s r o
  else syncDone (fireNotify (setObj s r o { x with state := .aborted, record := record }) r o) r o

/-- CANCEL. -/
def syncCancel (s : State) (r : RegionId) (o : Nat) : State :=
  let x := getObj s r o
  if x.state = .aborted || x.state = .cancelled then syncDone s r o
  else syncDone (fireNotify (setObj s r o { x with state := .cancelled }) r o) r o

/-- WAIT n: registers a wait and evaluates it. A newer wait of the same context takes the place of one it abandoned. -/
def syncWait (s : State) (r : RegionId) (w : SyncWait) : State :=
  syncDone (modRegion s r (fun g =>
    { g with waits := g.waits.filter (fun x => !(x.core = w.core && x.ctx = w.ctx)) ++ [w] })) r w.obj

/-- The ERROR frame that a registered wait receives where its frame is discarded (R244, R383, R389). -/
def waitFail (s : State) (f : Frame) : State :=
  match f.body with
  | .syncWait _ _ _ _ q => meshSend s ⟨f.dst, f.src, 0, .waitError q⟩
  | _ => s

/-- A SYNC_OP frame reaches its sync unit; the frames of a partition under reset, or of a severed tile, are
discarded (R383, R389). -/
def syncOp (s : State) (j : Nat) (run : State → RegionId → FBody → Option State) : State :=
  match arrives s j with
  | some ⟨src, .sync r, cls, b⟩ =>
    match run (takeFrame s j) r b with
    | none => s
    | some s' => if absorbed s (.sync r) || cutFrom s (.sync r) src then waitFail (takeFrame s j) ⟨src, .sync r, cls, b⟩ else s'
  | _ => s

/-- The task whose add a frame carries has completed. -/
def noteTaskAdd (s : State) (f : Frame) : State :=
  match f.src, f.body with
  | .ctx k _, .taskAdd _ id => taskDone s k id
  | _, _ => s

/-- SYNC_OP_ADD: an ADD of an instruction or a transfer, or the add of a task, which then has completed (R78). -/
def execSyncOpAdd (j : Nat) (s : State) : Host.Outcome State Fault Refusal :=
  let t := syncOp s j (fun s r b => match b with | .syncAdd o n => some (syncAdd s r o n) | .taskAdd o _ => some (syncAdd s r o 1) | _ => none)
  .next (match arrives s j with | some f => noteTaskAdd t f | none => t)
def execSyncOpArm (j : Nat) (s : State) : Host.Outcome State Fault Refusal :=
  .next (syncOp s j (fun s r b => match b with | .syncArm o t n => some (syncArm s r o t n) | _ => none))
def execSyncOpAbort (j : Nat) (s : State) : Host.Outcome State Fault Refusal :=
  .next (syncOp s j (fun s r b => match b with | .syncAbort o x => some (syncAbort s r o x) | _ => none))
def execSyncOpCancel (j : Nat) (s : State) : Host.Outcome State Fault Refusal :=
  .next (syncOp s j (fun s r b => match b with | .syncCancel o => some (syncCancel s r o) | _ => none))
def execSyncOpWait (j : Nat) (s : State) : Host.Outcome State Fault Refusal :=
  .next (syncOp s j (fun s r b => match b with | .syncWait o k c t q => some (syncWait s r ⟨k, c, o, t, q⟩) | _ => none))

/-! ### What a SYNC_REPLY does at its context (R249, R252, R253) -/

/-- The payload of a completion message (R253). -/
def noticePayload (h : W32) (outcome : Nat) (record : W32) : List Byte :=
  leBytes 4 h.toNat ++ leBytes 4 outcome ++ leBytes 4 record.toNat ++ List.replicate 52 0

/-- The message unit sends a completion message. It sends at once in an Awake region; otherwise the region wakes and the
sending waits in the unit until it is Awake. -/
def sendNotice (s : State) (k : CoreId) (c : CtxId) (dst tag : BitVec 16) (payload : List Byte) : State :=
  if (getRegion s (regionOf k)).power == .awake then sendMsg s k c dst tag 1 payload
  else modCore s k (fun m => { m with notices := m.notices ++ [⟨0, c, dst, tag, 1, payload, none⟩] })

def syncReply (s : State) (k : CoreId) (c : CtxId) (b : FBody) : Option State :=
  match b with
  | .syncReply o q =>
    let s1 := wakeRegion s (regionOf k)
    let x := getCtx s1 k c
    some (if x.st = .blocked && x.wait = .sync && x.syncSeq = q then modCtx s1 k c (fun y => { y with syncOut := some o }) else s1)
  | .notice h o r dst tag => some (sendNotice (wakeRegion s (regionOf k)) k c dst tag (noticePayload h o r))
  | _ => none

def execSyncReply (j : Nat) (s : State) : Host.Outcome State Fault Refusal :=
  match arrives s j with
  | some ⟨_, .ctx k c, _, b⟩ =>
    match syncReply (takeFrame s j) k c b with
    | none => .next s
    | some s' => .next (if absorbed s (.ctx k c) then takeFrame s j else s')
  | _ => .next s

end Sys2Proof.Machine
end

