-- ==== Sys2Proof/Machine/Scalar.lean ====
section
/-!
DEFINITION. The scalar and branch instructions (03_cores.md, Tables 3.8 and 3.9), and the issue slot's switch (R64).
-/

namespace Sys2Proof.Machine

/-! ### NOP, and the words that no table lists (R69) -/

/-- The class and OP of a word are listed in Tables 3.8 to 3.13. -/
def opListed (w : BitVec 64) : Bool :=
  let cls := w.toNat / 2 ^ 61
  let op := (w.toNat / 2 ^ 52) % 512
  let opL := (w.toNat / 2 ^ 56) % 32
  if cls = 0 then op ≤ 0xE || (0x40 ≤ op && op ≤ 0x42) || (0x80 ≤ op && op ≤ 0x8F)
  else if cls = 1 then
    op = 1 || (5 ≤ op && op ≤ 0xC) || (0x20 ≤ op && op ≤ 0x23) || op = 0x30 || op = 0x31
  else if cls = 2 then opL = 1 || opL = 2
  else if cls = 3 then (1 ≤ op && op ≤ 6) || op = 0x10 || op = 0x11
  else if cls = 4 then 0x100 ≤ op && op ≤ 0x106
  else if cls = 5 then
    (0x180 ≤ op && op ≤ 0x188) || (0x1A0 ≤ op && op ≤ 0x1A4) || (0x1C0 ≤ op && op ≤ 0x1C2) || (0x1E0 ≤ op && op ≤ 0x1E7)
  else false

/-- The word's class and OP are NOP's. -/
def isNopWord (w : BitVec 64) : Bool := w.toNat / 2 ^ 52 = 0

/-- NOP: the all-zero word. A word that no table lists, or NOP's OP with a field that is not zero, is ILLEGAL (R69). A word
whose OP another instruction has is that instruction's and no NOP: no event. -/
def execNop (k : CoreId) (w : BitVec 64) (s : State) : Out :=
  if opListed w && !isNopWord w then .next s
  else .next (runInstr k (fun _ s => if w = 0 then .done s else iFault s .illegal) s)

/-! ### Register arithmetic -/

/-- g[D] := op g[A] g[B]. -/
def aluR (k : CoreId) (f : FieldsR) (op : W64 → W64 → W64) (s : State) : Out :=
  .next (runInstr k (fun c s =>
    if okR f true true true false 0 then .done (setG s k c f.d (op (gOf s k c f.a) (gOf s k c f.b)))
    else iFault s .illegal) s)

/-- g[D] := op g[A] sext(IMM32). -/
def aluI (k : CoreId) (f : FieldsI) (op : W64 → W64 → W64) (s : State) : Out :=
  .next (runInstr k (fun c s =>
    if okI f false then .done (setG s k c f.d (op (gOf s k c f.a) (f.imm.signExtend 64))) else iFault s .illegal) s)

def opMulhu (a b : W64) : W64 := BitVec.ofNat 64 (a.toNat * b.toNat / 2 ^ 64)
def opShl (a b : W64) : W64 := a <<< (b.toNat % 64)
def opShr (a b : W64) : W64 := a >>> (b.toNat % 64)
def opSra (a b : W64) : W64 := a.sshiftRight (b.toNat % 64)
def opSlt (a b : W64) : W64 := if a.slt b then 1 else 0
def opSltu (a b : W64) : W64 := if a.ult b then 1 else 0
def opMin (a b : W64) : W64 := if a.slt b then a else b
def opMax (a b : W64) : W64 := if a.slt b then b else a

def execAdd (k : CoreId) (f : FieldsR) (s : State) : Out := aluR k f (· + ·) s
def execSub (k : CoreId) (f : FieldsR) (s : State) : Out := aluR k f (· - ·) s
def execMul (k : CoreId) (f : FieldsR) (s : State) : Out := aluR k f (· * ·) s
def execMulhu (k : CoreId) (f : FieldsR) (s : State) : Out := aluR k f opMulhu s
def execAndR (k : CoreId) (f : FieldsR) (s : State) : Out := aluR k f (· &&& ·) s
def execOrR (k : CoreId) (f : FieldsR) (s : State) : Out := aluR k f (· ||| ·) s
def execXor (k : CoreId) (f : FieldsR) (s : State) : Out := aluR k f (· ^^^ ·) s
def execShl (k : CoreId) (f : FieldsR) (s : State) : Out := aluR k f opShl s
def execShr (k : CoreId) (f : FieldsR) (s : State) : Out := aluR k f opShr s
def execSra (k : CoreId) (f : FieldsR) (s : State) : Out := aluR k f opSra s
def execSlt (k : CoreId) (f : FieldsR) (s : State) : Out := aluR k f opSlt s
def execSltu (k : CoreId) (f : FieldsR) (s : State) : Out := aluR k f opSltu s
def execMinR (k : CoreId) (f : FieldsR) (s : State) : Out := aluR k f opMin s
def execMaxR (k : CoreId) (f : FieldsR) (s : State) : Out := aluR k f opMax s

def execAddi (k : CoreId) (f : FieldsI) (s : State) : Out := aluI k f (· + ·) s
def execAndi (k : CoreId) (f : FieldsI) (s : State) : Out := aluI k f (· &&& ·) s
def execOri (k : CoreId) (f : FieldsI) (s : State) : Out := aluI k f (· ||| ·) s
def execXori (k : CoreId) (f : FieldsI) (s : State) : Out := aluI k f (· ^^^ ·) s
def execShli (k : CoreId) (f : FieldsI) (s : State) : Out := aluI k f opShl s
def execShri (k : CoreId) (f : FieldsI) (s : State) : Out := aluI k f opShr s
def execSrai (k : CoreId) (f : FieldsI) (s : State) : Out := aluI k f opSra s
def execSlti (k : CoreId) (f : FieldsI) (s : State) : Out := aluI k f opSlt s
def execSltui (k : CoreId) (f : FieldsI) (s : State) : Out := aluI k f opSltu s

/-- TSET: t[D] := g[B] above g[A], unchecked (R68). -/
def execTset (k : CoreId) (f : FieldsR) (s : State) : Out :=
  .next (runInstr k (fun c s =>
    if okR f true true true false 0 && vtOk f.d then
      .done (modCtx s k c (fun x => tSet x f.d.toNat (gGet x f.b ++ gGet x f.a)))
    else iFault s .illegal) s)

/-- TGET: a half of t[A], by MOD bit 0. -/
def execTget (k : CoreId) (f : FieldsR) (s : State) : Out :=
  .next (runInstr k (fun c s =>
    if okR f true true false false 1 && vtOk f.a then
      let t := tGet (getCtx s k c) f.a.toNat
      .done (setG s k c f.d (if f.mod = 1 then t.extractLsb' 64 64 else t.extractLsb' 0 64))
    else iFault s .illegal) s)

/-- RDID: the item of MOD[1:0]. -/
def execRdid (k : CoreId) (f : FieldsR) (s : State) : Out :=
  .next (runInstr k (fun c s =>
    if okR f true false false false 3 then
      let n := regionCount (coreMask s k)
      let v := if f.mod = 0 then corePcn s k else if f.mod = 1 then c.val else if f.mod = 2 then n else 4 * n
      .done (setG s k c f.d (BitVec.ofNat 64 v))
    else iFault s .illegal) s)

/-- LI: g[D] := sext(IMM48). -/
def execLi (k : CoreId) (f : FieldsL) (s : State) : Out :=
  .next (runInstr k (fun c s =>
    if okL f then .done (setG s k c f.d (f.imm.signExtend 64)) else iFault s .illegal) s)

/-- LIH: g[D][63:16] := IMM48. -/
def execLih (k : CoreId) (f : FieldsL) (s : State) : Out :=
  .next (runInstr k (fun c s =>
    if okL f then .done (setG s k c f.d (f.imm ++ (gOf s k c f.d).setWidth 16)) else iFault s .illegal) s)

/-! ### Local loads and stores (R66, R69) -/

/-- The fault of a local access of `n` bytes aligned to `al`, or its space and address (R69, R61, R422). -/
def localAccess (s : State) (k : CoreId) (c : CtxId) (f : FieldsI) (legal : Bool) (spMax : Nat) (n al : Nat) :
    Except FCls (Space × Nat) :=
  let a := (effAddr (getCtx s k c) f).toNat
  match spaceOf f.sp with
  | none => .error .illegal
  | some sp =>
    match firstFault [(!(legal && okI f true && f.sp.toNat ≤ spMax), .illegal), (a % al != 0, .align),
                      (spaceSize sp < a + n, .range), (sp == .opbuf && bufForeign s k c a n, .bufOwner)] with
    | some e => .error e
    | none => .ok (sp, a)

/-- The first block of a range whose data cannot be used, as the offset that MEM_UNCORR reports (R372). -/
def badBlock (m : PMem) (a n : Nat) : Nat :=
  (((blocksOf a n).find? (fun b => blkDiff m b != 0)).getD (a / 64)) * 64

/-- A local load: `fin` puts the bytes where they go. Data that fails its check gives MEM_UNCORR (R162). -/
def loadLocal (k : CoreId) (f : FieldsI) (legal : Bool) (spMax n al : Nat) (fin : Ctx → List Byte → Ctx) (s : State) : Out :=
  .next (runInstr k (fun c s =>
    match localAccess s k c f legal spMax n al with
    | .error e => iFault s e
    | .ok (sp, a) =>
      match readLocal s k sp a n with
      | (s', some bs) => .done (modCtx s' k c (fun x => fin x bs))
      | (s', none) =>
        .fault s' .memUncorr (BitVec.ofNat 16 (spaceKind sp)) (BitVec.ofNat 64 (badBlock (getSpace s' k sp) a n))) s)

/-- A local store of the bytes that `src` gives. -/
def storeLocal (k : CoreId) (f : FieldsI) (legal : Bool) (n al : Nat) (src : Ctx → List Byte) (s : State) : Out :=
  .next (runInstr k (fun c s =>
    match localAccess s k c f legal 1 n al with
    | .error e => iFault s e
    | .ok (sp, a) => .done (writeLocal s k sp a (src (getCtx s k c)))) s)

def execLd (k : CoreId) (f : FieldsI) (s : State) : Out :=
  loadLocal k f true 2 8 8 (fun x bs => gSet x f.d (BitVec.ofNat 64 (leNat bs))) s
def execLdw (k : CoreId) (f : FieldsI) (s : State) : Out :=
  loadLocal k f true 2 4 4 (fun x bs => gSet x f.d (BitVec.ofNat 64 (leNat bs))) s
def execSt (k : CoreId) (f : FieldsI) (s : State) : Out :=
  storeLocal k f true 8 8 (fun x => leBytes 8 (gGet x f.d).toNat) s
def execStw (k : CoreId) (f : FieldsI) (s : State) : Out :=
  storeLocal k f true 4 4 (fun x => leBytes 4 (gGet x f.d).toNat) s
def execVld (k : CoreId) (f : FieldsI) (s : State) : Out :=
  loadLocal k f (vtOk f.d) 1 1024 64 (fun x bs => vSet x f.d (BitVec.ofNat 8192 (leNat bs))) s
def execVst (k : CoreId) (f : FieldsI) (s : State) : Out :=
  storeLocal k f (vtOk f.d) 1024 64 (fun x => leBytes 1024 (vGet x f.d).toNat) s

/-! ### Branches (Table 3.9) -/

/-- The fault of a branch target: ALIGN unless a multiple of 8, RANGE outside 64 to 0x3_FFF8. -/
def targetFault (t : W64) : Option FCls :=
  firstFault [(t.toNat % 8 != 0, .align), (t.toNat < 64 || 0x3FFF8 < t.toNat, .range)]

/-- pc + 8 × DISP. -/
def branchTarget (base : W64) (f : FieldsB) : W64 := base + 8 * f.disp.signExtend 64

/-- A conditional branch: only a taken branch looks at its target. -/
def branchIf (k : CoreId) (f : FieldsB) (p : W64 → W64 → Bool) (s : State) : Out :=
  .next (runInstr k (fun c s =>
    let x := getCtx s k c
    let t := branchTarget (x.pc.setWidth 64) f
    if !okB f true then iFault s .illegal
    else if p (gGet x f.a) (gGet x f.b) then
      match targetFault t with
      | some e => iFault s e
      | none => .jump s (t.setWidth 18)
    else .done s) s)

def execBeq (k : CoreId) (f : FieldsB) (s : State) : Out := branchIf k f (fun a b => a == b) s
def execBne (k : CoreId) (f : FieldsB) (s : State) : Out := branchIf k f (fun a b => a != b) s
def execBlt (k : CoreId) (f : FieldsB) (s : State) : Out := branchIf k f (fun a b => a.slt b) s
def execBge (k : CoreId) (f : FieldsB) (s : State) : Out := branchIf k f (fun a b => !a.slt b) s
def execBltu (k : CoreId) (f : FieldsB) (s : State) : Out := branchIf k f (fun a b => a.ult b) s
def execBgeu (k : CoreId) (f : FieldsB) (s : State) : Out := branchIf k f (fun a b => !a.ult b) s

/-- JAL: g[A] := pc + 8; pc := pc + 8 × DISP. -/
def execJal (k : CoreId) (f : FieldsB) (s : State) : Out :=
  .next (runInstr k (fun c s =>
    let x := getCtx s k c
    let t := branchTarget (x.pc.setWidth 64) f
    if !okB f false then iFault s .illegal
    else match targetFault t with
      | some e => iFault s e
      | none => .jump (setG s k c f.a (x.pc.setWidth 64 + 8)) (t.setWidth 18)) s)

/-- JR: pc := g[A] + 8 × DISP. -/
def execJr (k : CoreId) (f : FieldsB) (s : State) : Out :=
  .next (runInstr k (fun c s =>
    let t := branchTarget (gOf s k c f.a) f
    if !okB f false then iFault s .illegal
    else match targetFault t with
      | some e => iFault s e
      | none => .jump s (t.setWidth 18)) s)

/-! ### The issue slot passes on (R64) -/

/-- CONTEXT_SWITCH: with no holder, the slot goes to the next READY context in rotation. Every grant of the slot counts
in CORE_SWITCH, also one to the context that held it last (DESIGN CHOICE, log 88). -/
def execContextSwitch (k : CoreId) (s : State) : Out :=
  match runningCtx s k with
  | some _ => .next s
  | none =>
    if !coreClocked s k then .next s
    else
      match nextReady s k with
      | none => .next s
      | some c =>
        .next (modCore (modCtx s k c (fun x => { x with st := .running, wait := .none })) k
          (fun m => { m with switches := m.switches + 1 }))

end Sys2Proof.Machine
end

