-- ==== Sys2Proof/Machine/SysInstr.lean ====
section
/-!
DEFINITION. The sync, message and system instructions (03_cores.md, Table 3.13, R72 to R80).
-/

namespace Sys2Proof.Machine

/-! ### Sync instructions (R72, R250 to R254) -/

/-- An instruction on the object that g[A] names: ILLEGAL, then `pre` (MSG_ID of SYNC_ARM), RANGE, SYNC_OWNER (R422). -/
def onObject (k : CoreId) (f : FieldsS) (legal : Bool) (pre : CtxId → State → Bool)
    (run : CtxId → RegionId → Nat → State → IRes) (s : State) : Out :=
  .next (runInstr k (fun c s =>
    let h := gOf s k c f.a
    match firstFault [(!legal, .illegal), (pre c s, .msgId), (handleBad s k h, .range), (handleForeign s k h, .syncOwner)] with
    | some e => iFault s e
    | none =>
      match handleObj (coreMask s k) h.toNat with
      | none => iFault s .range
      | some (r, o) => run c r o s) s)

/-- SYNC_ADD: count += g[B] + IMM16. -/
def execSyncAdd (k : CoreId) (f : FieldsS) (s : State) : Out :=
  onObject k f (okS f true true false false 0xFFFF) (fun _ _ => false)
    (fun c r o s => .done (sendSync s k c r (.syncAdd o ((gOf s k c f.b).setWidth 32 + f.imm.setWidth 32)))) s

/-- No sync operation of the context to the region is on its way, so the first check of R252 may read the object. -/
def syncQuiet (s : State) (k : CoreId) (c : CtxId) (r : RegionId) : Bool :=
  !s.mesh.any (fun g => g.src == .ctx k c && g.dst == .sync r && g.cls == 1)

/-- SYNC_WAIT: completes with an outcome that a SYNC_REPLY brought, or with that of the first check; else it registers its
wait and blocks. DEDUCED (log 12): the first check takes its turn after the context's own earlier operations. -/
def execSyncWait (k : CoreId) (f : FieldsS) (s : State) : Out :=
  onObject k f (okS f true true true false 0) (fun _ _ => false)
    (fun c r o s =>
      match (getCtx s k c).syncOut with
      | some v => .done (setG (modCtx s k c (fun x => { x with syncOut := none })) k c f.c v)
      | none =>
        let t := (gOf s k c f.b).setWidth 32
        match (if syncQuiet s k c r then syncOutcome (getObj s r o) t else none) with
        | some v => .done (setG s k c f.c v)
        | none =>
          let q := (getCtx s k c).syncSeq + 1
          .wait (sendSync (modCtx s k c (fun x => { x with syncSeq := q })) k c r (.syncWait o k c t q)) .sync) s

/-- SYNC_ARM: count 0, target g[B]; with C ≠ 0 a completion message to g[C] with TAG. -/
def execSyncArm (k : CoreId) (f : FieldsS) (s : State) : Out :=
  onObject k f (okS f true true true true 0) (fun c s => f.c != 0 && !ctxIdOk s k (gOf s k c f.c))
    (fun c r o s =>
      let n := if f.c = 0 then none else some (Notify.mk k c ((gOf s k c f.c).setWidth 16) f.tag)
      .done (sendSync s k c r (.syncArm o ((gOf s k c f.b).setWidth 32) n))) s

/-- SYNC_ABORT: RECORD becomes 0xFFFF_FFFF (Table 10.4). -/
def execSyncAbort (k : CoreId) (f : FieldsS) (s : State) : Out :=
  onObject k f (okS f true false false false 0) (fun _ _ => false)
    (fun c r o s => .done (sendSync s k c r (.syncAbort o 0xFFFFFFFF))) s

def execSyncCancel (k : CoreId) (f : FieldsS) (s : State) : Out :=
  onObject k f (okS f true false false false 0) (fun _ _ => false)
    (fun c r o s => .done (sendSync s k c r (.syncCancel o))) s

/-! ### Messages (R73 to R75) -/

/-- The operand-buffer bytes lie within the space (R34). -/
def opbufIn (a n : Nat) : Bool := a + n ≤ 0x600000

/-- SEND: MSG_ID, MSG_SIZE, RANGE, BUF_OWNER; waits for room; then the payload is copied and injected. -/
def execSend (k : CoreId) (f : FieldsS) (s : State) : Out :=
  .next (runInstr k (fun c s =>
    let id := gOf s k c f.a
    let a := (gOf s k c f.b).toNat
    let n := (gOf s k c f.c).toNat
    match firstFault [(!okS f true true true true 1, .illegal), (!sendIdOk s k id, .msgId),
                      (n % 64 != 0 || n < 64 || 4096 < n, .msgSize), (!opbufIn a n, .range),
                      (bufForeign s k c a n, .bufOwner)] with
    | some e => iFault s e
    | none =>
      if !outRoom s k n then .wait s (.send n)
      else
        match readLocal s k .opbuf a n with
        | (s', some bs) => .done (sendMsg s' k c (id.setWidth 16) f.tag f.imm.toNat bs)
        | (s', none) => .fault s' .memUncorr 1 (BitVec.ofNat 64 (badBlock (getSpace s' k .opbuf) a n))) s)

/-- RECV: takes the oldest matching message; without one it waits. A message that can no longer be corrected gives MEM_UNCORR and
stays (R79, R162). A class of 3 is not one of R75's and is ILLEGAL
(DEDUCED, log 13). -/
def execRecv (k : CoreId) (f : FieldsS) (s : State) : Out :=
  .next (runInstr k (fun c s =>
    let id := gOf s k c f.a
    let a := (gOf s k c f.b).toNat
    let cls := f.imm.toNat
    match firstFault [(!okS f true true true true 3 || cls == 3, .illegal), (!recvIdOk s k id cls, .msgId)] with
    | some e => iFault s e
    | none =>
      match findMsg s k c (id.setWidth 16) f.tag cls with
      | none => .wait s (.recv (id.setWidth 16) f.tag cls)
      | some m =>
        let n := m.payload.length
        match firstFault [(!opbufIn a n, .range), (bufForeign s k c a n, .bufOwner)] with
        | some e => iFault s e
        | none =>
          match touchSofts s k .inbox m.blks with
          | (t, false) => .fault t .memUncorr 4 (BitVec.ofNat 64 (64 * ((m.blks.find? (fun b =>
              decodeSyn (tget 0 (getCore t k).inbDiff b) == .poison)).getD 0)))
          | (t, true) =>
          let s1 := writeLocal t k .opbuf a m.payload
          let s2 := modCore s1 k (fun x => { x with inbox := vmod x.inbox c (fun q => q.eraseP (matchMsg (id.setWidth 16) f.tag cls)) })
          .done (setG s2 k c f.c (BitVec.ofNat 64 n))) s)

/-! ### System instructions -/

/-- The context gives the slot up in a state. -/
def leaveSlot (s : State) (k : CoreId) (c : CtxId) (st : CtxState) (w : Wait) : State :=
  modCore (modCtx s k c (fun x => { x with st := st, wait := w })) k (fun m => { m with lastSlot := c })

/-- HALT: TASK_STATE with a task open. -/
def execHalt (k : CoreId) (f : FieldsS) (s : State) : Out :=
  .next (runInstr k (fun c s =>
    match firstFault [(!okS f false false false false 0, .illegal), ((getCtx s k c).task.isSome, .taskState)] with
    | some e => iFault s e
    | none => .done (leaveSlot s k c .halted .none)) s)

/-- A valid entry is a multiple of 8 from 64 to 0x3_FFF8 (R59). -/
def entryOk (e : Nat) : Bool := e % 8 = 0 && 64 ≤ e && e ≤ 0x3FFF8

/-- CTX_START: CTX_STATE unless the target is HALTED, RANGE unless g[A] is a valid entry. -/
def execCtxStart (k : CoreId) (f : FieldsS) (s : State) : Out :=
  .next (runInstr k (fun c s =>
    let t : CtxId := Fin.ofNat 4 f.imm.toNat
    let e := (gOf s k c f.a).toNat
    match firstFault [(!okS f true false false false 3, .illegal), ((getCtx s k t).st != .halted, .ctxState),
                      (!entryOk e, .range)] with
    | some x => iFault s x
    | none => .done (modCtx s k t (fun y => { y with st := .ready, wait := .none, pc := BitVec.ofNat 18 e }))) s)

/-- TASK_BEGIN: opens a task; waits while the previous one has not received its add (R78). -/
def execTaskBegin (k : CoreId) (f : FieldsS) (s : State) : Out :=
  .next (runInstr k (fun c s =>
    let h := gOf s k c f.a
    match firstFault [(!okS f true false false true 0, .illegal), ((getCtx s k c).task.isSome, .taskState),
                      (handleBad s k h, .range), (handleForeign s k h, .syncOwner)] with
    | some e => iFault s e
    | none =>
      if taskBlocked s k c then .wait s .task
      else
        match handleObj (coreMask s k) h.toNat with
        | none => iFault s .range
        | some (r, o) =>
          let id := (getCore s k).nextId
          let s1 := modCore s k (fun m => { m with nextId := id + 1, tasks := m.tasks ++ [⟨id, c, r, o, f.tag, true, 0, false, [], none⟩] })
          .done (modCtx s1 k c (fun x => { x with task := some id }))) s)

/-- TASK_END: closes the open task; its object receives 1 once its operations have completed (R78). -/
def execTaskEnd (k : CoreId) (f : FieldsS) (s : State) : Out :=
  .next (runInstr k (fun c s =>
    if !okS f false false false false 0 then iFault s .illegal
    else
      match (getCtx s k c).task with
      | none => iFault s .taskState
      | some id =>
        let s1 := modCtx s k c (fun x => { x with task := none })
        .done (taskCheck (modTask s1 k id (fun t => { t with isOpen := false })) k id)) s)

/-- FENCE: waits until the context's earlier local writes are visible (R66). -/
def execFence (k : CoreId) (f : FieldsS) (s : State) : Out :=
  .next (runInstr k (fun c s =>
    if !okS f false false false false 0 then iFault s .illegal
    else if fenceBlocked s k c then .wait s .fence else .done s) s)

/-- FEXIT: leaves handler mode for g[A]; ILLEGAL outside it (R80). The target is held to the rules of a branch target
(DEDUCED, log 14). -/
def execFexit (k : CoreId) (f : FieldsS) (s : State) : Out :=
  .next (runInstr k (fun c s =>
    let t := gOf s k c f.a
    if !okS f true false false false 0 || !(getCtx s k c).handler then iFault s .illegal
    else
      match targetFault t with
      | some e => iFault s e
      | none => .jump (modCtx s k c (fun x => { x with handler := false })) (t.setWidth 18)) s)

/-- YIELD: READY with wait code 9, behind the others for one turn (R64). -/
def execYield (k : CoreId) (f : FieldsS) (s : State) : Out :=
  .next (runInstr k (fun c s =>
    if !okS f false false false false 0 then iFault s .illegal else .done (leaveSlot s k c .ready .yield)) s)

/-- BRK: in debug mode the context becomes HALTED. -/
def execBrk (k : CoreId) (f : FieldsS) (s : State) : Out :=
  .next (runInstr k (fun c s =>
    match firstFault [(!okS f false false false false 0, .illegal), (!debugMode s k, .debugOnly)] with
    | some e => iFault s e
    | none => .done (leaveSlot s k c .halted .none)) s)

end Sys2Proof.Machine
end

