-- ==== Sys2Proof/Machine/Tensor.lean ====
section
/-!
DEFINITION. Tensor instructions at issue (03_cores.md, Table 3.11; 05_accumulation.md, R109 to R117), the grants of R65 under
the tile scoreboard of R111, and the events of the cube array and the epilogue (04_cube_array.md, R92 to R100).
-/

namespace Sys2Proof.Machine

/-! ### At issue -/

/-- The open task of a context, as an operation issued now would belong to it: `some none` outside any task, `none` inside an
aborted one, whose later operations do nothing (R148). -/
def issueTask (s : State) (k : CoreId) (c : CtxId) : Option (Option Nat) :=
  match openTask s k c with
  | none => some none
  | some t => if t.aborted.isSome then none else some (some t.id)

/-- The operand-buffer bytes that an operation reads as cube operands (R94, R222). -/
def opReads : TKind → List (Nat × Nat)
  | .mma _ ta tb _ _ _ => tdRanges (tileDesc ta) ++ tdRanges (tileDesc tb)
  | .attn _ _ b => if atMerge b then [] else [(atQOff b, atQBytes b)]
  | _ => []

/-- Puts an operation into the context's tensor queue (R65), with a hold where it reads operand-buffer bytes (R94). -/
def enqueue (s : State) (k : CoreId) (c : CtxId) (kind : TKind) : IRes :=
  if queueFull s k c then .wait s .queue
  else
    match issueTask s k c with
    | none => .done s
    | some t =>
      let s1 := taskOpBegin s k t
      let id := (getCore s1 k).nextId
      let op : TOp := ⟨id, kind, c, (getCtx s1 k c).pc, t⟩
      let hold := if opReads kind = [] then [] else [⟨id, opReads kind, false, none⟩]
      .done (modCtx (modCore s1 k (fun m => { m with nextId := id + 1, holds := m.holds ++ hold })) k c
        (fun x => { x with queue := x.queue ++ [op] }))

/-- The context owns the tile (R60). -/
def ownsAcc (s : State) (k : CoreId) (c : CtxId) (a : Nat) : Bool := (accOwn s k c).getLsbD a

/-- Some range of operand-buffer bytes reaches a pair of another context (R61). -/
def rangesForeign (s : State) (k : CoreId) (c : CtxId) (rs : List (Nat × Nat)) : Bool := rs.any (fun r => bufForeign s k c r.1 r.2)

/-- What the queued and started operations leave a tile's anchor to be, in program order: whether it is pending, and whether
an operation not yet executed decides that (R109): an ACCWR, or an ATTN, which sets the anchor unless it faults (log 75). -/
def anchorAhead (s : State) (k : CoreId) (c : CtxId) (a : Nat) : Bool × Bool :=
  (tensorOut s k c).foldl (fun (st : Bool × Bool) o =>
    if !(opTiles o.kind).contains a then st
    else
      match o.kind with
      | .accz _ v => (v == -512, false)
      | .accwr .. => (st.1, true)
      | .mma _ _ _ _ _ d => (false, d)
      | .attn .. => (false, true)
      | _ => st) ((vget (getCore s k).tiles (Fin.ofNat 8 a)).anchor.isNone, false)

/-- The anchor that an MMA gives a pending tile (R109): none where it is ILLEGAL. -/
def defaultAnchor (a b : TileDesc) : Option Int :=
  if a.scaled || b.scaled then none
  else
    match leastPlace a.fmt, leastPlace b.fmt with
    | some x, some y => some (x + y)
    | _, _ => none

/-- ACCZ. -/
def execAccz (k : CoreId) (f : FieldsT) (s : State) : Out :=
  .next (runInstr k (fun c s =>
    let a := f.acc.toNat
    match firstFault [(!okT f true false false false false true 0, .illegal), (!ownsAcc s k c a, .accOwner)] with
    | some e => iFault s e
    | none => enqueue s k c (.accz a f.anchor.toInt)) s)

/-- MMA: the descriptors and the pair are checked, and a pending anchor is resolved, at issue (R68, R88, R109, R110). -/
def execMma (k : CoreId) (f : FieldsT) (s : State) : Out :=
  .next (runInstr k (fun c s =>
    let acc := f.acc.toNat
    let ta := tGet (getCtx s k c) f.ta.toNat
    let tb := tGet (getCtx s k c) f.tb.toNat
    let a := tileDesc ta
    let b := tileDesc tb
    let (pend, defer) := anchorAhead s k c acc
    let bad := !okT f true true true false false false 1 || tdIllegal a || tdIllegal b || a.k != b.k || !pairOk a.fmt b.fmt ||
      (a.scaled && !scaledOk a.fmt) || (b.scaled && !scaledOk b.fmt) || (pend && !defer && (defaultAnchor a b).isNone)
    match firstFault [(bad, .illegal), (tdAlign a || tdAlign b, .align), (tdRange a || tdRange b, .range),
                      (!ownsAcc s k c acc, .accOwner), (rangesForeign s k c (tdRanges a ++ tdRanges b), .bufOwner)] with
    | some e => iFault s e
    | none => enqueue s k c (.mma acc ta tb (f.mod == 1) (if pend && !defer then defaultAnchor a b else none) defer)) s)

/-- The epilogue control word (Table 5.5). -/
structure EpiCtl where
  params : Nat
  mode   : Nat
  bias   : Bool
  func   : Nat
  table  : Nat
  stoch  : Bool
  rsv    : Bool
  deriving DecidableEq, Repr

def epiCtl (w : W64) : EpiCtl where
  params := (w.extractLsb' 47 17).toNat * 64
  mode := (w.extractLsb' 44 3).toNat
  bias := w.getLsbD 43
  func := (w.extractLsb' 38 5).toNat
  table := (w.extractLsb' 33 5).toNat
  stoch := w.getLsbD 32
  rsv := w.extractLsb' 0 32 != 0

/-- Table 5.4: the output format and SCALED setting are allowed. -/
def epiFmtOk (f : Nat) (scaled : Bool) : Bool :=
  if scaled then f = 0 || fmtIsNarrow f else f = 0 || f = 2 || f = 3 || f = 7 || f = 8

/-- The TABLE value is allowed for the function (R116). -/
def epiTableOk (m : Core) (func table : Nat) : Bool :=
  if func ≤ 2 then table = 31
  else table = 31 || (table < 16 && (tget (0xFF, []) m.epiRegs.tables table).1 = func)

def modEpi (s : State) (k : CoreId) (f : EpiRegs → EpiRegs) : State := modCore s k (fun m => { m with epiRegs := f m.epiRegs })

/-- EPI: checks at issue (R114 to R117). The RANGE fault of a parameter block is an event (R127). -/
def execEpi (k : CoreId) (f : FieldsT) (s : State) : Out :=
  .next (runInstr k (fun c s =>
    let acc := f.acc.toNat
    let tc := tGet (getCtx s k c) f.tc.toNat
    let d := tileDesc tc
    let w := gOf s k c f.g
    let q := epiCtl w
    let bad := !okT f true false false true true false 0 || tdIllegal d || (d.k != 32 && d.k != 64) || !epiFmtOk d.fmt d.scaled ||
      q.rsv || 4 < q.mode || 9 < q.func || !epiTableOk (getCore s k) q.func q.table
    match firstFault [(bad, .illegal), (tdAlign d, .align), (tdRange d || !opbufIn q.params 64, .range),
                      (!ownsAcc s k c acc, .accOwner), (rangesForeign s k c ((q.params, 64) :: tdRanges d), .bufOwner)] with
    | some .range => iFault (if opbufIn q.params 64 then s else modEpi s k (fun r => { r with evRange := true })) .range
    | some e => iFault s e
    | none => enqueue s k c (.epi acc tc w)) s)

/-- TWAIT: for every operation, or with MOD bit 0 for those naming a[ACC]. -/
def execTwait (k : CoreId) (f : FieldsT) (s : State) : Out :=
  .next (runInstr k (fun c s =>
    if !okT f true false false false false false 1 then iFault s .illegal
    else
      let a := if f.mod = 1 then some f.acc.toNat else none
      if f.mod = 1 && !ownsAcc s k c f.acc.toNat then iFault s .accOwner
      else if twaitBlocked s k c a then .wait s (.tensor a) else .done s) s)

/-- ACCRD and ACCWR at issue: debug mode, and the image within the operand buffer (R113). -/
def accImage (k : CoreId) (f : FieldsT) (kind : Nat → Nat → TKind) (s : State) : Out :=
  .next (runInstr k (fun c s =>
    let acc := f.acc.toNat
    let off := (gOf s k c f.g).toNat
    match firstFault [(!okT f true false false false true false 0, .illegal), (!debugMode s k, .debugOnly),
                      (off % 64 != 0 || !opbufIn off 66624, .range), (!ownsAcc s k c acc, .accOwner),
                      (bufForeign s k c off 66624, .bufOwner)] with
    | some e => iFault s e
    | none => enqueue s k c (kind acc off)) s)

def execAccrd (k : CoreId) (f : FieldsT) (s : State) : Out := accImage k f TKind.accrd s
def execAccwr (k : CoreId) (f : FieldsT) (s : State) : Out := accImage k f TKind.accwr s

/-! ### Grants (R65, R111) -/

/-- The unit an operation runs on: 0 the cube array, 1 the epilogue. The spec names no unit for ACCZ, ACCRD and ACCWR; they
take the cube array's turn (DESIGN CHOICE, log 15). -/
def opUnit : TKind → Nat
  | .epi .. => 1
  | _ => 0

/-- A started operation has not released one of the tiles (R111). -/
def tileHeld (m : Core) (ts : List Nat) : Bool :=
  ((m.passes ++ m.replays).any (fun p => ts.contains p.acc)) ||
  (match m.epi with | some e => !e.released && ts.contains e.acc | none => false) ||
  (match m.attn with | some a => (opTiles a.op.kind).any (fun t => ts.contains t) | none => false)

/-- The first operation of a queue for a unit, unless an earlier one of the queue names one of its tiles. -/
def queueHead (u : Nat) : List TOp → List Nat → Option TOp
  | [], _ => none
  | o :: os, seen =>
    if opUnit o.kind = u then (if (opTiles o.kind).any (fun t => seen.contains t) then none else some o)
    else queueHead u os (seen ++ opTiles o.kind)

/-- What a context could be granted on a unit now. -/
def grantable (s : State) (k : CoreId) (c : CtxId) (u : Nat) : Option TOp :=
  match queueHead u (getCtx s k c).queue [] with
  | none => none
  | some o => if tileHeld (getCore s k) (opTiles o.kind) then none else some o

/-- The unit is free for a grant: no replay waits, no ATTN runs on the array; no EPI runs on the epilogue. -/
def unitFree (m : Core) (u : Nat) : Bool :=
  if u = 0 then m.replays.isEmpty && m.attn.isNone else m.epi.isNone

/-- The next grant of a unit, in rotation over the contexts (R65). -/
def nextGrant (s : State) (k : CoreId) (u : Fin 2) : Option TOp :=
  if !coreClocked s k || !unitFree (getCore s k) u.val then none
  else
    let l := (vget (getCore s k).lastUnit u).val
    ([l + 1, l + 2, l + 3, l].map (fun n => (Fin.ofNat 4 n : CtxId))).findSome? (fun c => grantable s k c u.val)

/-- Takes the granted operation out of its queue. -/
def grant (s : State) (k : CoreId) (u : Fin 2) (o : TOp) : State :=
  modCore (modCtx s k o.ctx (fun x => { x with queue := x.queue.filter (fun y => y.id != o.id) })) k
    (fun m => { m with lastUnit := vset m.lastUnit u o.ctx })

def getTile (s : State) (k : CoreId) (a : Nat) : AccTile := vget (getCore s k).tiles (Fin.ofNat 8 a)
/-- A tile's contents change in place; a poisoned block stays poisoned (R163). -/
def putTile (s : State) (k : CoreId) (a : Nat) (t : AccTile) : State :=
  modCore s k (fun m => { m with tiles := vset m.tiles (Fin.ofNat 8 a) t })
/-- A tile is written whole, with fresh check bits. -/
def setTile (s : State) (k : CoreId) (a : Nat) (t : AccTile) : State :=
  modCore s k (fun m => { m with tiles := vset m.tiles (Fin.ofNat 8 a) t, accDiff := m.accDiff.filter (fun e => e.1 / 1024 != a) })
/-- The anchor of a tile becomes known. -/
def setAnchor (s : State) (k : CoreId) (a : Nat) (v : Int) : State :=
  modCore s k (fun m => { m with tiles := vmod m.tiles (Fin.ofNat 8 a) (fun t => { t with anchor := some v }) })
def modCube (s : State) (k : CoreId) (f : CubeRegs → CubeRegs) : State := modCore s k (fun m => { m with cube := f m.cube })

/-- A queued operation faults: the fault names the instruction that issued it and the tag of its task (R79). -/
def opFault (s : State) (k : CoreId) (o : TOp) (cls : FCls) (detail : BitVec 16) (address : BitVec 64) : State :=
  let tag := taskTag s k o.task
  taskOpEnd (dropHold (takeFault s k o.ctx cls ⟨o.pc, tag, detail, address, none⟩) k o.id) k o.task

/-! ### MMA -/

/-- The hold of an operation. -/
def findHold (s : State) (k : CoreId) (id : Nat) : Option OpHold := (getCore s k).holds.find? (fun h => h.op = id)

/-- The cube operands of an operation that starts: the bytes that were kept for it, or those that stand in the operand buffer (R94). -/
def readHeld (s : State) (k : CoreId) (id : Nat) (rs : List (Nat × Nat)) : State × Option (List (List Byte)) :=
  let r := match (findHold s k id).bind (fun h => h.bytes) with
    | some b => (s, b)
    | none => readRanges s k rs
  (modCore r.1 k (fun m => { m with holds := updIf (fun h => h.op = id) (fun h => { h with started := true }) m.holds }), r.2)

/-- The element values of an operand tile from its rows and scales (R85, R86). -/
def operandVals (d : TileDesc) (bs : List (List Byte)) : List (List OpVal) :=
  let scales := bs.getD (d.rows + 1) []
  (List.range (d.rows + 1)).map (fun r =>
    let row := leNat (bs.getD r [])
    (List.range d.k).map (fun n =>
      let v := decodeEl d.fmt (rowEl d.fmt row n)
      if d.scaled then scaleEl d.fmt (scales.getD (r * (d.k / 32) + n / 32) 0).toNat v else v))

/-- MMA_PASS_START: the array grants the next operation, an MMA whose tile is free. A pending anchor takes the value fixed at
issue; a tile that is pending only now is resolved and checked now (R109; log 75). The operands are read: R94 keeps their
bytes from the issue on. -/
def mmaStart (s : State) (k : CoreId) (o : TOp) (acc : Nat) (ta tb : TReg) (off : Bool) (an : Option Int) : State :=
  let s0 := grant s k 0 o
  let a := tileDesc ta
  let b := tileDesc tb
  let t := getTile s0 k acc
  let an' := if t.anchor.isNone then an.or (defaultAnchor a b) else t.anchor
  match an' with
  | none => opFault s0 k o .illegal 0 0
  | some v =>
    match readHeld (setAnchor s0 k acc v) k o.id (tdRanges a ++ tdRanges b) with
    | (s2, some l) =>
      let p : Pass :=
        { op := o, acc := acc, rowsA := a.rows + 1, rowsB := b.rows + 1, kElems := a.k, aVals := operandVals a (l.take (tdRanges a).length),
          bVals := operandVals b (l.drop (tdRanges a).length), chkOff := off, cls := pairMeter a.fmt b.fmt, replay := false, failKind := 0, failRow := 0, failCol := 0 }
      modCore s2 k (fun m =>
        { m with passes := m.passes ++ [p],
                 cube := { m.cube with busy := m.cube.busy + BitVec.ofNat 64 (a.k / kstep a.fmt b.fmt), chkOff := m.cube.chkOff || off } })
    | (s2, none) => opFault s2 k o .memUncorr 1 0

def execMmaPassStart (k : CoreId) (s : State) : Out :=
  match nextGrant s k 0 with
  | some o =>
    match o.kind with
    | .mma acc ta tb off an _ => .next (mmaStart s k o acc ta tb off an)
    | _ => .next s
  | none => .next s

/-- The cube event of a pass's first failure, for the region's table (R99, R100; Table 7.5). -/
def cubeEvent (s : State) (k : CoreId) (kind row col : Nat) : State :=
  postCet s (regionOf k) (if kind = 5 then ⟨6, localOf k, 0, 0, 0, 0, 5⟩ else ⟨5, localOf k, row * 16 + col, 0, 0, 0, kind⟩)

/-- A pass stores its result and its flags, and its counters and its meter move (R92, R98, R306). -/
def passStore (s : State) (k : CoreId) (p : Pass) (out : List (XEl × Option PlaceSum)) (unchecked : Bool) : State :=
  let t := getTile s k p.acc
  let qs := out.filterMap (fun x => x.2)
  let t' : AccTile := { els := out.map (fun x => x.1), anchor := t.anchor, dropped := t.dropped || qs.any (fun q => q.dropped),
                        overflow := t.overflow || qs.any (fun q => q.sat) }
  let s1 := modCube (setTile s k p.acc t') k (fun r =>
    { r with passes := r.passes + 1, unchk := if unchecked then r.unchk + 1 else r.unchk })
  let s2 := match partOfCore s1 k with | some q => addMeter s1 q (Fin.ofNat 12 p.cls) (p.rowsA * p.rowsB * p.kElems) | none => s1
  if p.replay then
    cubeEvent (modCube s2 k (fun r => { r with trans := r.trans + 1, evTransient := true })) k p.failKind p.failRow p.failCol
  else s2

/-- The pass of an MMA commits. -/
def passCommit (s : State) (k : CoreId) (p : Pass) (out : List (XEl × Option PlaceSum)) (unchecked : Bool) : State :=
  taskOpEnd (dropHold (passStore s k p out unchecked) k p.op.id) k p.op.task

/-- The first attempt of a pass has failed: the pass with its location, which is to be replayed, and CUBE_LAST (R99, R100). -/
def passAgain (p : Pass) (kind row col : Nat) : Pass := { p with replay := true, failKind := kind, failRow := row, failCol := col }
def passMark (s : State) (k : CoreId) (p : Pass) (kind row col : Nat) : State :=
  modCube s k (fun r => { r with lastKind := kind, lastRow := row, lastCol := col, lastCtx := p.op.ctx.val, lastAcc := p.acc,
                                 lastLasting := false, evParity := r.evParity || kind = 6 })

/-- The first attempt of an MMA's pass fails: one replay is due. -/
def passFail (s : State) (k : CoreId) (p : Pass) (kind row col : Nat) : State :=
  modCore (passMark s k p kind row col) k (fun m => { m with replays := m.replays ++ [passAgain p kind row col] })

/-- A replay fails: nothing commits, the core is suspect (R99). -/
def passNote (s : State) (k : CoreId) (p : Pass) : State :=
  cubeEvent (modCube s k (fun r =>
    { r with lastKind := p.failKind, lastRow := p.failRow, lastCol := p.failCol, lastCtx := p.op.ctx.val, lastAcc := p.acc,
             lastLasting := true, evPersist := true, suspect := true })) k p.failKind p.failRow p.failCol

/-- DETAIL of ABFT_PERSIST. -/
def passDetail (p : Pass) : BitVec 16 := BitVec.ofNat 16 (p.failKind * 4096 + p.failRow * 256 + p.failCol * 16)

/-- The replay of an MMA's pass fails: its context takes ABFT_PERSIST. -/
def passPersist (s : State) (k : CoreId) (p : Pass) : State := opFault (passNote s k p) k p.op .abftPersist (passDetail p) 0

/-- One attempt of a pass: its result, whether it is unchecked, and the decode of its failure, KIND 0 where there is none. -/
def passTry (t : AccTile) (p : Pass) (us : List CubeUpset) (parity : List (Fin 9 × Fin 9)) :
    List (XEl × Option PlaceSum) × Bool × (Nat × Nat × Nat) :=
  let anchor := t.anchor.getD 0
  let out := passTile p anchor t us
  let unchecked := p.chkOff || passNonFinite p || out.any (fun x => match x.2 with | some q => q.sat | none => false)
  (out, unchecked, failDecode (if unchecked then ⟨[], [], false, false⟩ else passChecks p anchor t out us) parity)

/-- PASS_COMMIT: the oldest pass in the array reaches its last step. `us` are disturbances of its cubes and `parity` the cubes that
report a parity error, both empty where nothing is wrong. A tile that can no longer be corrected gives MEM_UNCORR. -/
def execPassCommit (k : CoreId) (us : List CubeUpset) (parity : List (Fin 9 × Fin 9)) (s : State) : Out :=
  match (getCore s k).passes with
  | [] => .next s
  | p :: ps =>
    if !coreClocked s k then .next s
    else
      let s1 := modCore s k (fun m => { m with passes := ps })
      match readTile s1 k p.acc with
      | (s2, none) => .next (opFault s2 k p.op .memUncorr 2 (badTileBlock (getCore s2 k) p.acc))
      | (s2, some t) =>
        let (out, unchecked, fail) := passTry t p us parity
        if fail.1 = 0 then .next (passCommit s2 k p out unchecked)
        else if p.replay then .next (passPersist s2 k p)
        else .next (passFail s2 k p fail.1 fail.2.1 fail.2.2)

/-- kstep of the pairs that a meter counts (Tables 4.4 and 12.8). -/
def meterStep (cls : Nat) : Nat := if cls = 0 ∨ cls = 2 then 16 else if cls = 1 ∨ cls = 3 then 8 else 4

/-- The operand tiles of an MMA. -/
def mmaTiles : TKind → Option (TileDesc × TileDesc)
  | .mma _ ta tb _ _ _ => some (tileDesc ta, tileDesc tb)
  | _ => none

/-- A pass with its operands read again from the operand buffer (R94, R99); none where a block of them can no longer be corrected. Where
a write that R94 holds back has reached their place, the pass keeps the operands of its first attempt. -/
def passReread (s : State) (k : CoreId) (p : Pass) : State × Option Pass :=
  match mmaTiles p.op.kind with
  | none => (s, some p)
  | some (a, b) =>
    if ((findHold s k p.op.id).bind (fun h => h.bytes)).isSome then (s, some p)
    else
      match readRanges s k (tdRanges a ++ tdRanges b) with
      | (s1, some l) =>
        (s1, some { p with aVals := operandVals a (l.take (tdRanges a).length), bVals := operandVals b (l.drop (tdRanges a).length) })
      | (s1, none) => (s1, none)

/-- REPLAY_START: the oldest failed pass enters the array again, before any further grant (R99). -/
def execReplayStart (k : CoreId) (s : State) : Out :=
  match (getCore s k).replays with
  | [] => .next s
  | p :: ps =>
    if !coreClocked s k then .next s
    else
      match passReread (modCore s k (fun m => { m with replays := ps })) k p with
      | (s1, none) => .next (opFault s1 k p.op .memUncorr 1 0)
      | (s1, some q) =>
        .next (modCore s1 k (fun m =>
          { m with passes := m.passes ++ [q],
                   cube := { m.cube with busy := m.cube.busy + BitVec.ofNat 64 (p.kElems / meterStep p.cls) } }))

/-! ### ACCZ, ACCRD, ACCWR -/

def zeroTile (anchor : Option Int) : AccTile := ⟨List.replicate 4096 xelZero, anchor, false, false⟩

/-- ACCZ_EXECUTE. -/
def execAcczExecute (k : CoreId) (s : State) : Out :=
  match nextGrant s k 0 with
  | some o =>
    match o.kind with
    | .accz acc v => .next (taskOpEnd (setTile (grant s k 0 o) k acc (zeroTile (if v = -512 then none else some v))) k o.task)
    | _ => .next s
  | none => .next s

def clsCode : XCls → Nat
  | .finite => 0
  | .posInf => 1
  | .negInf => 2
  | .nan => 3

def clsOf (n : Nat) : XCls := if n % 4 = 0 then .finite else if n % 4 = 1 then .posInf else if n % 4 = 2 then .negInf else .nan

/-- The accumulator image of a tile (Table 5.3). -/
def tileImage (t : AccTile) : List Byte :=
  t.els.flatMap (fun x => leBytes 16 x.n.toNat) ++
  leBytes 1024 (packLanes 2 (t.els.map (fun x => clsCode x.cls))) ++
  leBytes 2 (BitVec.ofInt 16 (t.anchor.getD (-512))).toNat ++
  leBytes 1 ((if t.dropped then 1 else 0) + (if t.overflow then 2 else 0)) ++ List.replicate 61 0

/-- The anchor field of an image: `none` out of range, `some none` pending. -/
def imageAnchor (img : List Byte) : Option (Option Int) :=
  let v := (BitVec.ofNat 16 (leNat ((img.drop 66560).take 2))).toInt
  if v = -512 then some none else if -511 ≤ v ∧ v ≤ 511 then some (some v) else none

/-- The tile that an image holds. -/
def imageTile (img : List Byte) (anchor : Option Int) : AccTile where
  els := (List.range 4096).map (fun i =>
    ⟨BitVec.ofNat 128 (leNat ((img.drop (16 * i)).take 16)), clsOf ((img.getD (65536 + i / 4) 0).toNat / 4 ^ (i % 4))⟩)
  anchor := anchor
  dropped := (img.getD 66562 0).getLsbD 0
  overflow := (img.getD 66562 0).getLsbD 1

/-- ACCRD_EXECUTE. A pending tile is written as zero with anchor −512 (R109). -/
def execAccrdExecute (k : CoreId) (s : State) : Out :=
  match nextGrant s k 0 with
  | some o =>
    match o.kind with
    | .accrd acc off =>
      match readTile (grant s k 0 o) k acc with
      | (s1, none) => .next (opFault s1 k o .memUncorr 2 (badTileBlock (getCore s1 k) acc))
      | (s1, some t) =>
        let t' := if t.anchor.isNone then { t with els := List.replicate 4096 xelZero } else t
        .next (taskOpEnd (writeLocalBy (some o.id) s1 k .opbuf off (tileImage t')) k o.task)
    | _ => .next s
  | none => .next s

/-- ACCWR_EXECUTE: RANGE for an anchor outside −511 to 511 other than −512 (R113). -/
def execAccwrExecute (k : CoreId) (s : State) : Out :=
  match nextGrant s k 0 with
  | some o =>
    match o.kind with
    | .accwr acc off =>
      match readLocal (grant s k 0 o) k .opbuf off 66624 with
      | (s1, none) => .next (opFault s1 k o .memUncorr 1 (BitVec.ofNat 64 (badBlock (getSpace s1 k .opbuf) off 66624)))
      | (s1, some img) =>
        match imageAnchor img with
        | none => .next (opFault s1 k o .range 0 0)
        | some a => .next (taskOpEnd (setTile s1 k acc (imageTile img a)) k o.task)
    | _ => .next s
  | none => .next s

/-! ### EPI -/

/-- Offset and bytes of the scale vector and of the bias vector that an EPI reads (R117). -/
def epiVectors (d : TileDesc) (q : EpiCtl) (params : List Byte) : List (Nat × Nat) :=
  let so := leNat ((params.drop 4).take 4)
  let bo := leNat ((params.drop 8).take 4)
  (if q.mode = 2 then [(so, 4 * (d.rows + 1))] else if q.mode = 3 then [(so, 4 * d.k)]
   else if q.mode = 4 then [(so, 4 * (2 * d.rows + d.k / 32))] else []) ++
  (if q.bias then [(bo, 4 * d.k)] else [])

/-- EPI_START: the epilogue grants the next EPI, reads bytes 0 to 55 of its block, and checks its vectors (R117). -/
def epiStart (s : State) (k : CoreId) (o : TOp) (acc : Nat) (out : TReg) (ctl : W64) : State :=
  let s0 := grant s k 1 o
  let q := epiCtl ctl
  match readLocal s0 k .opbuf q.params 56 with
  | (s1, none) => opFault s1 k o .memUncorr 1 (BitVec.ofNat 64 (badBlock (getSpace s1 k .opbuf) q.params 56))
  | (s1, some ps) =>
    let vs := epiVectors (tileDesc out) q ps
    if vs.any (fun v => v.1 % 4 != 0 || !opbufIn v.1 v.2) then
      opFault (modEpi s1 k (fun r => { r with evRange := true })) k o .range 0 0
    else if rangesForeign s1 k o.ctx vs then opFault s1 k o .bufOwner 0 0
    else
      match readTile s1 k acc with
      | (s2, none) => opFault s2 k o .memUncorr 2 (badTileBlock (getCore s2 k) acc)
      | (s2, some t) => modCore s2 k (fun m => { m with epi := some ⟨o, acc, out, ctl, t, ps, false⟩ })

def execEpiStart (k : CoreId) (s : State) : Out :=
  match nextGrant s k 1 with
  | some o =>
    match o.kind with
    | .epi acc out ctl => .next (epiStart s k o acc out ctl)
    | _ => .next s
  | none => .next s

/-- EPI_TILE_RELEASE: the last element has been read (R111). -/
def execEpiTileRelease (k : CoreId) (s : State) : Out :=
  .next (modCore s k (fun m => { m with epi := m.epi.map (fun e => { e with released := true }) }))

/-- x3 of element (m, n): stages 1 to 4. -/
def epiX3 (e : EpiRun) (q : EpiCtl) (scale bias : List Byte) (cs : Coeffs) (m n : Nat) : Nat :=
  let x0 := x128ToFp32 e.tile.anchor (e.tile.els.getD (m * 64 + n) xelZero)
  let f32At := fun (l : List Byte) i => leNat ((l.drop (4 * i)).take 4)
  let x1 :=
    if q.mode = 0 then x0
    else f32Mul x0 (if q.mode = 1 then f32At e.params 0 else if q.mode = 2 then f32At scale m
                    else if q.mode = 3 then f32At scale n else f32At scale (2 * m + n / 32))
  let x2 := if q.bias then f32Add x1 (f32At bias n) else x1
  activate q.func (f32At e.params 3) cs x2

/-- The coefficients that the control word names. -/
def epiCoeffs (m : Core) (q : EpiCtl) : Coeffs :=
  if q.table = 31 then defaultCoeff q.func else recordCoeffs (tget (0xFF, []) m.epiRegs.tables q.table).2

/-- The rows that an EPI writes. -/
def epiRows (m : Core) (e : EpiRun) (scale bias : List Byte) : List RowOut :=
  let d := tileDesc e.out
  let q := epiCtl e.ctl
  let cs := epiCoeffs m q
  let seed := BitVec.ofNat 64 (leNat ((e.params.drop 16).take 8))
  let trow := leNat ((e.params.drop 24).take 2)
  let tcol := leNat ((e.params.drop 26).take 2)
  (List.range (d.rows + 1)).map (fun r =>
    convRow d.fmt d.scaled (fun n => if q.stoch then some (draw seed trow tcol (r * 64 + n)) else none)
      ((List.range d.k).map (fun n => epiX3 e q scale bias cs r n)))

/-- RESULT (Table 5.6). An element counts as read where the output has it (DESIGN CHOICE, log 74). -/
def epiResult (e : EpiRun) (rows : List RowOut) : Nat :=
  let d := tileDesc e.out
  let nonFin := e.tile.anchor.isSome && (List.range (d.rows + 1)).any (fun m => (List.range d.k).any (fun n =>
    (e.tile.els.getD (m * 64 + n) xelZero).cls != .finite))
  (if e.tile.dropped then 1 else 0) + (if e.tile.overflow then 2 else 0) + (if nonFin then 4 else 0) +
  (if rows.any (fun r => 0 < r.sats) then 8 else 0) + (if rows.any (fun r => 0 < r.losts) then 16 else 0)

/-- Writes the output rows and their scales. -/
def writeRows (s : State) (k : CoreId) (id : Nat) (d : TileDesc) (rows : List RowOut) : State :=
  (List.range rows.length).foldl (fun a r =>
    let o := rows.getD r ⟨[], [], 0, 0⟩
    let a1 := writeLocalBy (some id) a k .opbuf (d.base + r * tdPitch d) o.bytes
    if d.scaled then writeLocalBy (some id) a1 k .opbuf (d.scaleBase + r * (d.k / 32)) o.scales else a1) s

/-- The epilogue writes its last output byte and bytes 56 to 63 of its block (R117, R127). -/
def epiFinish (s : State) (k : CoreId) (e : EpiRun) (scale bias : List Byte) : State :=
  let rows := epiRows (getCore s k) e scale bias
  let sats := (rows.map (fun r => r.sats)).foldl (· + ·) 0
  let losts := (rows.map (fun r => r.losts)).foldl (· + ·) 0
  let s1 := writeRows s k e.op.id (tileDesc e.out) rows
  let s2 := writeLocalBy (some e.op.id) s1 k .opbuf ((epiCtl e.ctl).params + 56) (leBytes 8 (epiResult e rows))
  let s3 := modEpi s2 k (fun r =>
    { r with ops := r.ops + 1, sat := r.sat + BitVec.ofNat 64 (sats + losts), drop := if e.tile.dropped then r.drop + 1 else r.drop,
             evSat := r.evSat || 0 < sats, evNanLost := r.evNanLost || 0 < losts })
  taskOpEnd s3 k e.op.task

def execEpiComplete (k : CoreId) (s : State) : Out :=
  match (getCore s k).epi with
  | none => .next s
  | some e =>
    if !e.released || !coreClocked s k then .next s
    else
      let q := epiCtl e.ctl
      let vs := epiVectors (tileDesc e.out) q e.params
      let s0 := modCore s k (fun m => { m with epi := none })
      match readRanges s0 k vs with
      | (s1, none) => .next (opFault s1 k e.op .memUncorr 1 0)
      | (s1, some bs) =>
        .next (epiFinish s1 k e (if 2 ≤ q.mode then bs.getD 0 [] else []) (if 2 ≤ q.mode then bs.getD 1 [] else bs.getD 0 []))

end Sys2Proof.Machine
end

