-- ==== Sys2Proof/Machine/Streams.lean ====
section
/-!
DEFINITION. Streams: descriptors, positions, the stream instructions, requests, abort, cancellation and deadlines
(06_streams.md).
-/

namespace Sys2Proof.Machine

/-! ### Descriptors (R131 to R137) -/

/-- Reads a descriptor register (Table 6.1). -/
def descOf (w : BitVec 512) : Desc :=
  let n := w.toNat
  let at_ := fun (o k : Nat) => (n / 2 ^ (8 * o)) % 2 ^ (8 * k)
  let flags := at_ 18 1
  let shape := at_ 19 1
  { remote := at_ 0 8, loc := at_ 8 4, doneSync := BitVec.ofNat 32 (at_ 12 4), tag := BitVec.ofNat 16 (at_ 16 2)
    index := flags / 128 % 2 = 1, indexed := flags / 64 % 2 = 1, buffered := flags / 32 % 2 = 1
    near := flags / 16 % 2 = 1, out := flags / 8 % 2 = 1, rclass := flags % 8
    driver := shape / 16, esize := shape % 16, lpitch := at_ 20 4
    dims := Vector.ofFn (fun (d : Fin 5) => ⟨at_ (24 + 8 * d.val) 4, (BitVec.ofNat 32 (at_ (28 + 8 * d.val) 4)).toInt⟩) }

def dimStride (d : Desc) (i : Fin 5) : Int := (vget d.dims i).stride
def descPitch (d : Desc) : Nat := if d.lpitch = 0 then dimCount d 0 * elemSize d else d.lpitch

/-- Coordinates of position `p` in transfer order (R133). -/
def coords (d : Desc) (p : Nat) : Nat × Nat × Nat × Nat × Nat :=
  let c0 := dimCount d 0
  let c1 := dimCount d 1
  let c2 := dimCount d 2
  let c3 := dimCount d 3
  (p % c0, p / c0 % c1, p / (c0 * c1) % c2, p / (c0 * c1 * c2) % c3, p / (c0 * c1 * c2 * c3))

/-- The place in the index list that position `p` uses. -/
def indexPlace (d : Desc) (p : Nat) : Nat :=
  let (_, _, _, i3, i4) := coords d p
  i4 * dimCount d 3 + i3

/-- Remote address of position `p`, with `j3` its coordinate or index in dimension 3 (R133). -/
def remoteAddr (d : Desc) (p : Nat) (j3 : Nat) : Nat :=
  let (i0, i1, i2, _, i4) := coords d p
  ((d.remote + i0 * dimStride d 0 + i1 * dimStride d 1 + i2 * dimStride d 2 + j3 * dimStride d 3 + i4 * dimStride d 4 : Int)
    % 2 ^ 64).toNat

/-- Local offset of position `p` (R133). -/
def localOff (d : Desc) (p : Nat) : Nat :=
  let (i0, i1, i2, i3, i4) := coords d p
  let k4 := if d.buffered then 0 else i4
  d.loc + i0 * elemSize d + (i1 + dimCount d 1 * (i2 + dimCount d 2 * (i3 + dimCount d 3 * k4))) * descPitch d

/-- One past the largest local byte of the transfer, or of a phase of a buffered one. -/
def localEnd (d : Desc) : Nat :=
  let k4 := if d.buffered then 0 else dimCount d 4 - 1
  d.loc + dimCount d 0 * elemSize d +
    ((dimCount d 1 - 1) + dimCount d 1 * ((dimCount d 2 - 1) + dimCount d 2 * ((dimCount d 3 - 1) + dimCount d 3 * k4))) * descPitch d

def hasZeroCount (d : Desc) : Bool := (List.finRange 5).any (fun i => dimCount d i = 0)

/-- Smallest and one past the largest remote byte of an unindexed descriptor, as integers. -/
def remoteSpan (d : Desc) : Int × Int :=
  (List.finRange 5).foldl (fun (a : Int × Int) i =>
    let x := ((dimCount d i : Int) - 1) * dimStride d i
    (a.1 + min 0 x, a.2 + max 0 x)) ((d.remote : Int), (d.remote : Int) + elemSize d)

/-- The claim of a slot (R137). -/
def slotClaim (s : State) (k : CoreId) (c : CtxId) (slot : Nat) : Option BufClaimRec :=
  (partOfCore s k).bind (fun p => (getPart s p).bufs.find? (fun b => b.core = corePcn s k && b.context = c.val && b.slot = slot))

/-- COUNT, product and ESIZE rules (cause 0x12). -/
def countBad (d : Desc) : Bool :=
  (List.finRange 5).any (fun i => dimCount d i = 0 || 2 ^ 24 < dimCount d i) || 2 ^ 32 < totalPos d || 12 < d.esize

/-- LPITCH rule (cause 0x16). -/
def pitchBad (d : Desc) : Bool := d.lpitch != 0 && d.lpitch < dimCount d 0 * elemSize d

/-- The descriptor of a driver slot breaks a rule for an index stream (R135). -/
def driverBad (x : Desc) : Bool :=
  !x.index || x.esize != 2 || x.out || x.near || x.buffered || x.indexed || x.loc != 0 || x.tag != 0 || x.doneSync != 0xFFFFFFFF ||
  x.rclass = 3 || 4 < x.rclass || x.driver != 0 || countBad x || pitchBad x

/-- The causes of Table 6.5 that a descriptor breaks, lowest first; `fill` for STRM_FILL. A field that Table 6.1 has zero counts as
a reserved one (DEDUCED, log 71), and a DRIVER of 8 to 15, which names no slot, as a wrong driver (DESIGN CHOICE, log 71). -/
def badCauses (s : State) (k : CoreId) (c : CtxId) (slot : Nat) (d : Desc) (fill : Bool) : List Nat :=
  let driver := descOf (vget (getCtx s k c).slots (Fin.ofNat 8 d.driver))
  let driverActive := match currentXfer s k c d.driver with | some x => xferActive x | none => false
  let claim := slotClaim s k c slot
  ([ (0x10, (d.tag != 0 && d.rclass != 3) || (d.driver != 0 && !d.indexed) || (d.rclass = 3 && d.remote / 65536 != 0)),
     (0x11, 4 < d.rclass || (d.rclass = 4 && !d.index) || (d.rclass = 2 && d.near) ||
        (d.rclass = 3 && (d.index || d.indexed || d.esize < 6 || 12 < d.esize || (List.finRange 5).any (fun i => dimStride d i != 0)))),
     (0x12, countBad d),
     (0x13, d.buffered && (d.near || claim.isNone)),
     (0x14, d.buffered && !hasZeroCount d && (match claim with | some b => b.count * 65536 < localEnd d | none => false)),
     (0x15, (d.index && !fill) || (d.indexed && (d.driver = slot || 7 < d.driver || driverBad driver || driverActive ||
        totalPos driver != dimCount d 3 * dimCount d 4))),
     (0x16, pitchBad d),
     (0x17, fill && (d.buffered || d.index || d.rclass = 3)) ].filter (fun x => x.2)).map (fun x => x.1)

/-- Steps 1 to 4 of R140; step 3 looks at the end ID in bits [15:0] of REMOTE. The local range runs from the first to the last local
byte, with what lies between its pieces (DESIGN CHOICE, log 71). -/
def goFault (s : State) (k : CoreId) (c : CtxId) (slot : Nat) (d : Desc) : Option FCls :=
  let sp : Space := if d.near then .near else .opbuf
  let driver := descOf (vget (getCtx s k c).slots (Fin.ofNat 8 d.driver))
  let listed := d.indexed && d.driver ≤ 7 && d.driver != slot && driver.index && driver.rclass = 4 && !hasZeroCount driver
  let span := remoteSpan driver
  let localBad := !d.buffered && !hasZeroCount d && spaceSize sp < localEnd d
  let listBad := listed && (span.1 < 0 || (0x600000 : Int) < span.2)
  let touches := !localBad && !d.buffered && !d.near && !hasZeroCount d &&
    (pairsOf d.loc (localEnd d - d.loc)).any (pairClaimed s k)
  let listForeign := listed && !listBad && bufForeign s k c span.1.toNat (span.2 - span.1).toNat
  let id := BitVec.ofNat 64 (d.remote % 65536)
  let sync := d.doneSync.setWidth 64
  firstFault [(localBad || listBad, .range), (touches || listForeign, .bufOwner),
    (d.rclass = 3 && !(if d.out then sendIdOk s k id else recvIdOk s k id 0), .msgId),
    (d.doneSync != 0xFFFFFFFF && handleBad s k sync, .range), (d.doneSync != 0xFFFFFFFF && handleForeign s k sync, .syncOwner)]

/-! ### Starting (R128, R129, R140) -/

/-- STRM_SET: ALIGN, RANGE, BUF_OWNER; then 64 bytes enter the slot's register. -/
def execStrmSet (k : CoreId) (f : FieldsS) (s : State) : Out :=
  .next (runInstr k (fun c s =>
    let a := (gOf s k c f.a).toNat
    match firstFault [(!okS f true false false false 7, .illegal), (a % 64 != 0, .align), (!opbufIn a 64, .range),
                      (bufForeign s k c a 64, .bufOwner)] with
    | some e => iFault s e
    | none =>
      match readLocal s k .opbuf a 64 with
      | (s', some bs) =>
        .done (modCtx s' k c (fun x => { x with slots := vset x.slots (Fin.ofNat 8 f.imm.toNat) (BitVec.ofNat 512 (leNat bs)) }))
      | (s', none) => .fault s' .memUncorr 1 (BitVec.ofNat 64 a)) s)

/-- CYCLES of the slot's RT_DEADLINE record (R150). -/
def slotDeadline (s : State) (k : CoreId) (c : CtxId) (slot : Nat) : Option Nat :=
  (partOfCore s k).bind (fun p =>
    ((getPart s p).deadlines.find? (fun r => r.core = corePcn s k && r.context = c.val && r.slot = slot)).map (fun r => r.cycles))

/-- A trigger of the slot's deadline (R150): the core's time at it, and the deadline, CYCLES later. How many ACLK cycles have passed
since the last trigger is a free value (log 72). -/
def dlTrigger (s : State) (k : CoreId) (c : CtxId) (slot : Nat) : State × Option Nat :=
  match slotDeadline s k c slot with
  | none => (s, none)
  | some n =>
    let t := (getCore s k).now + Config.aclkPassed k.val (getCore s k).nextId
    (modCore s k (fun m => { m with now := t, nextId := m.nextId + 1 }), some (t + n))

/-- A new transfer becomes the current one of its slot (R130). -/
def putXfer (s : State) (k : CoreId) (x : Xfer) : State :=
  modCore s k (fun m => { m with
    xfers := (updIf (fun y => y.ctx = x.ctx && y.slot = x.slot) (fun y => { y with current := false }) m.xfers).filter
      (fun y => y.current || xferActive y) ++ [x] })

/-- A transfer as it starts. -/
def newXfer (s : State) (k : CoreId) (c : CtxId) (slot : Nat) (d : Desc) (fill : Option W64) (id : Nat) (task : Option Nat)
    (partner : Option Nat) (due : Option Nat) : Xfer where
  id := id
  ctx := c
  slot := slot
  desc := d
  fill := fill
  state := if d.buffered && d.out then .hold else .run
  code := 0
  cause := 0
  record := 0
  task := task
  pc := (getCtx s k c).pc
  current := true
  issued := 0
  landed := 0
  phase := if d.buffered && d.out then 0 else 1
  rbit := d.buffered
  side0 := if d.buffered && !d.out then .busy else .empty
  side1 := .empty
  partner := partner
  idx := []
  idxUsed := 0
  dlDue := due
  dlMissed := false
  taskObj := (task.bind (fun id => findTask s k id)).map (fun t => (t.region, t.obj))

/-- A transfer that ends at once with a code and cause. It belongs to the open task, as every operation issued into a task
does (R78), and never counts as outstanding. A BUFFERED one has R 0 and both sides EMPTY (DESIGN CHOICE, log 71). -/
def endedXfer (s : State) (k : CoreId) (c : CtxId) (slot : Nat) (d : Desc) (id code cause : Nat) (record : W32) : Xfer :=
  { newXfer s k c slot d none id (getCtx s k c).task none none with
    state := .ended, code := code, cause := cause, record := record, phase := 0, rbit := false, side0 := .empty }

/-- Notes the DONE_SYNC object of a transfer with its task, for an abort (R148, step 4). -/
def noteDone (s : State) (k : CoreId) (task : Option Nat) (d : Desc) : State :=
  match task with
  | some t => if d.doneSync = 0xFFFFFFFF then s else modTask s k t (fun x => { x with syncs := x.syncs ++ [d.doneSync] })
  | none => s

/-- Starts a data transfer, and its index stream where it is indexed. -/
def startXfer (s : State) (k : CoreId) (c : CtxId) (slot : Nat) (d : Desc) (fill : Option W64) (task : Option Nat) : State :=
  let id := (getCore s k).nextId
  let s1 := modCore s k (fun m => { m with nextId := id + 2 })
  let s2 := noteDone s1 k task d
  let (s2, due) := if d.buffered && d.out then (s2, none) else dlTrigger s2 k c slot
  let s3 := putXfer (taskOpBegin s2 k task) k (newXfer s2 k c slot d fill id task (if d.indexed then some (id + 1) else none) due)
  if d.indexed then
    let x := descOf (vget (getCtx s k c).slots (Fin.ofNat 8 d.driver))
    let (s4, due) := dlTrigger s3 k c d.driver
    putXfer (taskOpBegin s4 k task) k (newXfer s4 k c d.driver x none (id + 1) task (some id) due)
  else s3

/-- STRM_GO and STRM_FILL (R140): ILLEGAL, steps 1 to 4, the wait for the slot (R129), step 5, the wait while eight are active,
then the start. In an aborted task the transfer ends ABORTED at once and does nothing (R148). -/
def strmGo (s : State) (k : CoreId) (c : CtxId) (slot : Nat) (fill : Option W64) : IRes :=
  let d := descOf (vget (getCtx s k c).slots (Fin.ofNat 8 slot))
  let task := (getCtx s k c).task
  match goFault s k c slot d with
  | some e => iFault s e
  | none =>
    if (match currentXfer s k c slot with | some x => xferActive x | none => false) then .wait s (.strmGo slot)
    else
      let id := (getCore s k).nextId
      let bump := fun (t : State) => modCore t k (fun m => { m with nextId := id + 1 })
      match (openTask s k c).bind (fun t => t.aborted) with
      | some r => .done (modStrm (putXfer (bump s) k (endedXfer s k c slot d id 2 9 r)) k (fun m => { m with evAbort := true }))
      | none =>
        match badCauses s k c slot d fill.isSome with
        | cause :: _ =>
          .done (modStrm (putXfer (noteDone (bump s) k task d) k (endedXfer s k c slot d id 4 cause 0)) k
            (fun m => { m with evBadDesc := true }))
        | [] => if strmGoBlocked s k c slot then .wait s (.strmGo slot) else .done (startXfer s k c slot d fill task)

def execStrmGo (k : CoreId) (f : FieldsS) (s : State) : Out :=
  .next (runInstr k (fun c s =>
    if !okS f false false false false 7 then iFault s .illegal else strmGo s k c f.imm.toNat none) s)

def execStrmFill (k : CoreId) (f : FieldsS) (s : State) : Out :=
  .next (runInstr k (fun c s =>
    if !okS f false true false false 7 then iFault s .illegal else strmGo s k c f.imm.toNat (some (gOf s k c f.b))) s)

/-! ### Waiting, swapping, cancelling -/

def sideCode : Side → Nat
  | .empty => 0
  | .busy => 1
  | .ready => 2
  | .invalid => 3

/-- The status word (Table 6.6). -/
def statusWord (x : Xfer) : W64 :=
  BitVec.ofNat 64 ((if x.code = 2 then x.record.toNat * 2 ^ 32 else 0) + x.cause * 2 ^ 16 + (if x.rbit then 256 else 0) +
    sideCode x.side1 * 64 + sideCode x.side0 * 16 + x.code)

/-- STRM_WAIT: the status of the current transfer once it is not active; IDLE where there is none (R130), with R and the sides 0
(DESIGN CHOICE, log 71). -/
def execStrmWait (k : CoreId) (f : FieldsS) (s : State) : Out :=
  .next (runInstr k (fun c s =>
    if !okS f false false true false 7 then iFault s .illegal
    else
      match currentXfer s k c f.imm.toNat with
      | none => .done (setG s k c f.c 0)
      | some x =>
        if xferActive x then .wait s (.strmWait f.imm.toNat)
        else .done (setG (modCore s k (fun m => { m with xfers := m.xfers.filter (fun y => y.id != x.id) })) k c f.c (statusWord x))) s)

/-- The transfer reaches ENDED with code DONE: DONE_SYNC receives 1 and its task loses an operation (Table 6.7). -/
def xferDone (s : State) (k : CoreId) (x : Xfer) : State :=
  let s1 := modXfer s k x.id (fun y => { y with state := .ended, code := 1, cause := 0, dlDue := none })
  let s2 := if x.desc.doneSync = 0xFFFFFFFF then s1 else sendSyncTo s1 k x.ctx x.desc.doneSync (fun o => .syncAdd o 1)
  taskOpEnd s2 k x.task

/-- Sets the engine side (1 − R) of a transfer. -/
def setEngineSide (x : Xfer) (v : Side) : Xfer := if x.rbit then { x with side0 := v } else { x with side1 := v }

/-- STRM_SWAP: hands the sides over (R138, Table 6.7). -/
def swapXfer (s : State) (k : CoreId) (x : Xfer) : State :=
  let toggled := fun (y : Xfer) => { y with rbit := !y.rbit }
  if x.phase < dimCount x.desc 4 then
    let (s1, due) := dlTrigger s k x.ctx x.slot
    modXfer s1 k x.id (fun y => setEngineSide
      { (toggled y) with state := .run, phase := y.phase + 1, dlDue := due, dlMissed := false } .busy)
  else xferDone (modXfer s k x.id toggled) k { x with rbit := !x.rbit }

def execStrmSwap (k : CoreId) (f : FieldsS) (s : State) : Out :=
  .next (runInstr k (fun c s =>
    if !okS f false false false false 7 then iFault s .illegal
    else if strmSwapBlocked s k c f.imm.toNat then .wait s (.strmSwap f.imm.toNat)
    else
      match currentXfer s k c f.imm.toNat with
      | none => .done s
      | some x => if x.desc.buffered && x.state == .hold then .done (swapXfer s k x) else .done s) s)

/-- Cancels one transfer (R149): one that runs stops; an ended data transfer becomes CANCELLED unless ABORTED or
BAD_DESCRIPTOR; the engine side of a BUFFERED one becomes INVALID; its sync objects become CANCELLED. -/
def cancelXfer (s : State) (k : CoreId) (x : Xfer) : State :=
  if x.state = .stopping then s
  else if x.state = .ended && x.desc.index then s
  else
    let s1 := if x.desc.doneSync = 0xFFFFFFFF then s else sendSyncTo s k x.ctx x.desc.doneSync (fun o => .syncCancel o)
    let s2 := match x.taskObj with | some (r, o) => sendSync s1 k x.ctx r (.syncCancel o) | none => s1
    if x.state = .ended then
      let s3 := modXfer s2 k x.id (fun y => if y.desc.buffered then setEngineSide y .invalid else y)
      if x.code = 2 || x.code = 4 then s3
      else modStrm (modXfer s3 k x.id (fun y => { y with code := 3, cause := 0 })) k (fun m => { m with evCancel := true })
    else stopXfer s2 k x.id 3 0 0

/-- STRM_CANCEL: on the slot's current transfer, with the one it drives or is driven by. -/
def execStrmCancel (k : CoreId) (f : FieldsS) (s : State) : Out :=
  .next (runInstr k (fun c s =>
    if !okS f false false false false 7 then iFault s .illegal
    else
      match currentXfer s k c f.imm.toNat with
      | none => .done s
      | some x =>
        let s1 := cancelXfer s k x
        match x.partner.bind (fun p => findXfer s k p) with
        | some y => .done (cancelXfer s1 k y)
        | none => .done s1) s)

/-! ### Requests (R141 to R143) -/

/-- A task fault on a transfer (R148), or UNTASKED outside any task. -/
def xferFault (s : State) (k : CoreId) (x : Xfer) (cause : Nat) (address : Nat) : State :=
  let r := nextRecIndex s
  let slot : Option (Fin 8) := some (Fin.ofNat 8 x.slot)
  match x.task with
  | some id =>
    let s1 := raiseRec s { recCtx s k x.ctx 0x10 1 1 x.pc (taskTag s k x.task) with
      detail := BitVec.ofNat 16 cause, address := BitVec.ofNat 64 address, iaddr := iaddrOf x.pc slot }
    abortTask s1 k id (some x.id) cause 9 r
  | none =>
    let s1 := untaskedFault s k x.ctx x.pc cause (BitVec.ofNat 64 address) slot
    let s2 := stopXfer s1 k x.id 2 10 r
    let s3 := match x.partner with | some p => stopXfer s2 k p 2 10 r | none => s2
    let h := if x.desc.index then ((x.partner.bind (fun p => findXfer s k p)).map (fun y => y.desc.doneSync)).getD 0xFFFFFFFF
             else x.desc.doneSync
    if h = 0xFFFFFFFF then s3 else sendSyncTo s3 k x.ctx h (fun o => .syncAbort o r)

/-- Byte `b` of the index list, if it has been read. -/
def indexByte (x : Xfer) (b : Nat) : Option Byte := x.idx.findSome? (fun q => if q.1 ≤ b then q.2[b - q.1]? else none)

/-- The index that a data transfer has for place `i`, if all of it has been read. -/
def indexAt (x : Xfer) (i : Nat) : Option W32 :=
  if i < x.idxUsed then none
  else
    match indexByte x (4 * i), indexByte x (4 * i + 1), indexByte x (4 * i + 2), indexByte x (4 * i + 3) with
    | some a, some b, some c, some d => some (BitVec.ofNat 32 (leNat [a, b, c, d]))
    | _, _, _, _ => none

/-- Remote address of position `p` of a transfer; `none` where its index is a skip or has not been read. -/
def posRemote (x : Xfer) (p : Nat) : Option Nat :=
  if x.desc.indexed then
    match indexAt x (indexPlace x.desc p) with
    | none => none
    | some j => if j = 0xFFFFFFFF then none else some (remoteAddr x.desc p j.toNat)
  else
    let (_, _, _, i3, _) := coords x.desc p
    some (remoteAddr x.desc p i3)

/-- Bytes of the run that starts `off` bytes into position `p` at remote address `a`: consecutive remote bytes up to the
next 2 KiB boundary and no further than position `last` (R141). -/
def runLen (x : Xfer) (last : Nat) : Nat → Nat → Nat → Nat → Nat
  | 0, _, _, n => n
  | fuel + 1, p, a, n =>
    let room := 2048 - a % 2048
    let e := elemSize x.desc
    let take := min room e
    if take < e ∨ last ≤ p + 1 then n + take
    else if (a + take) % 2048 = 0 then n + take
    else if posRemote x (p + 1) = some (a + take) then runLen x last fuel (p + 1) (a + take) (n + take)
    else n + take

/-- Positions that phases started so far cover. -/
def phaseLimit (x : Xfer) : Nat := if x.desc.buffered then x.phase * phasePos x.desc else totalPos x.desc

/-- The local place of byte `b` (in transfer order): its space and address; the engine side for a buffered transfer. -/
def localPlace (s : State) (k : CoreId) (x : Xfer) (b : Nat) : Space × Nat :=
  let o := localOff x.desc (b / elemSize x.desc) + b % elemSize x.desc
  if x.desc.buffered then
    let first := ((slotClaim s k x.ctx x.slot).map (fun r => r.first)).getD 0
    let side := if x.rbit then 0 else 1
    (.opbuf, (first + o / 65536) * 131072 + side * 65536 + o % 65536)
  else (if x.desc.near then .near else .opbuf, o)

/-- A piece of a run: its first byte in transfer order, its local address and its length. -/
structure LocPiece where
  byte : Nat
  addr : Nat
  len  : Nat
  deriving DecidableEq, Repr

/-- The bytes from `b`, of length `n`, cut at the ends of elements and, in a buffered transfer, where a side offset passes from one pair
to the next (R137). -/
def cutPieces (s : State) (k : CoreId) (x : Xfer) : Nat → Nat → Nat → List LocPiece
  | 0, _, _ => []
  | fuel + 1, b, n =>
    if n = 0 then []
    else
      let e := elemSize x.desc
      let a := (localPlace s k x b).2
      let t := min (min n (e - b % e)) (if x.desc.buffered then 65536 - a % 65536 else n)
      ⟨b, a, t⟩ :: cutPieces s k x fuel (b + t) (n - t)

/-- Joins pieces whose local bytes are consecutive. -/
def joinPieces : List LocPiece → List LocPiece
  | [] => []
  | p :: ps =>
    match joinPieces ps with
    | [] => [p]
    | q :: qs => if p.addr + p.len = q.addr then { p with len := p.len + q.len } :: qs else p :: q :: qs

/-- The consecutive local pieces of a run of a request. -/
def localPieces (s : State) (k : CoreId) (x : Xfer) (b n : Nat) : List LocPiece := joinPieces (cutPieces s k x n b n)

/-- The local space of a transfer. -/
def localSpace (x : Xfer) : Space := if x.desc.near && !x.desc.buffered then .near else .opbuf

/-- Writes bytes at the local places of a run. A block that the run covers in part is read first, once (R161). -/
def writeRun (s : State) (k : CoreId) (x : Xfer) (b : Nat) (bs : List Byte) : State :=
  let ps := localPieces s k x b bs.length
  let sp := localSpace x
  let part := (ps.flatMap (fun p => (blocksOf p.addr p.len).filter (fun q => !blkWhole p.addr p.len q))).eraseDups
  let s0 := if sp = .opbuf then ps.foldl (fun t p => keepHeld t k none p.addr p.len) s else s
  let s1 := (touchBlocks s0 k sp part).1
  setSpace s1 k sp (ps.foldl (fun m p => pmStore m p.addr ((bs.drop (p.byte - b)).take p.len)) (getSpace s1 k sp))

/-- Reads the bytes at the local places of a run: each block that it touches is read once. -/
def readRun (s : State) (k : CoreId) (x : Xfer) (b n : Nat) : State × Option (List Byte) :=
  let ps := localPieces s k x b n
  let sp := localSpace x
  let r := touchBlocks s k sp (ps.flatMap (fun p => blocksOf p.addr p.len)).eraseDups
  (r.1, if r.2 then some (ps.flatMap (fun p => memReadBytes (getSpace r.1 k sp).bytes p.addr p.len)) else none)

/-- Near-slice bursts that the local bytes of a run touch (R142). -/
def nearBursts (s : State) (k : CoreId) (x : Xfer) (b n : Nat) : Nat :=
  if !x.desc.near then 0
  else
    (((localPieces s k x b n).flatMap (fun q =>
      (List.range ((q.addr + q.len - 1) / 128 - q.addr / 128 + 1)).map (· + q.addr / 128))).eraseDups).length

/-- u × the u-aligned blocks that the bytes touch (R142). -/
def chargeOf (u a n : Nat) : Nat := if n = 0 then 0 else u * ((a + n - 1) / u - a / u + 1)

def meterCore (s : State) (k : CoreId) (m : Fin 12) (n : Nat) : State :=
  match partOfCore s k with
  | some p => addMeter s p m n
  | none => s

/-- Charges a request in its remote class and at a near-slice local end; a FILL into local bytes is charged there only
(R142, R152). -/
def chargeReq (s : State) (k : CoreId) (x : Xfer) (b a n : Nat) : State :=
  let remote := !(x.fill.isSome && !x.desc.out)
  let s1 :=
    if !remote then s
    else if x.desc.rclass = 0 then
      meterCore (modStrm s k (fun m => { m with chgStk := m.chgStk + BitVec.ofNat 64 (chargeOf 512 a n) })) k 7 (chargeOf 512 a n)
    else if x.desc.rclass = 1 then
      meterCore (modStrm s k (fun m => { m with chgHst := m.chgHst + BitVec.ofNat 64 (chargeOf 256 a n) })) k 11 (chargeOf 256 a n)
    else if x.desc.rclass = 2 then
      meterCore (modStrm s k (fun m => { m with chgNsl := m.chgNsl + BitVec.ofNat 64 (chargeOf 128 a n) })) k 8 (chargeOf 128 a n)
    else if x.desc.rclass = 3 then modStrm s k (fun m => { m with chgMsh := m.chgMsh + BitVec.ofNat 64 n })
    else s
  let l := 128 * nearBursts s k x b n
  if l = 0 then s1 else meterCore (modStrm s1 k (fun m => { m with chgNsl := m.chgNsl + BitVec.ofNat 64 l })) k 8 l

/-- The pattern bytes of a FILL from destination address `y` (R152). -/
def fillBytes (g : W64) (y n : Nat) : List Byte := (List.range n).map (fun i => (g >>> (8 * ((y + i) % 8))).setWidth 8)

/-- The map record of a page, where one covers the address (R143). -/
def mapOf (p : PartCfg) (va : Nat) : Option MemMapRec :=
  if 2 ^ 48 ≤ va then none else p.maps.find? (fun m => m.va ≤ va && va < m.va + m.pages * 0x200000)

/-- Stack physical address of a virtual one under its record. -/
def physOf (m : MemMapRec) (va : Nat) : Nat := m.pa + (va - m.va)

/-- The 512-byte units of a range: (offset in the range, address, length). -/
def unitsOf (fuel off a n : Nat) : List (Nat × Nat × Nat) :=
  match fuel with
  | 0 => []
  | f + 1 => if n = 0 then [] else let t := min n (512 - a % 512); (off, a, t) :: unitsOf f (off + t) (a + t) (n - t)

/-- Sends the units of a range to its stack controller; answers how many there are. -/
def submitUnits (s : State) (part : Option PartId) (pa n : Nat) (src : Nat → StackSrc) (data : Option (List Byte)) : State × Nat :=
  let us := unitsOf (n / 512 + 2) 0 pa n
  (us.foldl (fun a u => modStack a (pa / 2 ^ 36) (fun t =>
    { t with units := t.units ++ [⟨src u.1, part, u.2.1, u.2.2, data.map (fun d => (d.drop u.1).take u.2.2)⟩] })) s, us.length)

/-- Bytes of a transfer have been done: the phase or the transfer may be complete (Table 6.7). The engine side is EMPTY once the last
phase of a BUFFERED OUT has been written out (DESIGN CHOICE, log 71). -/
def landBytes (s : State) (k : CoreId) (id n : Nat) : State :=
  let s1 := modXfer s k id (fun y => { y with landed := y.landed + n })
  match findXfer s1 k id with
  | none => s1
  | some x =>
    if x.state != .run || x.landed < phaseLimit x * elemSize x.desc then s1
    else if x.desc.buffered && !x.desc.out then
      modXfer s1 k id (fun y => { (setEngineSide y .ready) with state := .hold, dlDue := none })
    else if x.desc.buffered && x.phase < dimCount x.desc 4 then
      modXfer s1 k id (fun y => { (setEngineSide y .empty) with state := .hold, dlDue := none })
    else xferDone (modXfer s1 k id (fun y => if y.desc.buffered then setEngineSide y .empty else y)) k x

def useBytes (s : State) (k : CoreId) (n : Nat) : State := modStrm s k (fun m => { m with use := m.use + BitVec.ofNat 64 n })

/-- Data for a transfer arrives: an index stream feeds its data stream's queue, a data stream writes its local places. STRM_USE does not count the bytes of index lists (DESIGN
CHOICE, log 88). -/
def deliver (s : State) (k : CoreId) (x : Xfer) (b : Nat) (bs : List Byte) : State :=
  if x.desc.index then
    let s1 := match x.partner with
      | some p => modXfer s k p (fun y => { y with idx := y.idx ++ [(b, bs)] })
      | none => s
    landBytes s1 k x.id bs.length
  else landBytes (useBytes (writeRun s k x b bs) k bs.length) k x.id bs.length

def addReq (s : State) (k : CoreId) (r : Req) : State :=
  modCore s k (fun m => { m with reqs := m.reqs ++ [r], nextId := m.nextId + 1 })

/-- Marks bytes as given to requests. -/
def issueBytes (s : State) (k : CoreId) (id n : Nat) : State := modXfer s k id (fun y => { y with issued := y.issued + n })

/-- The bytes that an OUT request carries: the pattern of a FILL, or the local bytes. -/
def outData (s : State) (k : CoreId) (x : Xfer) (b a n : Nat) : State × Option (List Byte) :=
  match x.fill with
  | some g => (s, some (fillBytes g a n))
  | none => readRun s k x b n

/-- Issues one request of a transfer that can issue: `b` the byte it starts at, `a` its remote address, `pos` that of the
position it starts in, which a record names (Table 16.1), `n` its length; `ats` says that a host translation fails. A MESH IN message
of a wrong length stays in the inbox and a poisoned one leaves it; an OUT request whose local bytes prove poisoned has not been issued and is
not charged (DESIGN CHOICE, log 88). -/
def issueRun (s : State) (k : CoreId) (x : Xfer) (b a pos n : Nat) (ats : Bool) : State :=
  let p := partOfCore s k
  let id := (getCore s k).nextId
  let req : Req := ⟨id, x.id, b, n, pos, [], 0, 0⟩
  let go := fun (t : State) => issueBytes (chargeReq t k x b a n) k x.id n
  if x.fill.isSome && !x.desc.out then
    let bs := (localPieces s k x b n).flatMap (fun q => fillBytes (x.fill.getD 0) q.addr q.len)
    deliver (go s) k x b bs
  else if x.desc.rclass = 0 then
    match p.bind (fun q => mapOf (getPart s q) a) with
    | none => xferFault s k x 1 pos
    | some m =>
      if !(m.perm.testBit (if x.desc.out then 1 else 0)) then xferFault s k x 2 pos
      else if x.desc.out then
        match outData s k x b a n with
        | (s1, none) => xferFault s1 k x 4 pos
        | (s1, some bs) =>
          let (s2, w) := submitUnits (go s1) p (physOf m a) n (fun o => .stream k id o) (some bs)
          addReq s2 k { req with waits := w }
      else
        let (s2, w) := submitUnits (go s) p (physOf m a) n (fun o => .stream k id o) none
        addReq s2 k { req with waits := w, data := List.replicate n 0 }
  else if x.desc.rclass = 1 then
    if ats then xferFault s k x 3 pos
    else if x.desc.out then
      match outData s k x b a n with
      | (s1, none) => xferFault s1 k x 4 pos
      | (s1, some bs) => addReq { go s1 with hostWrites := s1.hostWrites ++ [⟨p, a, bs⟩] } k req
    else addReq (go s) k req
  else if x.desc.rclass = 2 then
    if 0x40000000 < a + n then xferFault s k x 5 pos
    else if x.desc.out then
      match outData s k x b a n with
      | (s1, none) => xferFault s1 k x 4 pos
      | (s1, some bs) => addReq (writeLocal (go s1) k .near a bs) k req
    else
      match readLocal (go s) k .near a n with
      | (s1, none) => xferFault s1 k x 4 pos
      | (s1, some bs) => addReq s1 k { req with data := bs }
  else if x.desc.rclass = 3 then
    let sender := BitVec.ofNat 16 x.desc.remote
    if x.desc.out then
      match outData s k x b a n with
      | (s1, none) => xferFault s1 k x 4 x.desc.remote
      | (s1, some bs) =>
        sendMsg (addReq (go s1) k { req with waits := 1 }) k x.ctx sender x.desc.tag 0 bs (some id)
    else
      match findMsg s k x.ctx sender x.desc.tag 0 with
      | none => s
      | some m =>
        let s1 := modCore s k (fun q => { q with inbox := vmod q.inbox x.ctx (fun l => l.eraseP (matchMsg sender x.desc.tag 0)) })
        if m.payload.length ≠ n then xferFault (go s) k x 6 x.desc.remote
        else
          match touchSofts (go s1) k .inbox m.blks with
          | (s2, false) => xferFault s2 k x 4 x.desc.remote
          | (s2, true) => addReq s2 k { req with data := m.payload }
  else
    match readLocal s k .opbuf a n with
    | (s1, none) => xferFault s1 k x 4 pos
    | (s1, some bs) => addReq (go s1) k { req with data := bs }

/-- The bytes of the request that starts at the next byte of a transfer, up to position `last` (R141). -/
def reqLen (x : Xfer) (last : Nat) : Nat :=
  let e := elemSize x.desc
  let p := x.issued / e
  let a := ((posRemote x p).getD 0 + x.issued % e) % 2 ^ 64
  let left := e - x.issued % e
  let first := min left (2048 - a % 2048)
  if first = left && decide (p + 1 < last) && (a + first) % 2048 != 0 && posRemote x (p + 1) == some (a + first)
  then runLen x last 2048 (p + 1) (a + first) first else first

/-- The end of the run of an indexed transfer is known: the index after it has been read, or no more can enter the queue before the run is
issued. A run ends with the 256 indices of a full queue (DESIGN CHOICE, log 73). -/
def runKnown (x : Xfer) : Bool :=
  let e := elemSize x.desc
  let b := x.issued + reqLen x (phaseLimit x)
  let a := ((posRemote x (x.issued / e)).getD 0 + x.issued % e + reqLen x (phaseLimit x)) % 2048
  let i := indexPlace x.desc (b / e)
  (posRemote x (x.issued / e)).isNone || b % e != 0 || a = 0 || decide (phaseLimit x ≤ b / e) || (indexAt x i).isSome ||
    decide (x.idxUsed + 256 ≤ i)

/-- A transfer that can have a request granted: it runs, has positions left in its phase, and has what the next one needs:
its index and the one after its run, a message or room in the outbound buffer, room in the index queue. -/
def canIssue (s : State) (k : CoreId) (x : Xfer) : Bool :=
  let d := x.desc
  let p := x.issued / elemSize d
  x.state == .run && decide (p < phaseLimit x) && !resetCovers s k x.ctx.val &&
  (!d.indexed || ((indexAt x (indexPlace d p)).isSome && runKnown x)) &&
  (!d.index || (match x.partner.bind (fun q => findXfer s k q) with
     | some y => decide (p < y.idxUsed + 256)
     | none => true)) &&
  (d.rclass != 3 || (if d.out then outRoom s k (elemSize d)
                     else (findMsg s k x.ctx (BitVec.ofNat 16 d.remote) d.tag 0).isSome))

/-- Deadline order: the earlier deadline, then the lower context, then the lower slot (R141). -/
def dlBefore (a b : Xfer) : Bool :=
  let x := a.dlDue.getD 0
  let y := b.dlDue.getD 0
  x < y || (x = y && (a.ctx.val * 8 + a.slot < b.ctx.val * 8 + b.slot))

/-- The transfer that the engine grants next (R141). -/
def nextXfer (s : State) (k : CoreId) : Option Xfer :=
  let xs := (getCore s k).xfers.filter (canIssue s k)
  match xs.filter (fun x => x.dlDue.isSome) with
  | y :: ys => some (ys.foldl (fun b x => if dlBefore x b then x else b) y)
  | [] =>
    let l := (getCore s k).strm.lastSlot
    let key := fun (x : Xfer) => (x.ctx.val * 8 + x.slot + 31 - l) % 32
    match xs with
    | [] => none
    | y :: ys => some (ys.foldl (fun b x => if key x < key b then x else b) y)

/-- The positions of a skipped index: all inner positions of the same place (R135). -/
def skipLen (x : Xfer) : Nat :=
  let d := x.desc
  let inner := dimCount d 0 * dimCount d 1 * dimCount d 2
  let p := x.issued / elemSize d
  (inner - p % inner) * elemSize d

/-- A skipped index: an IN transfer writes zeros, an OUT transfer nothing; nothing is charged. STRM_USE counts the zeros as delivered (DESIGN CHOICE,
log 88). -/
def skipIndex (s : State) (k : CoreId) (x : Xfer) : State :=
  let n := skipLen x
  let s1 := issueBytes s k x.id n
  landBytes (if x.desc.out then s1 else useBytes (writeRun s1 k x x.issued (List.replicate n 0)) k n) k x.id n

/-- Indices before the place in use leave the queue. -/
def trimIdx (x : Xfer) : Xfer :=
  let i := if x.desc.indexed then indexPlace x.desc (x.issued / elemSize x.desc) else 0
  if x.desc.indexed && x.idxUsed < i then { x with idx := x.idx.filter (fun q => 4 * i < q.1 + q.2.length), idxUsed := i } else x

/-- STREAM_REQUEST_ISSUE: one grant of the engine; `ats` says that the host translation of its request fails. -/
def execStreamRequestIssue (k : CoreId) (ats : Bool) (s : State) : Out :=
  if !coreClocked s k || 64 ≤ inFlight (getCore s k) then .next s
  else
    match nextXfer s k with
    | none => .next s
    | some x =>
      let s0 := modStrm s k (fun m => { m with lastSlot := x.ctx.val * 8 + x.slot })
      let e := elemSize x.desc
      let p := x.issued / e
      let s1 :=
        match posRemote x p with
        | none => skipIndex s0 k x
        | some a0 =>
          let a := (a0 + x.issued % e) % 2 ^ 64
          if x.desc.rclass = 3 then issueRun s0 k x x.issued a a0 e ats
          else
            let ahead := match x.partner.bind (fun q => findXfer s k q) with | some y => y.idxUsed + 256 | none => p + 256
            let last := if x.desc.index then min (phaseLimit x) ahead else phaseLimit x
            issueRun s0 k x x.issued a a0 (reqLen x last) ats
      .next (modXfer s1 k x.id trimIdx)

/-- STREAM_REQUEST_RETURN: the `i`-th request in flight, if nothing it waits for is outstanding. `data` is what the host
returned for a HOST read and `err` an error completion from the remote end. -/
def execStreamRequestReturn (k : CoreId) (i : Nat) (data : List Byte) (err : Bool) (s : State) : Out :=
  match (getCore s k).reqs[i]? with
  | none => .next s
  | some r =>
    if r.waits ≠ 0 then .next s
    else
      let s0 := modCore s k (fun m => { m with reqs := dropAt m.reqs i })
      match findXfer s0 k r.xfer with
      | none => .next s0
      | some x =>
        let s1 := if x.desc.rclass = 1 then countMem s0 k .hub x.desc.out r.raddr r.len else s0
        if x.state = .stopping then .next (stopCheck (if x.desc.out && r.err = 0 && !err then useBytes s1 k r.len else s1) k x.id)
        else
          let cause := if r.err ≠ 0 then r.err else if err || (x.desc.rclass = 1 && dieDown s (dieTile (tileOfCore k))) then 7 else 0
          if cause ≠ 0 then .next (xferFault s1 k x cause r.raddr)
          else if x.desc.out then .next (landBytes (useBytes s1 k r.len) k x.id r.len)
          else
            let bs := if x.desc.rclass = 1 then (data ++ List.replicate r.len 0).take r.len else r.data
            .next (deliver s1 k x r.start bs)

/-- DEADLINE_MISS: the deadline of the phase in progress expires (R151); the count pauses while the core's ACLK is stopped (R150). -/
def execDeadlineMiss (k : CoreId) (c : CtxId) (slot : Fin 8) (s : State) : Out :=
  match currentXfer s k c slot.val with
  | none => .next s
  | some x =>
    if coreClocked s k && x.dlDue.isSome && !x.dlMissed && (x.state = .run || x.state = .hold) then
      .next (modStrm (modCtx (modXfer s k x.id (fun y => { y with dlMissed := true })) k c (fun y => { y with dlMiss := y.dlMiss + 1 }))
        k (fun m => { m with evDlMiss := true }))
    else .next s

end Sys2Proof.Machine
end

