-- ==== Sys2Proof/Machine/Stacks.lean ====
section
/-!
DEFINITION. The stack controllers (08_stack_memory_sprouts.md, R176 to R189): units, the read buffer, checks and scrubbing,
the correctable-error table and post-package repair, refresh, and the traffic generator.
-/

namespace Sys2Proof.Machine

/-! ### Locations (Table 8.1) -/

/-- The stack block of a channel's block number (R183). -/
def stackBlock (ch b : Nat) : Nat := (b / 32) * 1024 + ch * 32 + b % 32
def chOfBlock (blk : Nat) : Nat := (blk / 32) % 32
/-- CHANNEL × 64 + BANK, and ROW, of a stack block. -/
def stackBank (blk : Nat) : Nat := chOfBlock blk * 64 + (blk / 1024) % 64
def stackRow (blk : Nat) : Nat := blk / 65536
/-- The 32 blocks of a DRAM row, by channel × 64 + bank and row. -/
def stackRowBlocks (bank row : Nat) : List Nat :=
  (List.range 32).map (fun i => row * 65536 + (bank % 64) * 1024 + (bank / 64) * 32 + i)

/-! ### Checked reads (R182) -/

/-- A record of a stack. -/
def recStack (n : Nat) (cls : Nat) (part : Option PartId) : FaultRec :=
  { recBlank cls 3 3 with part := partByte part, die := BitVec.ofNat 8 (dieStack n) }

/-- Posts a correctable event to the stack's table; a full wait counts it as lost (R166). -/
def postStackCet (s : State) (n : Nat) (e : CetEv) : State :=
  modStack s n (fun t =>
    if t.cetWait.length < 8 then { t with cetWait := t.cetWait ++ [e] } else { t with cetLost := t.cetLost + 1 })

/-- Reads one block with its correction or poisoning; answers whether its data may be used. -/
def touchStack (s : State) (n blk : Nat) : State × Bool :=
  let m := (getStack s n).mem
  let d := blkDiff m blk
  let (m', o) := pmTouch m blk
  match o with
  | .clean => (s, true)
  | .dataFixed | .checkFixed =>
    (postStackCet (modStack s n (fun t => { t with mem := m', evCorr := true, corr := t.corr + 1 })) n
      ⟨0, 0, blk, synRow d, popc (synCol d), lowBit (synCol d), 0⟩, true)
  | .poison => (modStack s n (fun t => { t with evUncorr := true, uncorr := t.uncorr + 1 }), false)
  | .uncorrectable =>
    (raiseRec (modStack s n (fun t => { t with mem := m', evUncorr := true, evPoisoned := true, uncorr := t.uncorr + 1 }))
      { recStack n 0x36 none with address := BitVec.ofNat 64 (blk * 64) }, false)

def touchStacks (s : State) (n : Nat) (bs : List Nat) : State × Bool :=
  bs.foldl (fun (p : State × Bool) b => let r := touchStack p.1 n b; (r.1, p.2 && r.2)) (s, true)

/-- One block after its read: its data, or none where it may not be used. -/
def stackBlockData (s : State) (n blk : Nat) : State × Option (List Byte) :=
  let r := touchStack s n blk
  (r.1, if r.2 then some (memReadBytes (getStack r.1 n).mem.bytes (blk * 64) 64) else none)

/-! ### Pool pages (R225, R226, R231) -/

/-- The pool page that a stack physical address lies in: its partition and virtual address. -/
def poolPageOf (s : State) (pa : Nat) : Option (PartId × Nat) :=
  (liveParts s).findSome? (fun p =>
    ((getPart s p).maps.find? (fun m => m.perm.testBit 3 && m.pa ≤ pa && pa < m.pa + m.pages * 0x200000)).map
      (fun m => (p, (m.va + (pa - m.pa)) / 32768 * 32768)))

/-- The partition that owns the page of a stack physical address. -/
def pageOwner (s : State) (pa : Nat) : Option PartId :=
  (liveParts s).find? (fun p => (getPart s p).maps.any (fun m => m.pa ≤ pa && pa < m.pa + m.pages * 0x200000))

def kvKey (p : PartId) (va : Nat) : Nat := p.val * 2 ^ 33 + va / 32768
def kvPage (s : State) (p : PartId) (va : Nat) : KvPage := tget ⟨0, 0, false⟩ s.kvp.pages (kvKey p va)
def modKv (s : State) (f : Kvp → Kvp) : State := { s with kvp := f s.kvp }
def setKvPage (s : State) (p : PartId) (va : Nat) (g : KvPage) : State := modKv s (fun k => { k with pages := tset k.pages (kvKey p va) g })

/-- STATE of a page (Table 9.10). -/
def kvState (g : KvPage) : Nat := if g.copying then 3 else if 2 ≤ g.refs then 2 else if g.refs = 1 || 0 < g.leases then 1 else 0

/-- A write may reach the address: it is no pool page, or a HELD page with one reference (R231). -/
def writeAllowed (s : State) (pa : Nat) : Bool :=
  match poolPageOf s pa with
  | none => true
  | some (p, va) => kvState (kvPage s p va) == 1 && (kvPage s p va).refs == 1

/-! ### Row steps of a Sprout command beside ordinary accesses (R201) -/

/-- The output blocks of the command in progress that lie in a range and are not yet written. -/
def sprAt (t : Stack) (off len : Nat) : List (Nat × List Byte) :=
  match t.sprRun with
  | some r => if r.fault.isSome then [] else r.out.filter (fun o => decide (off < o.1 + 64) && decide (o.1 < off + len))
  | none => []

/-- The command in progress may go on writing: it has begun to, or every block of its output may be written now (R202, R231). -/
def sprMayWrite (s : State) (n : Nat) : Bool :=
  match (getStack s n).sprRun with
  | some r => r.wrote || r.out.all (fun o => writeAllowed s (n * 2 ^ 36 + o.1))
  | none => false

/-- Stores output blocks. -/
def storeBlocks (m : PMem) (l : List (Nat × List Byte)) : PMem := l.foldl (fun a o => pmStore a o.1 o.2) m

/-- Which output blocks in the range of an ordinary access the command has written before it: no rule orders the two, so a free
bit for each block says (log 70). A write that R231 refuses as it reaches the controller ends the command, which writes no more. -/
def sprLand (s : State) (n off len : Nat) : State :=
  let c := sprAt (getStack s n) off len
  if c.isEmpty || !sprMayWrite s n then s
  else
    let l := c.filter (fun o => (Config.freeWord s.freeCtr).getLsbD ((o.1 / 64 - off / 64) % 64))
    let s1 := { s with freeCtr := s.freeCtr + 1 }
    if l.any (fun o => !writeAllowed s (n * 2 ^ 36 + o.1)) then
      modStack s1 n (fun t => { t with sprRun := t.sprRun.map (fun r => { r with fault := some 2 }) })
    else modStack s1 n (fun t =>
      { t with
        mem := storeBlocks t.mem l
        acts := t.acts + BitVec.ofNat 64 ((l.map (fun o => o.1 / 2048)).eraseDups).length
        sprRun := t.sprRun.map (fun r => { r with out := r.out.filter (fun o => !(l.any (fun e => e.1 = o.1))), wrote := r.wrote || !l.isEmpty }) })

/-! ### The read buffer (R181) -/

def bufFind (t : Stack) (seg : Nat) : Option BufSeg := t.buf.find? (fun b => b.seg = seg)
/-- The segment becomes the most recently used of 64. -/
def bufPut (t : Stack) (b : BufSeg) : Stack := { t with buf := (b :: t.buf.filter (fun x => x.seg != b.seg)).take 64 }

/-- Reads a unit of one 512-byte block through the read buffer. -/
def readUnit (s : State) (n off len : Nat) : State × Option (List Byte) :=
  let seg := off / 2048
  let first := (off % 2048) / 512 * 8
  let pick := fun (b : BufSeg) =>
    ((List.range 8).foldr (fun i (a : Option (List Byte)) =>
      let need := decide (seg * 2048 + (first + i) * 64 < off + len) && decide (off < seg * 2048 + (first + i + 1) * 64)
      if !need then a.map (fun r => List.replicate 64 0 ++ r)
      else match tget none b.blocks (first + i), a with
        | some d, some r => some (d ++ r)
        | _, _ => none) (some [])).map (fun d => (d.drop (off % 512)).take len)
  match bufFind (getStack s n) seg with
  | some b =>
    if b.blocks.any (fun x => x.1 = first) then
      (modStack s n (fun t => bufPut { t with hits := t.hits + 1 } b), pick b)
    else
      let r := (List.range 8).foldl (fun (a : State × BufSeg) i =>
        let d := stackBlockData a.1 n (seg * 32 + first + i)
        (d.1, { a.2 with blocks := tset a.2.blocks (first + i) d.2 })) (sprLand s n (seg * 2048 + first * 64) 512, b)
      (modStack r.1 n (fun t => bufPut { t with acts := t.acts + 1 } r.2), pick r.2)
  | none =>
    let r := (List.range 8).foldl (fun (a : State × BufSeg) i =>
      let d := stackBlockData a.1 n (seg * 32 + first + i)
      (d.1, { a.2 with blocks := tset a.2.blocks (first + i) d.2 })) (sprLand s n (seg * 2048 + first * 64) 512, ⟨seg, pageOwner s (n * 2 ^ 36 + off), []⟩)
    (modStack r.1 n (fun t => bufPut { t with acts := t.acts + 1 } r.2), pick r.2)

/-- Writes bytes over a list at a place. -/
def overlay (l : List Byte) (at_ : Nat) (bs : List Byte) : List Byte := l.take at_ ++ bs ++ l.drop (at_ + bs.length)

/-- A write through the controller updates a buffered copy (R181): whole blocks, and the bytes of a part of one. A write does not count as a use of the
segment (DESIGN CHOICE, log 89). -/
def bufWrite (t : Stack) (off : Nat) (bs : List Byte) : Stack :=
  let upd := fun (seg : Nat) (e : Nat × Option (List Byte)) =>
    let b0 := seg * 2048 + e.1 * 64
    if b0 + 64 ≤ off || off + bs.length ≤ b0 then e
    else if off ≤ b0 && b0 + 64 ≤ off + bs.length then (e.1, some ((bs.drop (b0 - off)).take 64))
    else
      let lo := max off b0
      let hi := min (off + bs.length) (b0 + 64)
      (e.1, e.2.map (fun d => overlay d (lo - b0) ((bs.drop (lo - off)).take (hi - lo))))
  { t with buf := t.buf.map (fun b => { b with blocks := b.blocks.map (upd b.seg) }) }

/-- Writes bytes through the controller (R161, R181). -/
def writeUnit (s : State) (n off : Nat) (bs : List Byte) : State :=
  let r := touchStacks (sprLand s n off bs.length) n ((blocksOf off bs.length).filter (fun b => !blkWhole off bs.length b))
  modStack r.1 n (fun t => bufWrite { t with mem := pmStore t.mem off bs, acts := t.acts + 1 } off bs)

/-- Drops the segments of a partition from every read buffer. -/
def bufDropPart (s : State) (p : PartId) : State :=
  { s with stks := s.stks.map (fun t => { t with buf := t.buf.filter (fun b => b.owner != some p) }) }

/-! ### Grants (R180) -/

/-- The request that the manager serves for a partition: its oldest. -/
def kvFront (s : State) (p : PartId) : Option KvReq := s.kvp.reqs.find? (fun r => r.part = p)
def modFront (s : State) (p : PartId) (f : KvReq → KvReq) : State :=
  let rec go : List KvReq → List KvReq
    | [] => []
    | r :: rs => if r.part = p then f r :: rs else r :: go rs
  modKv s (fun k => { k with reqs := go k.reqs })

/-- A unit of a copy has been served. -/
def copyStep (s : State) (p : PartId) : State := modFront s p (fun r => { r with done := r.done + 1, busy := false })

/-- A unit's answer reaches its requester: the bytes read, or none; `refused` is a write that R231 refuses. A BAR4 access of several
units of which more than one is refused or poisoned counts once (R301). -/
def answerUnit (s : State) (u : StackUnit) (d : Option (List Byte)) (refused : Bool) : State :=
  match u.src with
  | .stream k id o =>
    modCore s k (fun m => { m with reqs := updIf (fun r => r.id = id) (fun r =>
      { r with waits := r.waits - 1,
               err := if r.err ≠ 0 then r.err else if refused then 2 else if d.isNone then 4 else 0,
               data := match u.write, d with | none, some bs => overlay r.data o bs | _, _ => r.data }) m.reqs })
  | .attn k id o =>
    modCore s k (fun m => { m with attn := m.attn.map (fun a => { a with fetches := updIf (fun r => r.id = id) (fun r =>
      { r with waits := r.waits - 1, err := if r.err ≠ 0 then r.err else if d.isNone then 4 else 0,
               data := match d with | some bs => overlay r.data o bs | none => r.data }) a.fetches }) })
  | .bar4 id o =>
    match u.write with
    | some _ =>
      let s1 := if refused && !s.hst.refusals.contains id then
          raiseRec (hstEvent (modHst s (fun h => { h with drops := h.drops + 1, refusals := id :: h.refusals })) .refused)
            { recBlank 0x3F 3 3 with die := BitVec.ofNat 8 (dieStack (u.addr / 2 ^ 36)), address := BitVec.ofNat 64 u.addr }
        else s
      if s1.hst.refusals.contains id && !(s1.stks.toList.any (fun t => t.units.any (fun v => match v.src with | .bar4 j _ => j = id | _ => false))) then
        modHst s1 (fun h => { h with refusals := h.refusals.filter (· != id) })
      else s1
    | none =>
      let s1 := modHst s (fun h => { h with reads := updIf (fun r => r.id = id) (fun r =>
        { r with waits := r.waits - 1, bad := r.bad || d.isNone, data := match d with | some bs => overlay r.data o bs | none => r.data }) h.reads })
      let s2 := if d.isSome || s.hst.reads.any (fun r => r.id = id && r.bad) then s1 else
        raiseRec (hstEvent s1 .poison)
          { recBlank 0x3E 3 3 with die := BitVec.ofNat 8 (dieStack (u.addr / 2 ^ 36)), address := BitVec.ofNat 64 u.addr }
      match s2.hst.reads.find? (fun r => r.id = id && r.waits = 0) with
      | some r =>
        respond (modHst s2 (fun h => { h with reads := h.reads.filter (fun x => x.id != id) }))
          (.bar4 (if r.bad then List.replicate r.data.length 0xFF else r.data) r.bad)
      | none => s2
  | .guest g id o =>
    let s1 := modGuest s g (fun x => { x with dma := updIf (fun r => r.id = id) (fun r =>
      { r with waits := r.waits - 1, bad := r.bad || refused || (u.write.isNone && d.isNone),
               data := match u.write, d with | none, some bs => overlay r.data o bs | _, _ => r.data }) x.dma })
    match (getGuest s1 g).dma.find? (fun r => r.id = id && r.waits = 0 && !r.read) with
    | none => s1
    | some r =>
      toGuest (modGuest s1 g (fun x => { x with dma := x.dma.filter (fun y => y.id != id) })) g
        (if r.bad then guestErr 6 r.tag else ⟨6, r.window, 3, r.tag, 0, 0, []⟩)
  | .kv p => copyStep (modFront s p (fun r => if u.write.isSome then r else { r with unit := List.replicate 512 0, bad := List.replicate 8 true })) p
  | .taproot => s

/-- A unit that cannot be served ends with an error: PEER_ERROR for a stream and for a fetch of an ATTN (R389). -/
def failUnit (s : State) (u : StackUnit) : State :=
  match u.src with
  | .stream k id _ => modCore s k (fun m => { m with reqs := updIf (fun r => r.id = id) (fun r => { r with waits := r.waits - 1, err := if r.err ≠ 0 then r.err else 7 }) m.reqs })
  | .attn k id _ =>
    modCore s k (fun m => { m with attn := m.attn.map (fun a =>
      { a with fetches := updIf (fun r => r.id = id) (fun r => { r with waits := r.waits - 1, err := if r.err ≠ 0 then r.err else 7 }) a.fetches }) })
  | .guest .. => answerUnit s u none true
  | _ => answerUnit s u none false

/-- W_STACK of a partition (R18). -/
def wStack (s : State) (p : Nat) : Nat := (getPart s (Fin.ofNat 32 p)).weights.getD 0 1

/-- The requester of a unit: its partition, 32 for the operator's BAR4 accesses, or 33 for Taproot's staging reads. -/
def unitReq (u : StackUnit) : Nat := match u.part with | some p => p.val | none => if u.src = .taproot then 33 else 32

/-! ### Page copies (R229) -/

/-- The next unit of a partition's page copy: of the source, then the same unit of the destination. -/
def copyNext (s : State) (p : PartId) : Option StackUnit :=
  (kvFront s p).bind (fun r => r.copy.bind (fun c =>
    if r.busy || 128 ≤ r.done then none
    else
      let va := if r.done % 2 = 0 then c.1 else c.2
      (mapOf (getPart s p) va).map (fun m =>
        ⟨.kv p, some p, physOf m va + 512 * (r.done / 2), 512, if r.done % 2 = 0 then none else some r.unit⟩)))

/-- The manager sends the next unit of every copy once the one before has been served (DESIGN CHOICE, log 77). -/
def copiesArrive (s : State) (n : Nat) : State :=
  (List.finRange 32).foldl (fun a p =>
    match copyNext a p with
    | some u =>
      if u.addr / 2 ^ 36 = n then modFront (modStack a n (fun t => { t with units := t.units ++ [u] })) p (fun r => { r with busy := true })
      else a
    | none => a) s

/-- A block is written poisoned. -/
def poisonStackBlock (s : State) (n blk : Nat) : State :=
  raiseRec (modStack s n (fun t =>
    { t with mem := ⟨t.mem.bytes, setDiff t.mem.diff blk poisonDiff⟩, evPoisoned := true,
             buf := t.buf.map (fun b => if b.seg = blk / 32 then
               { b with blocks := b.blocks.map (fun e => if e.1 = blk % 32 then (e.1, none) else e) } else b) }))
    { recStack n 0x36 none with address := BitVec.ofNat 64 (blk * 64) }

/-- A unit of a copy is served: one read keeps the data that the read buffer serves (R181, R229) and which of its blocks may not be used;
one written is written in whole blocks, poisoned where the source was. -/
def serveCopy (s : State) (n off : Nat) (p : PartId) (w : Option (List Byte)) : State :=
  match w with
  | none =>
    let r := readUnit s n off 512
    let blks := ((bufFind (getStack r.1 n) (off / 2048)).map (fun b => b.blocks)).getD []
    let got := (List.range 8).map (fun i => tget none blks ((off % 2048) / 64 + i))
    copyStep (modFront r.1 p (fun x =>
      { x with unit := (got.map (fun d => d.getD (List.replicate 64 0))).flatten, bad := got.map Option.isNone })) p
  | some bs =>
    let bad := ((kvFront s p).map (fun r => r.bad)).getD []
    let s1 := writeUnit s n off bs
    let s2 := (List.range 8).foldl (fun a i => if bad.getD i false then poisonStackBlock a n (off / 64 + i) else a) s1
    copyStep (if bad.any id then modKv s2 (fun k => { k with evCopyPoison := true }) else s2) p

/-- The flits of a core's unit that its stack serves (R260). The hub reaches a stack in the stack's own tile, over no boundary. -/
def countUnit (s : State) (n : Nat) (u : StackUnit) : State :=
  match u.src with
  | .stream k _ _ => countMem s k (.stack n) u.write.isSome u.addr u.len
  | .attn k _ _ => countMem s k (.stack n) u.write.isSome u.addr u.len
  | _ => s

/-- The unit's requester is in the hub. -/
def ofHub : StackSrc → Bool
  | .stream .. => false
  | .attn .. => false
  | _ => true

/-- The bytes of a unit travel between its stack and the stack's tile (R176), and between that tile and the hub for a requester there. -/
def carryUnit (s : State) (n : Nat) (u : StackUnit) (data : List Byte) : State :=
  let ls := unitPayloads u.addr data
  let t := dieTile (n / 2)
  if u.write.isSome then carry (if ofHub u.src then carry s dieHub t ls else s) t (dieStack n) ls
  else let s1 := carry s (dieStack n) t ls; if ofHub u.src then carry s1 t dieHub ls else s1

/-- A granted unit is served. -/
def serveUnit (s : State) (n : Nat) (u : StackUnit) : State :=
  let off := u.addr % 2 ^ 36
  match u.src, u.write with
  | .kv p, w =>
    let bs := match w with | some bs => bs | none => (readUnit s n off 512).2.getD []
    serveCopy (carryUnit s n u bs) n off p w
  | _, none => let r := readUnit s n off u.len; answerUnit (carryUnit r.1 n u (r.2.getD [])) u r.2 false
  | _, some bs =>
    let s1 := carryUnit s n u bs
    if writeAllowed s u.addr then answerUnit (writeUnit s1 n off bs) u (some []) false else answerUnit s1 u none true

/-- No die link carries the unit: the stack's tile is SEVERED, or its core's tile is (R389). -/
def unitCut (s : State) (n : Nat) (u : StackUnit) : Bool :=
  dieDown s (dieTile (n / 2)) ||
  (match u.src with
   | .stream k _ _ => dieDown s (dieTile (tileOfCore k))
   | .attn k _ _ => dieDown s (dieTile (tileOfCore k))
   | _ => false)

/-- STACK_UNIT_GRANT: the controller grants one unit by weighted round-robin and serves it. BAR4 accesses wait for a test to
end (R188); a stack in self-refresh serves nothing (R340). A severed stack ends its units one by one, and a unit that no die link carries
ends with an error. -/
def execStackUnitGrant (n : Fin 8) (s : State) : Out :=
  let t := getStack s n.val
  if dieDown s (dieStack n.val) then
    match t.units with
    | [] => .next s
    | u :: us => .next (failUnit (modStack s n.val (fun x => { x with units := us })) u)
  else if t.selfRef then .next s
  else
    let s0 := copiesArrive s n.val
    let us := (getStack s0 n.val).units
    let work := fun r => (r != 32 || t.tg.run.isNone) && us.any (fun u => unitReq u = r)
    match wrrPick 34 work (fun r => if 32 ≤ r then 4 else wStack s r) t.rr with
    | none => .next s
    | some rr =>
      match us.find? (fun u => unitReq u = rr.1) with
      | none => .next s
      | some u =>
        let s1 := modStack s0 n.val (fun x => { x with rr := rr, units := x.units.eraseP (fun v => unitReq v = rr.1) })
        .next (if unitCut s n.val u then failUnit s1 u else serveUnit (countUnit s1 n.val u) n.val u)

/-! ### Scrubbing, the correctable-error table, repair and refresh (R183 to R187) -/

/-- STACK_SCRUB_READ: a channel scrubs its next block; `ups` are the stored bits of it disturbed before. -/
def execStackScrubRead (n : Fin 8) (ch : Fin 32) (ups : List Nat) (s : State) : Out :=
  let t := getStack s n.val
  if t.selfRef then .next s
  else
    let b := vget t.scrub ch
    let blk := stackBlock ch.val b
    let s1 := modStack s n.val (fun x =>
      { x with mem := ups.foldl (fun m u => pmUpset m blk (u % 584)) x.mem, scrub := vset x.scrub ch ((b + 1) % 2 ^ 25), acts := x.acts + 1 })
    .next (touchStack s1 n.val blk).1

def modStackCet (s : State) (n i : Nat) (f : CetEntry → CetEntry) : State :=
  modStack s n (fun t => { t with cet := vmod t.cet (Fin.ofNat 16 i) f })

/-- The repair of a DRAM row starts (R184 step 2): its blocks are read, corrected or poisoned, in one activation (DESIGN CHOICE, log 78). -/
def startPpr (s : State) (n : Nat) (c : NearCopy) : State :=
  let s1 := modStackCet s n c.entry (fun e => { e with action := 2 })
  let s2 := modStack s1 n (fun t => { t with copies := updIf (fun x => x.bank = c.bank && x.spare = c.spare) (fun x => { x with started := true }) t.copies })
  let s3 := (touchStacks s2 n (stackRowBlocks c.bank c.row)).1
  modStack s3 n (fun t => { t with acts := t.acts + 1 })

/-- A LASTING entry of a stack starts its repair, or finds no repair row (R184, R185). -/
def stackRetire (s : State) (n i blk : Nat) : State :=
  let t := getStack s n
  let bank := stackBank blk
  let used := tget 0 t.pprUsed bank
  if 2 ≤ used then
    raiseRec (modStack (modStackCet s n i (fun e => { e with action := 4 })) n (fun x => { x with evNoSpare := true })) (recStack n 0x37 none)
  else
    let c : NearCopy := ⟨i, bank, stackRow blk, used, false⟩
    let busy := t.copies.any (fun x => x.bank = bank)
    let s1 := modStackCet (modStack s n (fun x => { x with copies := x.copies ++ [c], pprUsed := tset x.pprUsed bank (used + 1) })) n i
      (fun e => { e with action := 1, spare := used })
    if busy then s1 else startPpr s1 n c

/-- STACK_CET_EVENT: the stack's table takes its oldest waiting event. -/
def execStackCetEvent (n : Fin 8) (s : State) : Out :=
  match (getStack s n.val).cetWait with
  | [] => .next s
  | e :: es =>
    let s1 := modStack s n.val (fun t => { t with cetWait := es })
    match cetUpdate (getStack s1 n.val).cet e with
    | none => .next (modStack s1 n.val (fun t => { t with cetLost := t.cetLost + 1 }))
    | some (t, l) =>
      let s2 := modStack s1 n.val (fun x => { x with cet := t })
      match l with
      | some i => .next (stackRetire s2 n.val i e.addr)
      | none => .next s2

/-- STACK_PPR_DONE: the `i`-th repair of the stack, if it runs, completes, which Tops saves (R186); its row is written back in one
activation (DESIGN CHOICE, log 78); the next one of the bank starts. -/
def execStackPprDone (n : Fin 8) (i : Nat) (s : State) : Out :=
  match (getStack s n.val).copies[i]? with
  | none => .next s
  | some c =>
    if !c.started then .next s
    else
      let s1 := toTops (modStack s n.val (fun t =>
        { t with copies := t.copies.eraseIdx i, acts := t.acts + 1, evRepaired := true, repairs := t.repairs + 1, repaired := t.repaired ++ [(c.bank, c.row)] }))
        (.repair (.stackPpr n.val (c.bank / 64) (c.bank % 64) c.row))
      let s2 := modStackCet s1 n.val c.entry (fun e => { e with action := 3 })
      match (getStack s2 n.val).copies.find? (fun x => x.bank = c.bank) with
      | some d => .next (startPpr s2 n.val d)
      | none => .next s2

/-- STACK_REFRESH: a bank refreshes one row; the row count is the model's own, and no value changes (R187). -/
def execStackRefresh (n : Fin 8) (ch : Fin 32) (bank : Fin 64) (s : State) : Out :=
  let key := ch.val * 64 + bank.val
  .next (modStack s n.val (fun t => { t with refresh := tset t.refresh key ((tget 0 t.refresh key + 1) % 16384) }))

/-! ### The traffic generator (R188, R189) -/

/-- An applied stream maps a page of the stack. -/
def stackMapped (s : State) (n : Nat) : Bool := (liveParts s).any (fun p => (getPart s p).maps.any (fun m => m.pa / 2 ^ 36 = n))

/-- One step of PRBS31, x^31 + x^28 + 1: the register and the bit it gives. -/
def prbsStep (r : BitVec 31) : BitVec 31 × Bool :=
  let b := Bool.xor (r.getLsbD 30) (r.getLsbD 27)
  ((r <<< 1) ||| (if b then 1 else 0), b)

/-- The next 64 bits, bit 0 first. -/
def prbsWord (r : BitVec 31) : BitVec 31 × BitVec 64 :=
  (List.range 64).foldl (fun (a : BitVec 31 × BitVec 64) i =>
    let (r', b) := prbsStep a.1
    (r', if b then a.2 ||| BitVec.ofNat 64 (2 ^ i) else a.2)) (r, 0)

/-- The word of a pattern at a stack offset (Table 8.4), but for PRBS. -/
def tgWord (pattern y : Nat) : BitVec 64 :=
  if pattern = 0 then 0
  else if pattern = 1 then BitVec.allOnes 64
  else if pattern = 2 then (if (y / 2 ^ 22) % 2 = 0 then 0x5555555555555555 else 0xAAAAAAAAAAAAAAAA)
  else if pattern = 3 then BitVec.ofNat 64 (2 ^ ((y / 8) % 64))
  else if pattern = 4 then ~~~(BitVec.ofNat 64 (2 ^ ((y / 8) % 64)))
  else BitVec.ofNat 64 y

/-- The blocks that a test covers in a channel, in ascending offset. -/
def tgBlocks (ch first last : Nat) : List Nat :=
  (List.range (last + 1 - first)).flatMap (fun r => (List.range 2048).map (fun i => stackBlock ch ((first + r) * 2048 + i)))

/-- The blocks of a channel with the data of the pattern. -/
def tgData (pattern : Nat) (seed : W32) (ch first last : Nat) : List (Nat × List Byte) :=
  let bs := tgBlocks ch first last
  if pattern = 6 then
    let s0 := (seed ^^^ BitVec.ofNat 32 ch).setWidth 31
    let r := bs.foldl (fun (a : BitVec 31 × List (Nat × List Byte)) b =>
      let w := (List.range 8).foldl (fun (c : BitVec 31 × List Byte) _ => let x := prbsWord c.1; (x.1, c.2 ++ leBytes 8 x.2.toNat)) (a.1, [])
      (w.1, (b, w.2) :: a.2)) (if s0 = 0 then 1 else s0, [])
    r.2.reverse
  else bs.map (fun b => (b, (List.range 8).flatMap (fun i => leBytes 8 (tgWord pattern (b * 64 + 8 * i)).toNat)))

/-- What a test leaves: the memory, failing reads, and the first one by its place in the test. -/
structure TgRun where
  mem   : PMem
  errs  : Nat
  step  : Nat
  first : Option (Nat × Nat)
  deriving DecidableEq, Repr

def tgWriteBlk (t : TgRun) (b : Nat) (d : List Byte) : TgRun := { t with mem := pmStore t.mem (b * 64) d, step := t.step + 1 }

/-- Reads and compares one block: raw data and stored check bits (R189). -/
def tgReadBlk (t : TgRun) (b : Nat) (d : List Byte) : TgRun :=
  if memReadBytes t.mem.bytes (b * 64) 64 = d && blkDiff t.mem b = 0 then { t with step := t.step + 1 }
  else { t with errs := t.errs + 1, step := t.step + 1, first := some (t.first.getD (t.step, b)) }

def tgNot (d : List Byte) : List Byte := d.map (fun b => ~~~b)

/-- A test on the blocks of one channel (Table 8.5). -/
def tgChannel (mode : Nat) (data : List (Nat × List Byte)) (m : PMem) : TgRun :=
  let t0 : TgRun := ⟨m, 0, 0, none⟩
  let w := fun (t : TgRun) => data.foldl (fun a e => tgWriteBlk a e.1 e.2) t
  let r := fun (t : TgRun) => data.foldl (fun a e => tgReadBlk a e.1 e.2) t
  let rw := fun (l : List (Nat × List Byte)) (inv : Bool) (t : TgRun) =>
    l.foldl (fun a e =>
      let x := if inv then tgNot e.2 else e.2
      tgWriteBlk (tgReadBlk a e.1 x) e.1 (tgNot x)) t
  if mode = 1 then w t0
  else if mode = 2 then r t0
  else if mode = 3 then r (w t0)
  else r (rw data.reverse true (rw data.reverse false (rw data true (rw data false (w t0)))))

/-- A test command (R188): it starts, or REFUSED and DONE are set. One that runs already goes on; PATTERN is written (R4). -/
def tgCommand (s : State) (n mode pattern : Nat) : State :=
  let t := getStack s n
  if t.tg.run.isSome then modStack s n (fun x => { x with tg := { x.tg with pattern := pattern } })
  else if stackMapped s n || !t.sprQ.isEmpty || t.sprRun.isSome || (n = 0 && cfgBusy s) || 6 < pattern || mode = 0 || 4 < mode then
    modStack s n (fun x => { x with tg := { x.tg with pattern := pattern, refused := true, done := true } })
  else
    modStack s n (fun x => { x with tg := { x.tg with
      pattern := pattern, refused := false, done := false, run := some (mode, pattern, x.tg.chmask, x.tg.first, x.tg.last) } })

def execTgWrite (n : Fin 8) (pattern : Fin 16) (s : State) : Out := .next (tgCommand s n.val 1 pattern.val)
def execTgRead (n : Fin 8) (pattern : Fin 16) (s : State) : Out := .next (tgCommand s n.val 2 pattern.val)
def execTgWriteRead (n : Fin 8) (pattern : Fin 16) (s : State) : Out := .next (tgCommand s n.val 3 pattern.val)
def execTgMarch (n : Fin 8) (pattern : Fin 16) (s : State) : Out := .next (tgCommand s n.val 4 pattern.val)

/-- Activations of a test: one for each row of each bank in each pass over a selected channel (DESIGN CHOICE, log 78). -/
def tgActs (mode : Nat) (mask : BitVec 32) (first last : Nat) : Nat :=
  ((List.range 32).filter (fun c => mask.getLsbD c)).length * (last + 1 - first) * 64 * (if mode = 3 then 2 else if mode = 4 then 6 else 1)

/-- The selected channels run their tests one after another on the memory; of the first failures, the earliest in its
channel's test counts, then the lowest channel. The seed is read when the test ends (DESIGN CHOICE, log 89). -/
def tgAll (mode pattern : Nat) (mask : BitVec 32) (first last : Nat) (t : Stack) : Stack :=
  let r := (List.range 32).foldl (fun (a : PMem × Nat × BitVec 32 × Option (Nat × Nat × Nat)) ch =>
    if !mask.getLsbD ch then a
    else
      let x := tgChannel mode (tgData pattern t.tg.seed ch first last) a.1
      let f := match x.first, a.2.2.2 with
        | some (st, b), some (st', c', b') => if st < st' then some (st, ch, b) else some (st', c', b')
        | some (st, b), none => some (st, ch, b)
        | none, o => o
      (x.mem, a.2.1 + x.errs, if x.errs = 0 then a.2.2.1 else a.2.2.1 ||| BitVec.ofNat 32 (2 ^ ch), f)) (t.mem, 0, t.tg.failmask, none)
  let g := { t.tg with errs := t.tg.errs + BitVec.ofNat 64 r.2.1, failmask := r.2.2.1, done := true, run := none }
  let g' := match r.2.2.2 with
    | some (_, ch, b) => { g with firstCh := ch, firstBlk := (b / 1024) * 32 + b % 32 }
    | none => g
  { t with mem := r.1, tg := g', evTgDone := true, acts := t.acts + BitVec.ofNat 64 (tgActs mode mask first last) }

/-- TG_DONE: every selected channel has finished (R189). -/
def execTgDone (n : Fin 8) (s : State) : Out :=
  match (getStack s n.val).tg.run with
  | none => .next s
  | some (mode, pattern, mask, first, last) =>
    if (getStack s n.val).selfRef then .next s else .next (modStack s n.val (tgAll mode pattern mask first last))

end Sys2Proof.Machine
end

