-- ==== Sys2Proof/Machine/Sprouts.lean ====
section
/-!
DEFINITION. The Sprouts (08_stack_memory_sprouts.md, R190 to R204): command blocks, their checks, what a command computes,
completion and the fences.
-/

namespace Sys2Proof.Machine

/-! ### The command block (Table 8.6) -/


def sprOp (b : List Byte) : Nat := blkField b 0 1
def sprWFmt (b : List Byte) : Nat := blkField b 1 1 / 16
def sprXFmt (b : List Byte) : Nat := blkField b 1 1 % 16
def sprFlag (b : List Byte) (i : Nat) : Bool := (b.getD 2 0).getLsbD i
def sprRows (b : List Byte) : Nat := blkField b 6 2
def sprSync (b : List Byte) : W32 := BitVec.ofNat 32 (blkField b 8 4)
def sprPitch (b : List Byte) : Nat := blkField b 12 4
def sprK (b : List Byte) : Nat := blkField b 16 4
def sprWva (b : List Byte) : Nat := blkField b 24 8
def sprWsva (b : List Byte) : Nat := blkField b 32 8
def sprXva (b : List Byte) : Nat := blkField b 40 8
def sprOva (b : List Byte) : Nat := blkField b 48 8
def sprAva (b : List Byte) : Nat := blkField b 56 8

/-- The block is ILLEGAL at issue (R191). -/
def sprIllegal (b : List Byte) : Bool :=
  let op := sprOp b
  let gemv := op = 1 || op = 2
  let wf := sprWFmt b
  let xf := sprXFmt b
  let an := blkSigned16 b 4
  !(gemv || op = 3) || blkField b 3 1 != 0 || blkField b 20 4 != 0 || 16 ≤ blkField b 2 1 ||
  (if op = 1 then an < -512 || 511 < an else an != 0) || sprRows b = 0 || 4096 < sprRows b || sprPitch b % 64 != 0 ||
  sprWva b % 64 != 0 || (op != 3 && sprWsva b % 64 != 0) || sprXva b % 64 != 0 || sprOva b % 64 != 0 || sprAva b % 64 != 0 ||
  (if op = 3 then sprK b = 0 || 2 ^ 24 < sprK b || 8 < wf || 8 < xf
   else sprK b % 32 != 0 || sprK b < 32 || 65536 < sprK b || sprPitch b < sprK b * fmtBits wf / 8 ||
     wf = 4 || wf = 5 || !pairOk wf xf || fmtBits wf = 0 || fmtBits xf = 0 || (sprFlag b 0 && !scaledOk wf) || (sprFlag b 1 && !scaledOk xf)) ||
  (!sprFlag b 2 && !sprFlag b 3) ||
  (op = 1 && an = -512 && (sprFlag b 0 || sprFlag b 1 || (leastPlace wf).isNone || (leastPlace xf).isNone))

/-- A Sprout command of an aborted task does nothing (R148); otherwise it is counted and sent to its stack. The first page of
W, or of the output of a FILL, names the stack; where it is not mapped, no stack can hold it and the command ends with
UNMAPPED at once (DEDUCED, log 24). -/
def sprSend (s : State) (k : CoreId) (c : CtxId) (b : List Byte) : IRes :=
  match issueTask s k c, partOfCore s k with
  | some t, some p =>
    let pc := (getCtx s k c).pc
    let s1 := taskOpBegin s k t
    let va := if sprOp b = 3 then sprOva b else sprWva b
    match mapOf (getPart s p) va with
    | none => .doneThen s1 (fun x => taskOpEnd (opTaskFault x k c pc t 1 0) k t)
    | some m =>
      let id := (getCore s1 k).nextId
      let s2 := modCtx (modCore s1 k (fun x => { x with nextId := id + 1 })) k c (fun x => { x with sprOut := x.sprOut + 1 })
      .done (meshSend s2 ⟨.ctx k c, .stack (physOf m va / 2 ^ 36), 2, .command b id pc t⟩)
  | _, _ => .done s

/-- SPR_ISSUE: the word, then the block's offset, then the faults of its contents (R190, R191, R422). -/
def execSprIssue (k : CoreId) (f : FieldsS) (s : State) : Out :=
  .next (runInstr k (fun c s =>
    let a := (gOf s k c f.a).toNat
    match firstFault [(!okS f true false false false 0, .illegal), (a % 64 != 0, .align), (!opbufIn a 64, .range)] with
    | some e => iFault s e
    | none =>
      match readLocal s k .opbuf a 64 with
      | (s', none) => .fault s' .memUncorr 1 (BitVec.ofNat 64 a)
      | (s', some b) =>
        let h := (sprSync b).setWidth 64
        let sync := sprSync b != 0xFFFFFFFF
        match firstFault [(sprIllegal b, .illegal), (sync && handleBad s' k h, .range), (sync && handleForeign s' k h, .syncOwner),
                          (bufForeign s' k c a 64, .bufOwner)] with
        | some e => iFault s' e
        | none =>
          if 16 ≤ (getCtx s' k c).sprOut || !outRoom s' k 64 then .wait s' .sprIssue
          else sprSend s' k c b) s)

/-- SPR_FENCE: waits for the context's Sprout commands, then drops the partition's read-buffer segments in every stack
(R204). -/
def execSprFence (k : CoreId) (f : FieldsS) (s : State) : Out :=
  .next (runInstr k (fun c s =>
    if !okS f false false false false 0 then iFault s .illegal
    else if (getCtx s k c).sprOut ≠ 0 then .wait s .sprFence
    else
      match partOfCore s k with
      | some p => .done (bufDropPart s p)
      | none => .done s) s)

/-! ### At the stack (R198) -/

/-- The answer to a command that its stack cannot run. -/
def sprPeerError (s : State) (n : Nat) (k : CoreId) (c : CtxId) (thin : Bool) (id : Nat) (pc : BitVec 18) (t : Option Nat) : State :=
  meshSend s ⟨.stack n, .ctx k c, 0, if thin then .error id else .cmdError id pc t⟩

/-- The stack, or the tile that it stands at, is SEVERED. -/
def stackCut (s : State) (n : Nat) : Bool := dieDown s (dieStack n) || dieDown s (dieTile (n / 2))

/-- SPROUT_COMMAND_ARRIVE: the frame at place `j` is a Sprout command; its stack queues it while it holds fewer than 64;
a severed stack ends it with an error (R389). -/
def execSproutCommandArrive (j : Nat) (s : State) : Out :=
  match arrives s j with
  | some ⟨.ctx k c, .stack n, _, .command b id pc t⟩ =>
    if stackCut s n then .next (sprPeerError (takeFrame s j) n k c false id pc t)
    else if 64 ≤ (getStack s n).sprQ.length then .next s
    else
      match partOfCore s k with
      | none => .next (takeFrame s j)
      | some p => .next (modStack (takeFrame s j) n (fun x => { x with sprQ := x.sprQ ++ [⟨id, k, c, p, b, pc, t, none⟩] }))
  | some ⟨.ctx k c, .stack n, _, .thinCmd id b xs pages⟩ =>
    if stackCut s n then .next (sprPeerError (takeFrame s j) n k c true id 0 none)
    else if 64 ≤ (getStack s n).sprQ.length then .next s
    else
      match partOfCore s k with
      | none => .next (takeFrame s j)
      | some p => .next (modStack (takeFrame s j) n (fun x => { x with sprQ := x.sprQ ++ [⟨id, k, c, p, b, 0, none, some ⟨xs, pages⟩⟩] }))
  | _ => .next s

/-- The command that the stack runs next, with the round-robin after it. -/
def sprNext (s : State) (n : Nat) : Option (SprCmd × (Nat × Nat)) :=
  let t := getStack s n
  if t.sprRun.isSome || t.selfRef then none
  else
    match wrrPick 32 (fun p => t.sprQ.any (fun c => c.part.val = p)) (wStack s) t.sprRr with
    | none => none
    | some rr => (t.sprQ.find? (fun c => c.part.val = rr.1)).map (fun c => (c, rr))

/-! ### Operands (R192) -/

/-- A range of a partition's addresses with the permission bits it needs. -/
structure SprRange where
  va   : Nat
  len  : Nat
  perm : Nat
  deriving DecidableEq, Repr

/-- C and H of Table 8.8. -/
def accVecC (rows : Nat) : Nat := 64 * ((rows + 3) / 4)
def accVecH (rows : Nat) : Nat := accVecC rows + 64 * ((rows + 255) / 256)

/-- Bytes of x, and the offset of its scales. -/
def sprXBytes (b : List Byte) : Nat := sprK b * fmtBits (sprXFmt b) / 8
def sprXScale (b : List Byte) : Nat := sprXva b + 64 * ((sprXBytes b + 63) / 64)

/-- What a GEMV reads. -/
def sprReads (b : List Byte) : List SprRange :=
  (List.range (sprRows b)).map (fun r => ⟨sprWva b + r * sprPitch b, sprK b * fmtBits (sprWFmt b) / 8, 5⟩) ++
  (if sprFlag b 0 then [⟨sprWsva b, sprRows b * (sprK b / 32), 5⟩] else []) ++ [⟨sprXva b, sprXBytes b, 5⟩] ++
  (if sprFlag b 1 then [⟨sprXScale b, sprK b / 32, 5⟩] else []) ++
  (if sprOp b = 2 then [⟨sprAva b, accVecH (sprRows b) + 64, 5⟩] else [])

/-- What a command writes. -/
def sprWrites (b : List Byte) : List SprRange :=
  if sprOp b = 3 then [⟨sprOva b, 64 * sprK b, 6⟩]
  else
    (if sprFlag b 2 then [⟨sprOva b, 64 * ((4 * sprRows b + 63) / 64), 6⟩] else []) ++
    (if sprFlag b 3 then [⟨sprAva b, accVecH (sprRows b) + 64, 6⟩] else [])

/-- The pages of a range. -/
def sprPages (r : SprRange) : List Nat :=
  if r.len = 0 then [] else (List.range ((r.va + r.len - 1) / 0x200000 - r.va / 0x200000 + 1)).map (fun i => (r.va / 0x200000 + i) * 0x200000)

/-- The cause that a page gives, if any (R192). -/
def pageCause (p : PartCfg) (n perm va : Nat) : Option Nat :=
  match mapOf p va with
  | none => some 1
  | some m => if physOf m va / 2 ^ 36 ≠ n then some 1 else if m.perm &&& perm = perm then none else some 2

def rangesCause (p : PartCfg) (n : Nat) (rs : List SprRange) : Option Nat :=
  rs.findSome? (fun r => (sprPages r).findSome? (pageCause p n r.perm))

/-- The stack offset of a virtual address that was checked. -/
def stackOff (p : PartCfg) (va : Nat) : Nat := ((mapOf p va).map (fun m => physOf m va % 2 ^ 36)).getD 0

/-- Reads a range of virtual addresses, page by page: none where a block of it may not be used. -/
def readVa (s : State) (p : PartCfg) (n va len : Nat) : State × Option (List Byte) :=
  (sprPages ⟨va, len, 0⟩).foldl (fun (a : State × Option (List Byte)) pg =>
    let lo := max va pg
    let hi := min (va + len) (pg + 0x200000)
    let off := stackOff p lo
    let r := touchStacks a.1 n (blocksOf off (hi - lo))
    (r.1, match a.2, r.2 with
      | some bs, true => some (bs ++ memReadBytes (getStack r.1 n).mem.bytes off (hi - lo))
      | _, _ => none)) (s, some [])

/-- Reads every range, though one of them fails (R202). -/
def readAll (s : State) (p : PartCfg) (n : Nat) (rs : List SprRange) : State × Option (List (List Byte)) :=
  rs.foldl (fun (a : State × Option (List (List Byte))) r =>
    let x := readVa a.1 p n r.va r.len
    (x.1, match a.2, x.2 with | some l, some b => some (l ++ [b]) | _, _ => none)) (s, some [])

/-- K element values of a row of bytes, under scales where there are any (R85, R86). -/
def vecVals (f k : Nat) (bytes : List Byte) (scales : Option (List Byte)) : List OpVal :=
  let row := leNat bytes
  (List.range k).map (fun n =>
    let v := decodeEl f (rowEl f row n)
    match scales with
    | some sc => scaleEl f (sc.getD (n / 32) 0).toNat v
    | none => v)

/-! ### GEMV (R194 to R196) -/

/-- The accumulator vector of Table 8.8. -/
def accVecBytes (els : List XEl) (anchor : Int) (dropped ovf : Bool) : List Byte :=
  let r := els.length
  let ns := els.flatMap (fun x => leBytes 16 x.n.toNat)
  let cs := leBytes (accVecH r - accVecC r) (packLanes 2 (els.map (fun x => clsCode x.cls)))
  ns ++ List.replicate (accVecC r - ns.length) 0 ++ cs ++ leBytes 2 (BitVec.ofInt 16 anchor).toNat ++
    leBytes 1 ((if dropped then 1 else 0) + (if ovf then 2 else 0)) ++ List.replicate 61 0

def accVecEl (bs : List Byte) (rows r : Nat) : XEl :=
  ⟨BitVec.ofNat 128 (leNat ((bs.drop (16 * r)).take 16)), clsOf ((bs.getD (accVecC rows + r / 4) 0).toNat / 4 ^ (r % 4))⟩

/-- The 64-byte blocks of an output at a virtual address. -/
def outBlocks (p : PartCfg) (va : Nat) (bs : List Byte) : List (Nat × List Byte) :=
  (List.range (bs.length / 64)).map (fun i => (stackOff p (va + 64 * i), (bs.drop (64 * i)).take 64))

/-- What a GEMV or GEMV_ACC writes, from the operands it read: a cause, or its output blocks. -/
def gemvOut (p : PartCfg) (b : List Byte) (reads : List (List Byte)) : Except Nat (List (Nat × List Byte)) :=
  let rows := sprRows b
  let k := sprK b
  let i0 := rows
  let ws := if sprFlag b 0 then some (reads.getD i0 []) else none
  let i1 := if sprFlag b 0 then i0 + 1 else i0
  let xb := reads.getD i1 []
  let xs := if sprFlag b 1 then some (reads.getD (i1 + 1) []) else none
  let i2 := if sprFlag b 1 then i1 + 2 else i1 + 1
  let vec := reads.getD i2 []
  let acc := decide (sprOp b = 2)
  let h := accVecH rows
  let an : Int :=
    if acc then (BitVec.ofNat 16 (leNat ((vec.drop h).take 2))).toInt
    else if blkSigned16 b 4 = -512 then (leastPlace (sprWFmt b)).getD 0 + (leastPlace (sprXFmt b)).getD 0
    else blkSigned16 b 4
  if an < -511 || 511 < an then .error 2
  else
    let x := vecVals (sprXFmt b) k xb xs
    let out := (List.range rows).map (fun r =>
      let w := vecVals (sprWFmt b) k (reads.getD r []) (ws.map (fun l => (l.drop (r * (k / 32))).take (k / 32)))
      passEl an (if acc then accVecEl vec rows r else xelZero) w x 0)
    let els := out.map (fun o => o.1)
    let drop := out.any (fun o => o.2.dropped) || (acc && (vec.getD (h + 2) 0).getLsbD 0)
    let ovf := out.any (fun o => o.2.sat) || (acc && (vec.getD (h + 2) 0).getLsbD 1)
    let fp := els.flatMap (fun e => leBytes 4 (x128ToFp32 (some an) e))
    .ok ((if sprFlag b 2 then outBlocks p (sprOva b) (fp ++ List.replicate (64 * ((4 * rows + 63) / 64) - 4 * rows) 0) else []) ++
         (if sprFlag b 3 then outBlocks p (sprAva b) (accVecBytes els an drop ovf) else []))

/-! ### Thin commands (R200, R221) -/

/-- The rows that a thin command covers, as ranges: row j of the key half, or of the value half, of each page. -/
def thinReads (b : List Byte) (t : ThinArgs) : List SprRange :=
  let half := if sprOp b = 0x11 then 16384 else 0
  let d := if sprOp b = 0x10 then sprK b else sprRows b
  t.pages.flatMap (fun e => (List.range e.2.2).map (fun j =>
    ⟨e.1 + half + (e.2.1 + j) * sprPitch b, d * fmtBits (sprWFmt b) / 8, 5⟩))

/-- The sums that a thin command returns: one per key row, or one per value element. -/
def thinSums (b : List Byte) (t : ThinArgs) (rows : List (List Byte)) : List PlaceSum :=
  let an := blkSigned16 b 4
  if sprOp b = 0x10 then
    let q := vecVals (sprXFmt b) (sprK b) t.x none
    rows.map (fun r => placeRow an q (vecVals (sprWFmt b) (sprK b) r none) placeZero)
  else
    let pr := vecVals (sprXFmt b) (sprK b) t.x none
    let vs := rows.map (fun r => vecVals (sprWFmt b) (sprRows b) r none)
    (List.range (sprRows b)).map (fun d => placeRow an pr (vs.map (fun v => v.getD d (.fin 0 0))) placeZero)

/-- The blocks that a FILL writes: its pattern (Table 8.7). -/
def fillOut (p : PartCfg) (b : List Byte) : List (Nat × List Byte) :=
  (List.range (sprK b)).map (fun i =>
    (stackOff p (sprOva b + 64 * i), (List.range 64).map (fun j => (BitVec.ofNat 64 (sprWsva b) >>> (8 * (j % 8))).setWidth 8)))

/-! ### Running a command -/

/-- Row segments that ranges touch: one activation each (R178). -/
def rangeActs (p : PartCfg) (rs : List SprRange) : Nat :=
  ((rs.flatMap (fun r => if r.len = 0 then [] else
    (List.range ((r.va + r.len - 1) / 2048 - r.va / 2048 + 1)).map (fun i => stackOff p ((r.va / 2048 + i) * 2048) / 2048))).eraseDups).length

/-- Runs a command up to its output (R192, R193, R202): its checks, its reads, its sums. A parity error repeats a row step; a
second one in the same step ends the command. -/
def sprStart (s : State) (n : Nat) (c : SprCmd) (parity : Option (Fin 32 × Bool)) : State :=
  let p := getPart s c.part
  let b := c.block
  let reads := match c.thin with
    | some t => thinReads b t
    | none => if sprOp b = 3 then [] else sprReads b
  let writes := match c.thin with | some _ => [] | none => sprWrites b
  let put := fun (t : State) (r : SprRun) => modStack t n (fun x => { x with sprRun := some r })
  match rangesCause p n (reads ++ writes) with
  | some e => put s ⟨c, [], [], some e, false⟩
  | none =>
    let s1 := if parity.isSome then modStack s n (fun x => { x with evParity := true }) else s
    match parity with
    | some (ch, true) => put (raiseRec s1 { recStack n 0x39 none with detail := BitVec.ofNat 16 ch.val }) ⟨c, [], [], some 7, false⟩
    | _ =>
      let (s2, d) := readAll s1 p n reads
      let s3 := modStack s2 n (fun x => { x with acts := x.acts + BitVec.ofNat 64 (rangeActs p reads) })
      match d with
      | none => put s3 ⟨c, [], [], some 4, false⟩
      | some l =>
        match c.thin with
        | some t => put s3 ⟨c, [], thinSums b t l, none, false⟩
        | none =>
          if sprOp b = 3 then put s3 ⟨c, fillOut p b, [], none, false⟩
          else
            match gemvOut p b l with
            | .error e => put s3 ⟨c, [], [], some e, false⟩
            | .ok out => put s3 ⟨c, out, [], none, false⟩

/-- The stack starts the command it chooses, if its opcode is `op`. -/
def sprStartOp (s : State) (n op : Nat) (parity : Option (Fin 32 × Bool)) : State :=
  match sprNext s n with
  | none => s
  | some (c, rr) =>
    if sprOp c.block ≠ op then s
    else sprStart (modStack s n (fun x => { x with sprRr := rr, sprQ := x.sprQ.eraseP (fun y => y.part = c.part) })) n c parity

def execGemv (n : Fin 8) (parity : Option (Fin 32 × Bool)) (s : State) : Out := .next (sprStartOp s n.val 1 parity)
def execGemvAcc (n : Fin 8) (parity : Option (Fin 32 × Bool)) (s : State) : Out := .next (sprStartOp s n.val 2 parity)
def execFill (n : Fin 8) (parity : Option (Fin 32 × Bool)) (s : State) : Out := .next (sprStartOp s n.val 3 parity)
def execQkThin (n : Fin 8) (parity : Option (Fin 32 × Bool)) (s : State) : Out := .next (sprStartOp s n.val 0x10 parity)
def execPvThin (n : Fin 8) (parity : Option (Fin 32 × Bool)) (s : State) : Out := .next (sprStartOp s n.val 0x11 parity)

/-! ### Fences (R204, R302) -/

/-- A host-side fence of a stack completes once its commands have. -/
def hfenceCheck (s : State) (n : Nat) : State :=
  match (getStack s n).hfence with
  | some [] => modStack s n (fun t => { t with hfence := none, evHfence := true, buf := [] })
  | _ => s

/-- The fence of a partition completes once its commands have, in every stack. -/
def pfenceCheck (s : State) (p : PartId) : State :=
  if (getPst s p).fence && !(s.stks.toList.any (fun t => t.pfence.any (fun e => e.1 = p))) then
    partEvent (modPst (bufDropPart s p) p (fun x => { x with fence := false })) p .fenceDone
  else s

/-- The commands queued or in progress. -/
def sprOutstanding (t : Stack) : List SprCmd := (match t.sprRun with | some r => [r.cmd] | none => []) ++ t.sprQ

/-- SPR_HFENCE: a write of 1 to SPR_HFENCE.FENCE. A command is named by core and id. -/
def execSprHfence (n : Fin 8) (s : State) : Out :=
  .next (hfenceCheck (modStack s n.val (fun t => { t with hfence := some ((sprOutstanding t).map (fun c => c.id * 128 + c.core.val)) })) n.val)

/-- PART_SPRFENCE: a write of 1 to the fence register of a partition that exists. -/
def execPartSprfence (p : PartId) (s : State) : Out :=
  if !(getPart s p).live then .next s
  else
    let s1 := { s with stks := s.stks.map (fun t =>
      { t with pfence := t.pfence.filter (fun e => e.1 != p) ++
                 ((sprOutstanding t).filter (fun c => c.part = p)).map (fun c => (p, c.id * 128 + c.core.val)) }) }
    .next (pfenceCheck (modPst s1 p (fun x => { x with fence := true })) p)

/-! ### Completion (R203) -/

/-- A command that is no thin one completes: the count of its context, DONE_SYNC, its task. -/
def sprFinish (s : State) (n : Nat) (c : SprCmd) (fault : Option Nat) : State :=
  let s1 := modCtx s c.core c.ctx (fun x => { x with sprOut := x.sprOut - 1 })
  match fault with
  | some e => taskOpEnd (opTaskFault s1 c.core c.ctx c.pc c.task e 0) c.core c.task
  | none =>
    let h := sprSync c.block
    let s2 := if h = 0xFFFFFFFF then s1
      else match handleObj (maskOf s1 c.part) h.toNat with
        | some (r, o) => meshSend s1 ⟨.stack n, .sync r, 1, .syncAdd o 1⟩
        | none => s1
    taskOpEnd s2 c.core c.task

/-- SPROUT_COMMAND_COMPLETE. -/
def execSproutCommandComplete (n : Fin 8) (s : State) : Out :=
  match (getStack s n.val).sprRun with
  | none => .next s
  | some r =>
    let c := r.cmd
    let outs := if r.fault.isSome then [] else r.out
    let refused := r.out.any (fun o => !writeAllowed s (n.val * 2 ^ 36 + o.1))
    let fault := if r.fault.isSome then r.fault else if refused then some 2 else none
    let key := c.id * 128 + c.core.val
    let macs := if fault.isNone && (c.thin.isSome || sprOp c.block != 3) then sprRows c.block * sprK c.block else 0
    let s1 := modStack s n.val (fun t =>
      { t with
        sprRun := none
        mem := if fault.isSome then t.mem else storeBlocks t.mem outs
        cmds := t.cmds + 1
        macs := t.macs + BitVec.ofNat 64 macs
        acts := if fault.isSome then t.acts else t.acts + BitVec.ofNat 64 ((outs.map (fun o => o.1 / 2048)).eraseDups).length
        evFault := t.evFault || fault.isSome
        hfence := t.hfence.map (fun l => l.filter (fun i => i != key))
        pfence := t.pfence.filter (fun e => !(e.1 = c.part && e.2 = key)) })
    let s2 := addMeter s1 c.part 6 macs
    let s3 :=
      if c.thin.isSome then meshSend s2 ⟨.stack n.val, .ctx c.core c.ctx, 3, .thinSums c.id r.sums fault⟩
      else sprFinish s2 n.val c fault
    .next (pfenceCheck (hfenceCheck s3 n.val) c.part)

end Sys2Proof.Machine
end

