-- ==== Sys2Proof/Machine/Engine.lean ====
section
/-!
DEFINITION. Collective trees and their engines (11_chip_links.md, R273 to R285): confirmation, operations in
progress, results and failures.
-/

namespace Sys2Proof.Machine

/-! ### Command blocks and descriptors (Tables 11.7 and 11.8) -/

def colOp (b : List Byte) : Nat := blkField b 0 1
def colFmt (b : List Byte) : Nat := blkField b 1 1
def colRedop (b : List Byte) : Nat := (blkField b 3 1 / 4) % 4
def colCount (b : List Byte) : Nat := blkField b 8 4
def colRootRank (b : List Byte) : Nat := blkField b 12 4
def colRootCore (b : List Byte) : Nat := blkField b 16 2
def colAnchor (b : List Byte) : Int := blkSigned16 b 18
def colReduces (b : List Byte) : Bool := colOp b = 1 || colOp b = 2
/-- C of a descriptor. -/
def descC (b : List Byte) : Nat := blkField b 20 2

/-- V and B (R278). -/
def colV (b : List Byte) : Nat :=
  if colFmt b = 0 then accVecH (colCount b) + 64 else if colFmt b = 2 then 2 * colCount b else 4 * colCount b
def colB (b : List Byte) : Nat := 64 * colCount b
def chunksOf (n : Nat) : Nat := (n + 4095) / 4096
/-- Zeros up to a whole 64-byte unit (R258). -/
def padUnit (bs : List Byte) : List Byte := bs ++ List.replicate ((64 - bs.length % 64) % 64) 0
/-- The `k`-th 4 KiB chunk of bytes. -/
def chunkAt (bs : List Byte) (k : Nat) : List Byte := (bs.drop (4096 * k)).take 4096

/-- The descriptor of an operation: what every core and chip must agree on (R280), in the places of the command block, with C
behind it. The spec gives no layout (DESIGN CHOICE, log 30). -/
def colDesc (b : List Byte) (c : Nat) : List Byte :=
  (b.take 3) ++ [(b.getD 3 0) &&& 0x0C, 0, 0, 0, 0] ++ (b.drop 8).take 12 ++ leBytes 2 c ++ List.replicate 42 0

/-- Bytes that a core writes at DST. -/
def colResult (b : List Byte) (g c : Nat) : Nat :=
  if colOp b = 1 then colV b else if colOp b = 2 then colV b / g else if colOp b = 3 then g * c * colB b
  else if colOp b = 4 then colB b else g * colB b

/-- Chunks that an engine delivers on its chip for one operation. -/
def colDeliveries (b : List Byte) (g c : Nat) : Nat :=
  if colOp b = 1 then chunksOf (colV b) else if colOp b = 2 then chunksOf (colV b / g)
  else if colOp b = 4 then chunksOf (colB b) else g * c * chunksOf (colB b)

/-! ### Results on the chip (R281 step 5) -/

/-- The child nodes of the node of rank `q` among `n` regions: the right parts that R256 combines there. -/
def nodeChildren (n q : Nat) : List Nat :=
  ((List.range 5).filter (fun l => q % 2 ^ (l + 1) = 0 && decide (q + 2 ^ l < n))).map (fun l => q + 2 ^ l)

/-- The child whose part holds rank `t`. -/
def childToward (n q t : Nat) : Option Nat := ((nodeChildren n q).filter (fun x => x ≤ t)).getLast?

def modRed (s : State) (r : RegionId) (f : RedNode → RedNode) : State := { s with red := vmod s.red r f }

/-- An operation that has failed holds nothing at the node (R283). -/
def nodeDrop (n : RedNode) (tree op : Nat) : RedNode :=
  { n with held := n.held.filter (fun c => !(c.tree = tree && c.op = op)), seen := n.seen.filter (fun x => !(x.1 = tree && x.2.1 = op)),
           ovf := n.ovf.filter (fun x => !(x.1 = tree && x.2.1 = op)),
           dead := (tree, op) :: n.dead.filter (fun x => !(x.1 = tree && (x.2 = op || x.2 + 16 ≤ op))) }

/-- A node sends a result chunk to its cores and its child nodes; an ALL_TO_ALL block goes only toward its core. -/
def nodeDown (s : State) (r : RegionId) (p : PartId) (c : RedChunk) : State :=
  let m := maskOf s p
  let n := regionCount m
  let q := rankOfRegion m r
  let toNode := fun (t : State) (x : Nat) => match regionOfRank m x with | some r' => meshSend t ⟨.red r, .red r', 3, .red c⟩ | none => t
  let toCore := fun (t : State) (l : Nat) => meshSend t ⟨.red r, .ctx (coreOf r.val l) 0, 3, .red c⟩
  if colOp c.block = 5 && !c.fail then
    if c.origin / 4 = q then toCore s (c.origin % 4)
    else match childToward n q (c.origin / 4) with | some x => toNode s x | none => s
  else
    let s1 := if c.fail then modRed s r (fun x => nodeDrop x c.tree c.op) else s
    (nodeChildren n q).foldl toNode ((List.range 4).foldl toCore s1)

/-- The root node's region (R256). -/
def rootRegion (s : State) (p : PartId) : RegionId := (regionOfRank (maskOf s p) 0).getD 0

/-- A result chunk reaches the chip's own root node: from its home engine through the mesh, or at once without one. -/
def toRoot (s : State) (p : PartId) (t : Nat) (c : RedChunk) : State :=
  match (treeRec s p t).bind homeDie with
  | some d => meshSend s ⟨.link d, .red (rootRegion s p), 3, .red c⟩
  | none => nodeDown s (rootRegion s p) p c

/-! ### Operations at the engine -/

def findOp (t : Tree) (op : Nat) : Option EngOp := t.ops.find? (fun o => o.op = op)
def modOp (s : State) (p : PartId) (t op : Nat) (f : EngOp → EngOp) : State :=
  modTree s p t (fun x => { x with ops := updIf (fun o => o.op = op) f x.ops })

def parentEdge (r : TreeRec) : Option Nat := r.edges.findIdx? (fun e => e.role = 0)
def childEdges (r : TreeRec) : List Nat := (List.range r.edges.length).filter (fun e => (edgeRec r e).role = 1)

/-- The descriptor of an operation becomes known: it is checked against the first one, and the first one goes up the parent
edge. Answers whether they agree. -/
def engNote (s : State) (p : PartId) (t op : Nat) (d : List Byte) : State × Bool :=
  match findTree s p t, treeRec s p t with
  | some x, some r =>
    match findOp x op with
    | some o => (s, o.desc = d)
    | none =>
      let s1 := modTree s p t (fun x =>
        { x with ops := x.ops.filter (fun o => decide (op < o.op + 16)) ++ [⟨op, d, [], false, 0, [], [], []⟩], dead := x.dead.filter (fun n => op < n + 16) })
      (match parentEdge r with | some e => edgeSend s1 p t e (plainFrame kDesc t op d) | none => s1, true)
  | _, _ => (s, true)

/-- The chunks that the chip still expects are all delivered. -/
def opDone (o : EngOp) (g : Nat) : Bool := decide (colDeliveries o.desc g (descC o.desc) ≤ o.delivered)

/-- Delivers a result chunk on the chip; the last one completes the operation there. -/
def deliverOwn (s : State) (p : PartId) (t op origin rank dst chunk : Nat) (data : List Byte) : State :=
  match findTree s p t, treeRec s p t with
  | some x, some r =>
    match findOp x op with
    | none => s
    | some o =>
      let s1 := toRoot s p t ⟨t, op, false, o.desc, origin, rank, dst, chunk, 0, 0, false, data⟩
      let o1 := { o with delivered := o.delivered + 1 }
      modTree s1 p t (fun y => { y with ops := updIf (fun z => z.op = op) (fun _ => o1) y.ops,
                                        count := if opDone o1 r.group && !opDone o r.group then y.count + 1 else y.count })
  | _, _ => s

/-- An operation fails on this chip (R283): later frames of it are discarded, the record is written, the commands fault. -/
def opFailHere (s : State) (p : PartId) (t op : Nat) : State :=
  let d := (treeRec s p t).bind homeDie
  let s1 := modTree s p t (fun x => { x with ops := x.ops.filter (fun o => o.op != op), stash := x.stash.filter (fun c => c.op != op),
                                             dead := op :: x.dead, count := x.count + 1 })
  let s2 := match d with | some n => modLink s1 n (fun l => { l with evOpFail := true }) | none => s1
  let s3 := raiseRec s2 { recBlank 0x3B 3 3 with
    part := BitVec.ofNat 8 p.val, detail := BitVec.ofNat 16 t, address := BitVec.ofNat 64 op
    die := BitVec.ofNat 8 (match d with | some n => dieLink n | none => tileOfRegion (rootRegion s p).val) }
  toRoot s3 p t ⟨t, op, false, [], 0, 0, 0, 0, 0, 0, true, []⟩

/-- The engine that finds a failure, or hears of one from an edge, tells its other edges. -/
def engFail (s : State) (p : PartId) (t op : Nat) (source : Option Nat) : State :=
  match findTree s p t with
  | none => s
  | some x =>
    if x.dead.contains op then s
    else
      (List.range x.edges.length).foldl (fun a e => if source == some e then a else edgeSend a p t e (plainFrame kFail t op []))
        (opFailHere s p t op)

/-- BROKEN is entered (Table 11.6): the operations in progress fail, and every edge whose port is UP hears it. -/
def treeBreak (s : State) (p : PartId) (t cause : Nat) : State :=
  match findTree s p t, treeRec s p t with
  | some x, some r =>
    if x.st = .broken then s
    else
      let nums := (((x.ops.filter (fun o => !opDone o r.group)).map (fun o => o.op)) ++ x.stash.map (fun c => c.op)).eraseDups
      let s1 := modTree s p t (fun y => { y with st := .broken, cause := cause })
      let s2 := match homeDie r with | some d => modLink s1 d (fun l => { l with evBroken := true }) | none => s1
      let s3 := nums.foldl (fun a n => opFailHere a p t n) s2
      (List.range x.edges.length).foldl (fun a e =>
        if (getPort a (activePort r x e)).st == .up then
          edgeSend (edgeSend a p t e (plainFrame kFail t 0 [])) p t e (plainFrame kReset t 0 [])
        else a) s3
  | _, _ => s

/-! ### Data on its way (R281) -/

inductive Route where
  | self
  | edge (e : Nat)
  | parent
  deriving DecidableEq, Repr

/-- The route table of a tree (R276). -/
def routeOf (r : TreeRec) (x : Tree) (rank : Nat) : Route :=
  if rank = r.rank then .self
  else match (childEdges r).find? (fun e => (getEdge x e).ranks.contains rank) with | some e => .edge e | none => .parent

/-- The operation moves a block of every core. CHUNK counts within one block and no field of a frame names a core: the blocks of a
chip follow one another in partition core number (DESIGN CHOICE, log 30). -/
def manyBlocks (d : List Byte) : Bool := colOp d = 3 || colOp d = 5

/-- Chunks of a source and destination rank that have been delivered. -/
def gotCount (o : EngOp) (rank dst : Nat) : Nat := ((o.got.find? (fun e => e.1 = rank && e.2.1 = dst)).map (fun e => e.2.2)).getD 0
def gotNext (o : EngOp) (rank dst : Nat) : EngOp :=
  { o with got := (rank, dst, gotCount o rank dst + 1) :: o.got.filter (fun e => !(e.1 = rank && e.2.1 = dst)) }

def dataFrame (kind t op rank dst chunk : Nat) (data : List Byte) : LinkFrame := ⟨kind, t, 0, rank, op, dst, chunk, data⟩

/-- Delivers a result chunk of a source and destination rank on the chip; its place among them names its core. -/
def deliverNext (s : State) (p : PartId) (t op : Nat) (d : List Byte) (rank dst chunk : Nat) (data : List Byte) : State :=
  match (findTree s p t).bind (fun x => findOp x op) with
  | none => s
  | some o =>
    if manyBlocks d then
      deliverOwn (modOp s p t op (fun z => gotNext z rank dst)) p t op (gotCount o rank dst / chunksOf (colB d)) rank dst chunk data
    else deliverOwn s p t op 0 rank dst chunk data

/-- A result chunk at an engine goes down every child edge that takes it and is delivered on the chip. -/
def engDown (s : State) (p : PartId) (t op : Nat) (d : List Byte) (rank dst chunk : Nat) (data : List Byte) : State :=
  match findTree s p t, treeRec s p t with
  | some x, some r =>
    let es := (childEdges r).filter (fun e =>
      if colOp d = 2 || colOp d = 5 then decide (routeOf r x dst = .edge e) else true)
    let here := if colOp d = 2 || colOp d = 5 then decide (routeOf r x dst = .self) else true
    let s1 := es.foldl (fun a e => edgeSend a p t e (dataFrame kDown t op rank dst chunk data)) s
    if here then deliverNext s1 p t op d rank dst chunk data else s1
  | _, _ => s

/-- A block of an operation that does not reduce moves on (R281). -/
def engUp (s : State) (p : PartId) (t op : Nat) (d : List Byte) (rank dst chunk : Nat) (data : List Byte) : State :=
  match findTree s p t, treeRec s p t with
  | some x, some r =>
    match parentEdge r with
    | none => engDown s p t op d rank dst chunk data
    | some e =>
      if colOp d = 5 && routeOf r x dst ≠ .parent then engDown s p t op d rank dst chunk data
      else edgeSend s p t e (dataFrame kUp t op rank dst chunk data)
  | _, _ => s

/-- Of the chip's own chunks, those go on whose turn it is. -/
def engOrder (s : State) (p : PartId) (t op : Nat) (d : List Byte) (rank : Nat) : Nat → State
  | 0 => s
  | fuel + 1 =>
    match (findTree s p t).bind (fun x => findOp x op) with
    | none => s
    | some o =>
      match o.wait.find? (fun c => tget 0 o.sent c.dst = c.origin * chunksOf (colB d) + c.chunk) with
      | none => s
      | some c =>
        let s1 := modOp s p t op (fun z => { z with wait := z.wait.erase c, sent := tset z.sent c.dst (tget 0 z.sent c.dst + 1) })
        engOrder (engUp s1 p t op d rank c.dst c.chunk c.data) p t op d rank fuel

/-- A chunk of the chip's own part reaches a READY engine, or the root node of a tree without one. -/
def engTake (s : State) (p : PartId) (t : Nat) (c : RedChunk) : State :=
  if c.fail then engFail s p t c.op none
  else
    match treeRec s p t with
    | none => s
    | some r =>
      let d := colDesc c.block (4 * regionCount (maskOf s p))
      let n := engNote s p t c.op d
      if !n.2 then engFail n.1 p t c.op none
      else if colReduces d then
        if r.edges.isEmpty then deliverOwn n.1 p t c.op 0 0 0 c.chunk c.data
        else modOp n.1 p t c.op (fun o => { o with parts := o.parts ++ [(255, c.chunk, c.data)] })
      else if colOp d = 4 && !(c.origin = colRootCore d && r.rank = colRootRank d) then n.1
      else if manyBlocks d then
        let s1 := modOp n.1 p t c.op (fun o => { o with wait := o.wait ++ [c] })
        engOrder s1 p t c.op d r.rank ((((findTree s1 p t).bind (fun x => findOp x c.op)).map (fun o => o.wait.length)).getD 0)
      else engUp n.1 p t c.op d r.rank c.dst c.chunk c.data

/-- A chunk of the chip's own part arrives: it waits while the tree is CONFIRMING, and fails at once while it is BROKEN. -/
def engOwn (s : State) (p : PartId) (t : Nat) (c : RedChunk) : State :=
  match findTree s p t with
  | none => s
  | some x =>
    if x.dead.contains c.op then s
    else
      match x.st with
      | .confirming => modTree s p t (fun y => { y with stash := y.stash ++ [c] })
      | .broken => opFailHere s p t c.op
      | .ready => engTake s p t c

/-- The tree becomes READY: what waited goes on. -/
def treeReady (s : State) (p : PartId) (t : Nat) : State :=
  match findTree s p t, treeRec s p t with
  | some x, some r =>
    let s1 := modTree s p t (fun y => { y with st := .ready, stash := [] })
    let s2 := (childEdges r).foldl (fun a e => edgeSend a p t e (plainFrame kReady t 0 [])) s1
    x.stash.foldl (fun a c => engOwn a p t c) s2
  | _, _ => s

/-! ### Combining (R257, R282) -/

def bytesAt (bs : List Byte) (o n : Nat) : List Byte := (bs.drop o).take n

/-- Two packed arrays of `w`-byte elements, element by element. -/
def zipEls (w : Nat) (f : Nat → Nat → Nat) (l r : List Byte) : List Byte :=
  (List.range (l.length / w)).flatMap (fun i => leBytes w (f (leNat (bytesAt l (w * i) w)) (leNat (bytesAt r (w * i) w))))

/-- One byte of element classes. -/
def clsByte (a b : Byte) : Byte :=
  BitVec.ofNat 8 (packLanes 2 ((List.range 4).map (fun i => clsCode (clsCombine (clsOf (a.toNat / 4 ^ i)) (clsOf (b.toNat / 4 ^ i))))))

/-- A chunk of two accumulator vectors of `rows` elements, from byte `off` of the vector on; and whether a sum was clamped. -/
def x128Chunk (rows off : Nat) (l r : List Byte) : List Byte × Bool :=
  let cells := (List.range (l.length / 16)).map (fun i =>
    let o := off + 16 * i
    let a := bytesAt l (16 * i) 16
    let b := bytesAt r (16 * i) 16
    if o < 16 * rows then
      let v := xClamp ((BitVec.ofNat 128 (leNat a)).toInt + (BitVec.ofNat 128 (leNat b)).toInt)
      (leBytes 16 (BitVec.ofInt 128 v.1).toNat, v.2)
    else if o < accVecC rows then (a, false)
    else if o < accVecH rows then ((List.range 16).map (fun j => clsByte (a.getD j 0) (b.getD j 0)), false)
    else if o = accVecH rows then ([a.getD 0 0, a.getD 1 0, (a.getD 2 0) ||| (b.getD 2 0)] ++ a.drop 3, false)
    else (a, false))
  (cells.flatMap (fun c => c.1), cells.any (fun c => c.2))

/-- left ⊕ right for the chunk at byte `off` (Table 10.6). -/
def combChunk (d : List Byte) (off : Nat) (l r : List Byte) : List Byte × Bool :=
  let f := fun (x : Lane) => if colRedop d = 0 then laneAdd x else laneSel x (colRedop d = 1)
  if colFmt d = 0 then x128Chunk (colCount d) off l r
  else if colFmt d = 1 then (zipEls 4 (f .fp32) l r, false)
  else if colFmt d = 2 then (zipEls 2 (f .bf16) l r, false)
  else (zipEls 4 (f .int32) l r, false)

/-- The chunk holds the header of an accumulator vector. -/
def hasHeader (d : List Byte) (chunk : Nat) (data : List Byte) : Bool :=
  colFmt d = 0 && decide (4096 * chunk ≤ accVecH (colCount d)) && decide (accVecH (colCount d) < 4096 * chunk + data.length)

/-- OVERFLOW is set in the header of a vector (Table 8.8). -/
def setOvf (d : List Byte) (chunk : Nat) (data : List Byte) : List Byte :=
  let o := accVecH (colCount d) - 4096 * chunk + 2
  data.set o ((data.getD o 0) ||| 2)

/-- The result of a reduction at the root engine: REDUCE_SCATTER waits for all of it, since its segments cross chunks. -/
def engResult (s : State) (p : PartId) (t : Nat) (o : EngOp) (g chunk : Nat) (data : List Byte) : State :=
  if colOp o.desc = 1 then engDown s p t o.op o.desc 0 0 chunk data
  else
    let ps := o.parts ++ [(254, chunk, data)]
    let s1 := modOp s p t o.op (fun x => { x with parts := ps })
    let n := chunksOf (colV o.desc)
    let whole := (List.range n).map (fun k => (ps.find? (fun e => e.1 = 254 && e.2.1 = k)).map (fun e => e.2.2))
    if whole.any (fun x => x.isNone) then s1
    else
      let bs := whole.flatMap (fun x => x.getD [])
      let seg := colV o.desc / g
      (List.range g).foldl (fun a r => (List.range (chunksOf seg)).foldl (fun b k =>
        engDown b p t o.op o.desc 0 r k (padUnit (chunkAt (bytesAt bs (r * seg) seg) k))) a) s1

/-- What the `i`-th operation of a READY tree can combine next: the operation, the chunk's number, the chip's own part and every
child's. -/
def combReady (x : Tree) (r : TreeRec) (i : Nat) : Option (EngOp × Nat × List Byte × List (List Byte)) :=
  match x.ops[i]? with
  | none => none
  | some o =>
    match o.parts.find? (fun e => e.1 = 255) with
    | none => none
    | some (_, k, own) =>
      let cs := (childEdges r).map (fun e => (o.parts.find? (fun q => q.1 = e && q.2.1 = k)).map (fun q => q.2.2))
      if x.st ≠ .ready || !colReduces o.desc || cs.any (fun c => c.isNone) then none else some (o, k, own, cs.map (fun c => c.getD []))

/-- W_LINK of a partition. -/
def wLink (s : State) (p : Nat) : Nat := (getPart s (Fin.ofNat 32 p)).weights.getD 1 1

/-- The partition has a chunk to combine at a link die's engine. -/
def linkWork (s : State) (d p : Nat) : Bool :=
  s.trees.any (fun x => x.part.val = p && (match treeRec s x.part x.tree with
    | some r => homeDie r == some d && (List.range x.ops.length).any (fun i => (combReady x r i).isSome)
    | none => false))

/-- A link die's engine grants among partitions by W_LINK, one chunk a grant (R16, R18; the spec does not say what one grant moves:
DESIGN CHOICE, log 83): the state after the grant, where it goes to the partition. -/
def linkTurn (s : State) (d : Nat) (p : PartId) : Option State :=
  match wrrPick 32 (linkWork s d) (wLink s) (vget s.links (Fin.ofNat 3 d)).rr with
  | some g => if g.1 = p.val then some (modLink s d (fun l => { l with rr := g })) else none
  | none => none

/-- The chip's part of a chunk is combined, strictly left to right, and moves on. -/
def engCombine (s : State) (p : PartId) (t : Nat) (r : TreeRec) (o : EngOp) (k : Nat) (own : List Byte) (cs : List (List Byte)) : State :=
  let z := cs.foldl (fun (a : List Byte × Bool) c =>
    let y := combChunk o.desc (4096 * k) a.1 c
    (y.1, a.2 || y.2)) (own, false)
  let ovf := o.ovf || z.2
  let data := if ovf && hasHeader o.desc k z.1 then setOvf o.desc k z.1 else z.1
  let o1 := { o with parts := o.parts.filter (fun q => q.2.1 != k || q.1 = 254), ovf := ovf }
  let s1 := modOp s p t o.op (fun _ => o1)
  match parentEdge r with
  | some e => edgeSend s1 p t e (dataFrame kUp t o.op r.rank 0 k data)
  | none => engResult s1 p t o1 r.group k data

/-- ENGINE_COMBINE: the `i`-th operation of a READY tree combines its next chunk, where it holds the chip's own and every child's and
the engine's grant goes to its partition. -/
def execEngineCombine (p : PartId) (t : Fin 8) (i : Nat) (s : State) : Out :=
  match findTree s p t.val, treeRec s p t.val with
  | some x, some r =>
    match combReady x r i, homeDie r with
    | some (o, k, own, cs), some d =>
      match linkTurn s d p with
      | some s1 => .next (engCombine s1 p t.val r o k own cs)
      | none => .next s
    | _, _ => .next s
  | _, _ => .next s

/-! ### Edges and ports (R273, R274) -/

/-- The port is UP at no less than its MIN_WIDTH. -/
def portFit (s : State) (p : PartId) (port : Nat) : Bool :=
  port != 0xFF && (getPort s port).st == .up &&
  decide ((((getPart s p).ports.find? (fun r => r.port = port)).map (fun r => r.minWidth)).getD 0 ≤ (getPort s port).width)

/-- The frames of an edge go out again on its active port, in order; UP and DOWN payload is counted. -/
def edgeResend (s : State) (r : TreeRec) (t : Tree) (e : Nat) (l : List LinkFrame) : State :=
  let n := ((l.filter (fun f => !kindCtrl f.kind)).map (fun f => f.data.length)).foldl (· + ·) 0
  let s1 := modLink s ((homeDie r).getD 0) (fun d => { d with bytes := d.bytes + BitVec.ofNat 64 n })
  pump (modPort s1 (activePort r t e) (fun x => { x with rsq := x.rsq ++ l })) (activePort r t e)

/-- An edge changes to its other port, on which every unacknowledged frame goes out again. -/
def edgeSwitch (s : State) (p : PartId) (t e : Nat) : State :=
  match findTree s p t, treeRec s p t with
  | some x, some r =>
    let old := activePort r x e
    let y := getEdge x e
    let d := (homeDie r).getD 0
    let s1 := modPort s old (fun z => dropTree z t)
    let s2 := modLink (modEdge s1 p t e (fun z => { z with alt := !z.alt })) d (fun l =>
      { l with evSwitch := true, resend := l.resend + BitVec.ofNat 64 y.unacked.length })
    match findTree s2 p t with
    | none => s2
    | some x2 => edgeResend s2 r x2 e y.unacked
  | _, _ => s

/-- A port has left UP for good or come back narrower: each edge that uses it switches, or its tree breaks. -/
def portEdges (s : State) (port : Nat) : State :=
  s.trees.foldl (fun a x =>
    match treeRec a x.part x.tree with
    | none => a
    | some r =>
      (List.range x.edges.length).foldl (fun b e =>
        match findTree b x.part x.tree with
        | none => b
        | some y =>
          if activePort r y e ≠ port || y.st = .broken || portFit b x.part port then b
          else
            let other := if (getEdge y e).alt then (edgeRec r e).primary else (edgeRec r e).alternate
            if portFit b x.part other then edgeSwitch b x.part x.tree e else treeBreak b x.part x.tree 1) a) s

/-- PORT_TRAIN_TIMEOUT, or a step that fails: the port is FAILED with the step's cause. -/
def portFail (s : State) (p cause : Nat) : State :=
  portEdges (modPort s p (fun x => { x with st := .failed, cause := cause, evFailed := true })) p

def stepCause : TrainStep → Nat
  | .detect => 1
  | .equalize => 2
  | .deskew => 3
  | .width => 2
  | .identify => 4

def execPortTrainTimeout (p : Fin 24) (s : State) : Out :=
  .next (if (getPort s p.val).st == .training then portFail s p.val (stepCause (getPort s p.val).step) else s)

/-- The port becomes UP: unacknowledged flits are replayed and what waits is sent (R270); the settings of a full training are
saved (R271). -/
def portUp (s : State) (p : Nat) : State :=
  let x := getPort s p
  let s1 := modPort s p (fun y =>
    { y with st := .up, slot := 0, out := [], rxPair := none, rxLost := false, evRetrained := y.evRetrained || y.again, evNarrowed := y.evNarrowed || y.width < y.prevWidth,
             sets := if y.saved then y.sets else tset y.sets y.band ⟨y.ident, y.peer, y.width⟩ })
  let s2 := if x.replay.isEmpty then s1 else countReplay s1 p x.replay.length
  portEdges (pump s2 p) p

/-- A training with saved settings that does not hold gives way to one full training (R271). -/
def trainAgain (x : LinkPort) : LinkPort :=
  { x with saved := false, step := .detect, width := 0, quads := 0, peer := 0, reversed := false, polarity := 0, ident := [] }

/-- WIDTH with saved settings gives fewer lanes than they reached. -/
def narrower (x : LinkPort) (n : Nat) : Bool := x.saved && (savedFor x).any (fun v => n < v.width)

/-- PORT_TRAIN_STEP_DONE. -/
def execPortTrainStepDone (p : Fin 24) (r : TrainRes) (s : State) : Out :=
  let x := getPort s p.val
  if x.st != .training then .next s
  else
    match x.step, r with
    | .detect, .detected => .next (modPort s p.val (fun y => { y with step := .equalize }))
    | .equalize, .equalized => .next (modPort s p.val (fun y => { y with step := .deskew }))
    | .deskew, .deskewed rev pol => .next (modPort s p.val (fun y => { y with step := .width, reversed := rev, polarity := pol }))
    | .width, .widths q =>
      let n := 4 * ((List.range 4).filter (fun i => q.getLsbD i)).length
      if narrower x n then .next (modPort s p.val trainAgain)
      else if n = 0 then .next (portFail s p.val 2)
      else .next (modPort s p.val (fun y => { y with step := .identify, quads := q, width := n }))
    | .identify, .identified id peer =>
      let y := { x with ident := (id ++ List.replicate 16 0).take 16, peer := peer % 32 }
      let stale := x.saved && (savedFor x).any (fun v => v.ident != y.ident || v.peer != y.peer)
      if stale then .next (modPort s p.val trainAgain)
      else .next (portUp (modPort s p.val (fun _ => y)) p.val)
    | _, _ => .next s

/-! ### Frames that arrive (R268, R275 to R285) -/

/-- Sends a frame ACK on an edge. -/
def ackFrame (s : State) (p : PartId) (t e seq : Nat) : State := edgeSend s p t e { plainFrame kAck t 0 [] with seq := seq }

/-- A sequence number that the receiver has consumed, when the next one is `next` (R274). -/
def seqConsumed (next seq : Nat) : Bool := seq != next && decide ((next + 65536 - seq) % 65536 < 32768)

/-- The frame can be consumed: it belongs to no edge, carries no sequence, was consumed before, or is the next one and the engine is
ready for it. One beyond the next waits. -/
def frameTakes (s : State) (port : Nat) (ready : State → PartId → Nat → LinkFrame → Bool) (x : LinkFrame) : Bool :=
  match frameEdge s port x.tree with
  | none => true
  | some (p, e) =>
    !kindSequenced x.kind ||
    (match findTree s p x.tree with
     | none => true
     | some t => partResetting s p || seqConsumed (getEdge t e).rxSeq x.seq || (x.seq = (getEdge t e).rxSeq && ready s p e x))

/-- The oldest frame of a kind at a port that can be consumed: a sequenced frame only behind no other one of its tree. It leaves
the port; a sequenced one is acknowledged, and one that was consumed before is only acknowledged again (R274). While the tree's owner is
under a partition reset its frames are acknowledged and discarded (R383). -/
def takeFront (s : State) (port kind : Nat) (ready : State → PartId → Nat → LinkFrame → Bool)
    (f : State → PartId → Nat → Nat → LinkFrame → State) : State :=
  let q := (getPort s port).rxq
  match (List.range q.length).find? (fun i =>
      match q[i]? with
      | none => false
      | some x => x.kind = kind && !(kindSequenced kind && (q.take i).any (fun y => y.tree = x.tree && kindSequenced y.kind)) &&
          frameTakes s port ready x) with
  | none => s
  | some i =>
    match q[i]? with
    | none => s
    | some x =>
      let s1 := modPort s port (fun y => { y with rxq := y.rxq.eraseIdx i })
      match frameEdge s port x.tree with
      | none => s1
      | some (p, e) =>
        if !kindSequenced kind then (if partResetting s p then s1 else f s1 p x.tree e x)
        else
          match findTree s p x.tree with
          | none => s1
          | some t =>
            if x.seq ≠ (getEdge t e).rxSeq then ackFrame s1 p x.tree e x.seq
            else
              let s2 := ackFrame (modEdge s1 p x.tree e (fun z => { z with rxSeq := (z.rxSeq + 1) % 65536 })) p x.tree e x.seq
              if partResetting s p then s2 else f s2 p x.tree e x

def always (_ : State) (_ : PartId) (_ : Nat) (_ : LinkFrame) : Bool := true

/-- FRAME_ACK: every frame up to the one named is released, and waiting frames enter the window. -/
def execFrameAck (p : Fin 24) (s : State) : Out :=
  .next (takeFront s p.val kAck always (fun s q t e f =>
    edgeFill (modEdge s q t e (fun z =>
      { z with unacked := if z.unacked.any (fun g => g.seq = f.seq) then (z.unacked.dropWhile (fun g => g.seq != f.seq)).drop 1 else z.unacked })) q t e 33))

/-- What a CONFIRMING tree can do next: once every edge is confirmed and every child has sent its ranks, the root judges the
group and another chip sends its subtree up. -/
def confirmCheck (s : State) (p : PartId) (t : Nat) : State :=
  match findTree s p t, treeRec s p t with
  | some x, some r =>
    if x.st ≠ .confirming || x.sent || !x.edges.all (fun e => e.confirmed) || !(childEdges r).all (fun e => (getEdge x e).got) then s
    else
      let ranks := r.rank :: (childEdges r).flatMap (fun e => (getEdge x e).ranks)
      match parentEdge r with
      | none =>
        if ranks.length = r.group && (List.range r.group).all (fun i => ranks.contains i) then treeReady (modTree s p t (fun y => { y with sent := true })) p t
        else treeBreak s p t 3
      | some e =>
        let l := (List.range 8192).flatMap (fun i => List.replicate (ranks.count i) i)
        (List.range (l.length / 2048 + 1)).foldl (fun a i =>
          edgeSend a p t e (plainFrame kSubtree t 0 (((l.drop (2048 * i)).take 2048).flatMap (leBytes 2)))) (modTree s p t (fun y => { y with sent := true }))
  | _, _ => s

/-- The payload of HELLO: GROUP, RANK, ROLE and the rank expected, two bytes each (DESIGN CHOICE, log 30). -/
def helloData (r : TreeRec) (e : Nat) : List Byte :=
  leBytes 2 r.group ++ leBytes 2 r.rank ++ leBytes 2 (edgeRec r e).role ++ leBytes 2 (edgeRec r e).peerRank ++ List.replicate 56 0

/-- The peer's HELLO agrees with an edge (R276). -/
def helloAgrees (s : State) (p : PartId) (r : TreeRec) (e port : Nat) (d : List Byte) : Bool :=
  let at_ := fun i => leNat (bytesAt d (2 * i) 2)
  let pr := (((getPart s p).ports.find? (fun q => q.port = port)).map (fun q => q.peerRank)).getD 0
  at_ 0 = r.group && at_ 1 = (edgeRec r e).peerRank && at_ 1 = pr && at_ 2 + (edgeRec r e).role = 1 && at_ 3 = r.rank

/-- HELLO. -/
def execHello (p : Fin 24) (s : State) : Out :=
  .next (takeFront s p.val kHello always (fun s q t e f =>
    match findTree s q t, treeRec s q t with
    | some x, some r =>
      match x.st with
      | .broken => s
      | .ready => treeBreak s q t 4
      | .confirming =>
        if helloAgrees s q r e p.val f.data then confirmCheck (modEdge s q t e (fun z => { z with confirmed := true })) q t else treeBreak s q t 2
    | _, _ => s))

/-- The ranks of a SUBTREE payload. Zeros behind them are padding; rank 0 comes first, as often as it is there (log 30). -/
def subtreeRanks (d : List Byte) : List Nat :=
  let l := (List.range (d.length / 2)).map (fun i => leNat (bytesAt d (2 * i) 2))
  if l.all (· == 0) then l.take 1 else l.takeWhile (· == 0) ++ l.filter (· != 0)

/-- SUBTREE: a payload of 2,048 ranks announces another one. -/
def execSubtree (p : Fin 24) (s : State) : Out :=
  .next (takeFront s p.val kSubtree always (fun s q t e f =>
    match findTree s q t with
    | none => s
    | some x =>
      if x.st ≠ .confirming then s
      else
        let l := if f.data.isEmpty then [] else subtreeRanks f.data
        confirmCheck (modEdge s q t e (fun z => { z with ranks := z.ranks ++ l, got := decide (l.length < 2048) })) q t))

/-- READY, from the parent. -/
def execReady (p : Fin 24) (s : State) : Out :=
  .next (takeFront s p.val kReady always (fun s q t e _ =>
    match findTree s q t, treeRec s q t with
    | some x, some r => if x.st = .confirming && parentEdge r == some e then treeReady s q t else s
    | _, _ => s))

/-- TREE_RESET. -/
def execTreeReset (p : Fin 24) (s : State) : Out :=
  .next (takeFront s p.val kReset always (fun s q t _ _ =>
    match findTree s q t with
    | some x => if x.st = .ready then treeBreak s q t 4 else s
    | none => s))

/-- FAIL: for one operation, or with OP 0 for every operation in progress. -/
def execFail (p : Fin 24) (s : State) : Out :=
  .next (takeFront s p.val kFail always (fun s q t e f =>
    match findTree s q t, treeRec s q t with
    | some x, some r =>
      if f.op ≠ 0 then engFail s q t f.op (some e)
      else ((x.ops.filter (fun o => !opDone o r.group)).map (fun o => o.op)).foldl (fun a n => engFail a q t n (some e)) s
    | _, _ => s))

/-- DESC: the descriptor of a child's part. -/
def execDesc (p : Fin 24) (s : State) : Out :=
  .next (takeFront s p.val kDesc always (fun s q t _ f =>
    match findTree s q t with
    | none => s
    | some x =>
      if x.dead.contains f.op then s
      else
        let n := engNote s q t f.op (f.data.take 64)
        if n.2 then n.1 else engFail n.1 q t f.op none))

/-- The descriptor of the frame's operation is known, or the operation has failed or its tree is not READY. -/
def descKnown (s : State) (p : PartId) (_ : Nat) (f : LinkFrame) : Bool :=
  match findTree s p f.tree with
  | some x => x.st != .ready || x.dead.contains f.op || (findOp x f.op).isSome
  | none => true

/-- UP: a child's data, to combine or to move on. -/
def execUp (p : Fin 24) (s : State) : Out :=
  .next (takeFront s p.val kUp descKnown (fun s q t e f =>
    match (findTree s q t).bind (fun x => findOp x f.op) with
    | none => s
    | some o =>
      if colReduces o.desc then modOp s q t f.op (fun z => { z with parts := z.parts ++ [(e, f.chunk, f.data)] })
      else engUp s q t f.op o.desc f.srcRank f.dstRank f.chunk f.data))

/-- DOWN: a result from the parent. -/
def execDown (p : Fin 24) (s : State) : Out :=
  .next (takeFront s p.val kDown descKnown (fun s q t _ f =>
    match (findTree s q t).bind (fun x => findOp x f.op) with
    | none => s
    | some o => engDown s q t f.op o.desc f.srcRank f.dstRank f.chunk f.data))

/-- HELLO_SEND: on every edge of a CONFIRMING tree that is not confirmed. -/
def execHelloSend (p : PartId) (t : Fin 8) (s : State) : Out :=
  match findTree s p t.val, treeRec s p t.val with
  | some x, some r =>
    if x.st ≠ .confirming then .next s
    else .next ((List.range x.edges.length).foldl (fun a e =>
      if (getEdge x e).confirmed then a else edgeSend a p t.val e (plainFrame kHello t.val 0 (helloData r e))) s)
  | _, _ => .next s

/-! ### Throttle notices (R285) -/

/-- THROTTLE_NOTICE: recorded in COL_NOTICE, forwarded no further, and reported to the operator and the partition (R303). -/
def execThrottleNotice (p : Fin 24) (s : State) : Out :=
  .next (takeFront s p.val kNotice always (fun s q _ _ f =>
    let rank := leNat (f.data.take 2) % 8192
    let die := (f.data.getD 2 0).toNat
    let cause := (f.data.getD 3 0).toNat
    let begin_ := (f.data.getD 4 0).getLsbD 0
    let s1 := modLink s (p.val / 8) (fun l =>
      { l with evNoticeRx := true,
               notice := bitAt begin_ 31 ||| fieldAt cause 28 3 ||| fieldAt die 23 5 ||| fieldAt rank 10 13 ||| fieldAt p.val 5 5 })
    notice s1 2 die cause begin_ rank [q]))

/-- Sends a throttle notice on every edge of every READY tree of the partitions that depend on a die. -/
def sendThrottle (s : State) (die cause : Nat) (begin_ : Bool) (ps : List PartId) : State :=
  (s.trees.filter (fun x => ps.contains x.part && x.st = .ready)).foldl (fun a x =>
    match treeRec a x.part x.tree with
    | none => a
    | some r =>
      if r.edges.isEmpty then a
      else
        (List.range x.edges.length).foldl (fun b e => edgeSend b x.part x.tree e
          (plainFrame kNotice x.tree 0 (leBytes 2 r.rank ++ [BitVec.ofNat 8 die, BitVec.ofNat 8 cause, if begin_ then 1 else 0] ++ List.replicate 59 0)))
          (modLink a ((homeDie r).getD 0) (fun l => { l with evNoticeTx := true }))) s

end Sys2Proof.Machine
end

