-- ==== Sys2Proof/Machine/Power.lean ====
section
/-!
DEFINITION. Power (14_power_clocks.md): the control round, the package cap and the ramp, the brake, region states, the
self-refresh of stacks, and the Tuber trim.
-/

namespace Sys2Proof.Machine

/-! ### Levels (R330) -/

/-- A region takes an ACLK level (÷ 50), with the voltage that its fuse table gives. -/
def setLevel (r : RegionId) (l : Nat) (g : Region) : Region :=
  if g.level = l then g else { g with level := l, volt := Config.levelVolt r.val l, moved := true }

/-- The brake is asserted: by the pin or by low VIN (R335). -/
def brakeOn (s : State) : Bool := s.pwr.pin || s.pwr.vinLow

/-- Every Awake region goes to 350 MHz (Table 14.3). -/
def allToFloor (s : State) : State :=
  (List.finRange 32).foldl (fun a r => modRegion a r (fun g => if g.power == .awake then setLevel r 7 g else g)) s

/-- SPR_EVENT.THROTTLED of every stack whose concurrency limit falls from 32 as the brake is asserted (R199, R335). -/
def brakeThrottles (s : State) : State :=
  { s with stks := Vector.ofFn (fun (n : Fin 8) =>
    let t := vget s.stks n
    { t with evThrottled := t.evThrottled || vget s.thm.stack n = 0 }) }

/-- What the assertion of the brake does, beside its cause. -/
def brakeBegin (s : State) : State := allToFloor (modPwr (brakeThrottles s) (fun p => { p with hold := false, evBrake := true }))

/-- BRAKE_ASSERT: PWR_BRAKE_N has been low for 0.5 µs. -/
def execBrakeAssert (s : State) : Out :=
  let s1 := modPwr s (fun p => { p with pin := true })
  .next (if brakeOn s then s1 else brakeBegin s1)

/-- BRAKE_RELEASE: the pin is high; the brake ends unless VIN is low. -/
def execBrakeRelease (s : State) : Out :=
  .next (modPwr s (fun p => { p with pin := false, hold := p.hold || (p.pin && !p.vinLow) }))

/-- BRAKE_HOLD_END. -/
def execBrakeHoldEnd (s : State) : Out := .next (modPwr s (fun p => { p with hold := false }))

/-- The low-VIN condition after a round (R335). -/
def vinRound (s : State) (mv : Nat) : State :=
  let b := if mv < 11000 then s.pwr.below + 1 else 0
  let a := if 11400 ≤ mv then s.pwr.above + 1 else 0
  let s1 := modPwr s (fun p => { p with below := min b 2, above := min a 100 })
  if !s.pwr.vinLow && 2 ≤ b then
    let s2 := modPwr s1 (fun p => { p with vinLow := true, evVinLow := true })
    if s.pwr.pin then s2 else brakeBegin s2
  else if s.pwr.vinLow && 100 ≤ a then modPwr s1 (fun p => { p with vinLow := false, hold := p.hold || !p.pin })
  else s1

/-! ### The control round (R331) -/

/-- The envelope in force (R332). -/
def envOf (s : State) (p : PartId) : PowerEnv := ((getPart s p).env).getD ⟨65535, 1400, 350, 250⟩

/-- P[p], in 0.1 W. -/
def partWatts (s : State) (p : PartId) : Nat := ((regionsOfMask (maskOf s p)).map (fun r => (getRegion s r).watts)).foldl (· + ·) 0

/-- ceil[r] ÷ 50, and what gives it (PWR_REGn_STATE.LIMIT): 5 the brake, 4 the thermal ceiling, 1 ACLK_MAX. -/
def ceilOf (s : State) (r : RegionId) (p : PartId) : Nat × Nat :=
  if brakeOn s then (7, 5)
  else
    let m := (envOf s p).aclkMax / 50
    let t := vget s.thm.ceil r
    if t < m then (t, 4) else (m, 1)

/-- The Awake regions of partitions, in ascending ID, with their partitions. -/
def awakeRegions (s : State) : List (RegionId × PartId) :=
  (List.finRange 32).filterMap (fun r => if (getRegion s r).power == .awake then (partOfRegion s r).map (fun p => (r, p)) else none)

/-- What a round carries along: the state, the regions it has lowered, and the reasons that hold regions. -/
structure Round where
  s       : State
  lowered : List RegionId

/-- Lowers a region to a level, for a reason. -/
def Round.lower (w : Round) (r : RegionId) (l why : Nat) : Round :=
  ⟨modRegion w.s r (fun g => { (setLevel r l g) with limit := why }), r :: w.lowered⟩

/-- Ceilings. -/
def roundCeil (w : Round) (q : RegionId × PartId) : Round :=
  let c := ceilOf w.s q.1 q.2
  let f := (getRegion w.s q.1).level
  let w1 : Round := ⟨modRegion w.s q.1 (fun g => { g with ceil := c.1, limit := if c.1 ≤ f then c.2 else 0 }), w.lowered⟩
  if c.1 < f then w1.lower q.1 c.1 c.2 else w1

/-- The regions of a list that stand above a level go down by one step. -/
def roundStep (w : Round) (qs : List (RegionId × PartId)) (floor : PartId → Nat) (why : Nat) : Round × Bool :=
  qs.foldl (fun (x : Round × Bool) q =>
    let f := (getRegion x.1.s q.1).level
    if max (floor q.2) 7 < f then (x.1.lower q.1 (f - 1) why, true) else x) (w, false)

/-- A partition above its envelope. -/
def roundEnv (w : Round) (p : PartId) : Round :=
  let e := envOf w.s p
  if partWatts w.s p ≤ 10 * e.watts then w
  else
    let r := roundStep w ((awakeRegions w.s).filter (fun q => q.2 = p)) (fun _ => e.aclkMin / 50) 2
    if r.2 then r.1 else ⟨modPwr r.1.s (fun x => { x with evEnvFloor := true }), r.1.lowered⟩

/-- The package above its cap. -/
def roundCap (w : Round) (pkg : Nat) : Round :=
  if pkg ≤ 10 * w.s.pwr.cap then ⟨modPwr w.s (fun x => { x with capLimit := false }), w.lowered⟩
  else
    let r := roundStep w (awakeRegions w.s) (fun _ => 7) 3
    ⟨modPwr r.1.s (fun x => { x with capLimit := true, evCapLimit := true, evCapFloor := x.evCapFloor || !r.2 }), r.1.lowered⟩

/-- The raises of a round: the state, the chip's budget, the power added, and for each partition its budget and its added
power. -/
structure Raise where
  s      : State
  chip   : Int
  total  : Nat
  budget : PartId → Int
  add    : PartId → Nat

/-- One region's raise. -/
def raiseOne (lowered : List RegionId) (pkg : Nat) (x : Raise) (q : RegionId × PartId) : Raise :=
  let g := getRegion x.s q.1
  if lowered.contains q.1 || g.ceil ≤ g.level then x
  else if x.s.pwr.hold then { x with s := modRegion x.s q.1 (fun y => { y with limit := 5 }) }
  else
    let f := g.level * 50
    let d := (g.watts * 100 + f - 1) / f
    let stop := fun (n : Nat) => { x with s := modRegion x.s q.1 (fun y => { y with limit := n }) }
    if x.budget q.2 < (d : Int) || x.chip < (d : Int) then stop 6
    else if 10 * (envOf x.s q.2).watts < partWatts x.s q.2 + x.add q.2 + d then stop 2
    else if 10 * x.s.pwr.cap < pkg + x.total + d then stop 3
    else
      { s := modPwr (modRegion x.s q.1 (fun y => { (setLevel q.1 (g.level + 1) y) with limit := 0 })) (fun z => { z with last := q.1 })
        chip := x.chip - d
        total := x.total + d
        budget := fun p => if p = q.2 then x.budget p - d else x.budget p
        add := fun p => if p = q.2 then x.add p + d else x.add p }

/-- The order of raises: ascending region ID, starting after the region last raised. -/
def raiseOrder (s : State) : List (RegionId × PartId) :=
  let l := awakeRegions s
  l.filter (fun q => s.pwr.last.val < q.1.val) ++ l.filter (fun q => q.1.val ≤ s.pwr.last.val)

def roundRaise (w : Round) (pkg : Nat) : State :=
  ((raiseOrder w.s).foldl (raiseOne w.lowered pkg)
    { s := w.s, chip := 10 * w.s.pwr.ramp, total := 0, budget := fun p => 10 * (envOf w.s p).ramp, add := fun _ => 0 }).s

/-- CONTROL_ROUND: `watts`, `pkg` and `amps` are what the regulators measured in the round that ends, in 0.1 W and 0.1 A, and
`mv` is VIN over it. -/
def execControlRound (watts : List Nat) (pkg mv amps : Nat) (s : State) : Out :=
  let s1 := (List.finRange 32).foldl (fun a r => modRegion a r (fun g => { g with watts := watts.getD r.val 0 })) s
  let s2 := vinRound (modPwr s1 (fun p => { p with pkg := pkg, mv := mv, amps := amps })) mv
  let w1 := (awakeRegions s2).foldl roundCeil ⟨s2, []⟩
  let w2 := (liveParts s2).foldl roundEnv w1
  if hubRuns s then .next (roundRaise (roundCap w2 pkg) pkg) else .next s

/-- The cap is written by the operator or by a request of Tops (R333). -/
def setCap (s : State) (v : Nat) : State := if 500 ≤ v && v ≤ 2500 then modPwr s (fun p => { p with cap := v }) else s
/-- The chip ramp (R334). -/
def setRamp (s : State) (v : Nat) : State := if 20 ≤ v && v ≤ 250 then modPwr s (fun p => { p with ramp := v }) else s

def execPwrCapWrite (v : Nat) (s : State) : Out := .next (setCap s v)
def execPwrRampWrite (v : Nat) (s : State) : Out := .next (setRamp s v)

/-! ### Region states (R336 to R339) -/

/-- A core leaves its region idle (R337, R375). -/
def coreIdle (s : State) (k : CoreId) : Bool :=
  let m := getCore s k
  (List.finRange 4).all (fun c => let x := ctxShown s k c; x != .ready && x != .running) &&
  !(m.xfers.any xferActive) && m.ctx.toList.all (fun x => x.queue.isEmpty) && m.passes.isEmpty && m.replays.isEmpty &&
  m.epi.isNone && m.attn.isNone && m.outbox.isEmpty && (getNear s k).copies.isEmpty && m.nsl.test.isNone && m.copies.isEmpty

def regionIdle (s : State) (r : RegionId) : Bool := (List.range 4).all (fun l => coreIdle s (coreOf r.val l))

/-- DOZE_ENTRY: an Awake region has been idle for DOZE_DELAY ACLK cycles. -/
def execDozeEntry (r : RegionId) (s : State) : Out :=
  if (getRegion s r).power == .awake && s.pwr.doze != 0 && regionIdle s r then
    .next (modRegion s r (fun g => { g with power := .dozing, dozeTicks := 0 }))
  else .next s

/-- SLEEP_ENTRY: a Dozing region that has been idle for SLEEP_DELAY ticks is Asleep, its rail at 0.40 V. -/
def execSleepEntry (r : RegionId) (s : State) : Out :=
  let g := getRegion s r
  if g.power == .dozing && s.pwr.sleep != 0 && s.pwr.sleep ≤ g.dozeTicks && regionIdle s r then
    .next (modRegion s r (fun y => { y with power := .asleep, volt := 200 }))
  else .next s

/-! ### Stacks (R340) -/

/-- What lets a stack enter self-refresh. -/
def stackUnused (s : State) (n : Nat) : Bool :=
  !stackMapped s n && !s.hst.barOn && (getStack s n).tg.run.isNone && !(n = 0 && cfgBusy s)

def execStackSelfRefreshEntry (n : Fin 8) (s : State) : Out :=
  if stackUnused s n.val && 1024 ≤ (getStack s n.val).idleTicks then .next (modStack s n.val (fun t => { t with selfRef := true })) else .next s

def execStackSelfRefreshExit (n : Fin 8) (s : State) : Out :=
  if stackUnused s n.val then .next s else .next (modStack s n.val (fun t => { t with selfRef := false, idleTicks := 0 }))

/-! ### The Tuber trim (R346) -/

/-- One step of the 10-bit trim code toward the expected count. -/
def trimStep (code count : Nat) : Nat :=
  -- more SYSREF cycles in a window than expected: TCLK is slow
  let up := if 102400 < count then Config.trimSpeeds else !Config.trimSpeeds
  if up then min 1023 (code + 1) else code - 1

/-- TRIM_WINDOW: while SYSREF passes, a window's count steps the code and judges TRIMMED. -/
def execTrimWindow (count : Nat) (s : State) : Out :=
  if !s.clk.sysref then .next s
  else
    let off := if count < 102400 then 102400 - count else count - 102400
    .next (modClk s (fun c =>
      let w := if off ≤ 102 then min 4 (c.wins + 1) else 0
      { c with count := count, code := if 51 < off then trimStep c.code count else c.code, wins := w, trimmed := c.trimmed || w = 4 }))

/-- REGION_RAIL_FAULT: the failure is raised to the chip (R16). -/
def execRegionRailFault (r : RegionId) (s : State) : Out :=
  if !(getRegion s r).railOk then .next s
  else .next (raiseRec (modRegion s r (fun g => { g with railOk := false })) (recRegion s r 0x25 2 3))

end Sys2Proof.Machine
end

