-- ==== Sys2Proof/Machine/Thermal.lean ====
section
/-!
DEFINITION. Temperature and cooling (15_thermal.md): sensors and sites, the cross-check, ceilings, rates of rise, bands,
coolant, shutdown and thermal cycles. Temperatures are in units of 0.125 K, ceilings in units of 50 MHz.
-/

namespace Sys2Proof.Machine

/-! ### Sensors and sites (Table 15.1)

Site numbers: region r's hot spot r and edge 32 + r; DRAM layer L above region r 64 + 4r + L; stack n's core dies 192 + 3n + k
and base die 216 + n; link die d's hot spot j 224 + 3d + j; hub 233; regulator cluster c 234 + c; inlet 250. -/

def siteSensors (i : Nat) : List Nat :=
  if i < 32 then [3 * i, 3 * i + 1]
  else if i < 64 then [3 * (i - 32) + 2]
  else if i < 192 then [96 + (i - 64)]
  else if i < 216 then [224 + 5 * ((i - 192) / 3) + (i - 192) % 3]
  else if i < 224 then [224 + 5 * (i - 216) + 3, 224 + 5 * (i - 216) + 4]
  else if i < 233 then [264 + 6 * ((i - 224) / 3) + 2 * ((i - 224) % 3), 265 + 6 * ((i - 224) / 3) + 2 * ((i - 224) % 3)]
  else if i = 233 then [282, 283]
  else if i < 250 then [284 + (i - 234)]
  else [300]

def siteOfSensor (n : Nat) : Nat :=
  if n < 96 then (if n % 3 = 2 then 32 + n / 3 else n / 3)
  else if n < 224 then 64 + (n - 96)
  else if n < 264 then (if (n - 224) % 5 < 3 then 192 + 3 * ((n - 224) / 5) + (n - 224) % 5 else 216 + (n - 224) / 5)
  else if n < 282 then 224 + 3 * ((n - 264) / 6) + ((n - 264) % 6) / 2
  else if n < 284 then 233
  else if n < 300 then 234 + (n - 284)
  else 250

def siteDram (r l : Nat) : Nat := 64 + 4 * r + l
def siteCore (n k : Nat) : Nat := 192 + 3 * n + k
def siteBase (n : Nat) : Nat := 216 + n
def siteLink (d j : Nat) : Nat := 224 + 3 * d + j
def siteHub : Nat := 233
def siteCluster (c : Nat) : Nat := 234 + c
def siteInlet : Nat := 250

/-- The shutdown limit of a site's unit (Table 15.2). -/
def siteLimit (i : Nat) : Option Int :=
  if i < 64 then some 920 else if i < 224 then some 840 else if i < 234 then some 920 else if i < 250 then some 1000 else none

/-- The throttle point, or the shutdown limit minus 10 K where there is none (R350). -/
def siteThrottle (i : Nat) : Option Int :=
  if i < 64 then some 800 else if i < 224 then some 760 else if i < 233 then some 800 else if i = 233 then some 840
  else if i < 250 then some 880 else none

def getSensor (s : State) (n : Nat) : Sensor := vget s.thm.sensors (Fin.ofNat 301 n)
def modSensor (s : State) (n : Nat) (f : Sensor → Sensor) : State :=
  modThm s (fun t => { t with sensors := vmod t.sensors (Fin.ofNat 301 n) f })
def getSite (s : State) (i : Nat) : Site := vget s.thm.sites (Fin.ofNat 251 i)
def modSite (s : State) (i : Nat) (f : Site → Site) : State :=
  modThm s (fun t => { t with sites := vmod t.sites (Fin.ofNat 251 i) f })

/-- The hotter of two optional temperatures. -/
def hotter : Option Int → Option Int → Option Int
  | some a, some b => some (max a b)
  | some a, none => some a
  | none, b => b

def hottest (l : List (Option Int)) : Option Int := l.foldl hotter none

/-- The inlet's thermistor is neither open nor shorted (R403). -/
def thermistorOk (rd : Reading) : Bool := rd.id.val != 300 || (100 ≤ rd.ohms && rd.ohms ≤ 500000)

/-- A sensor answers, or does not, in its reading slot (R349). -/
def readSensor (s : State) (rd : Reading) : State :=
  modSensor s rd.id.val (fun x =>
    match rd.temp with
    | none => { x with valid := false }
    | some t => { x with temp := t, valid := !x.masked && decide (-320 ≤ t) && decide (t ≤ 1200) && thermistorOk rd })

def sensorVal (s : State) (n : Nat) : Option Int := let x := getSensor s n; if x.valid then some x.temp else none

/-- The value that a site's readings give (R351). -/
def siteReads (s : State) (i : Nat) : Option Int :=
  match siteSensors i with
  | [a, b] =>
    if (getSensor s a).masked then (sensorVal s b).map (· + 24)
    else if (getSensor s b).masked then (sensorVal s a).map (· + 24)
    else hotter (sensorVal s a) (sensorVal s b)
  | l => hottest (l.map (sensorVal s))

/-- The schedule of a sensor after a reading, in which an invalid one takes no part (R349, R350). -/
def schedule (round : Bool) (s : State) (n : Nat) : State :=
  match siteThrottle (siteOfSensor n) with
  | none => s
  | some p =>
    modSensor s n (fun x =>
      let cool := if !round || !x.valid then x.cool else if x.temp ≤ p - 56 then x.cool + 1 else 0
      if x.valid && decide (p - 40 < x.temp) then { x with fast := true, cool := cool }
      else if 8 ≤ cool then { x with fast := false, cool := 0 }
      else { x with cool := cool })

/-! ### The cross-check (R352) -/

/-- Neighbours of a twin site, at their values (Table 15.3). -/
def neighbours (s : State) (i : Nat) : List Int :=
  let vals := fun (l : List Nat) => l.filterMap (fun j => (getSite s j).val)
  if i < 32 then vals [32 + i, siteDram i 0]
  else if 216 ≤ i && i < 224 then vals [siteCore (i - 216) 0, siteCore (i - 216) 1, siteCore (i - 216) 2]
  else if 224 ≤ i && i < 233 then
    vals (((List.range 3).map (siteLink ((i - 224) / 3))).filter (· != i))
  else []

/-- Masks a sensor: its site starts a new mask state (R353). -/
def maskSensor (s : State) (n : Nat) (m : Bool) : State :=
  modSite (modSensor s n (fun x => { x with masked := m, valid := x.valid && !m })) (siteOfSensor n)
    (fun x => { x with hist := [], steep := 0, dis := 0, differ := false })

/-- The twins of a site after a round; Tops records a mask in flash (R353). -/
def crossCheck (s : State) (i : Nat) : State :=
  match siteSensors i with
  | [a, b] =>
    match sensorVal s a, sensorVal s b with
    | some x, some y =>
      if (x - y).natAbs ≤ 32 then modSite s i (fun t => { t with dis := 0, differ := false })
      else if (getSite s i).dis + 1 < 8 then modSite s i (fun t => { t with dis := t.dis + 1, differ := true })
      else
        let ns := neighbours s i
        let s1 := modSite s i (fun t => { t with dis := 0, differ := true })
        if ns.isEmpty then modThm s1 (fun t => { t with evNoRef := true })
        else
          let sum := ns.foldl (· + ·) 0
          let n : Int := ns.length
          let worse := if (n * y - sum).natAbs < (n * x - sum).natAbs then a else b
          modSite (toTops (modThm (maskSensor s1 worse true) (fun t => { t with evMasked := true })) (.repair (.sensorMask worse))) i (fun t => { t with differ := true })
    | _, _ => modSite s i (fun t => { t with dis := 0, differ := false })
  | _ => s

/-! ### Temperatures of units (R354) -/

def siteVal (s : State) (i : Nat) : Option Int := (getSite s i).val
def logicTemp (s : State) (r : Nat) : Option Int := hotter (siteVal s r) (siteVal s (32 + r))
/-- The hottest valid layer sensor. -/
def layerTemp (s : State) (r : Nat) : Option Int := hottest ((List.range 4).map (fun l => siteVal s (siteDram r l)))
def dramTemp (s : State) (r : Nat) : Option Int := match layerTemp s r with | some t => some t | none => logicTemp s r
def stackTemp (s : State) (n : Nat) : Option Int :=
  hotter (hottest ((List.range 3).map (fun k => siteVal s (siteCore n k)))) (siteVal s (siteBase n))
def linkTemp (s : State) (d : Nat) : Option Int := hottest ((List.range 3).map (fun j => siteVal s (siteLink d j)))
/-- The hottest regulator cluster of a tile. -/
def clusterTemp (s : State) (t : Nat) : Option Int := hottest ((List.range 4).map (fun c => siteVal s (siteCluster (4 * t + c))))

/-! ### Ceilings (R356 to R358, R360) -/

/-- c(T, P): 1,400 − 100 × ⌈T − P⌉ MHz, in steps of 50 MHz, at least 350 MHz. -/
def throttleCeil (t p : Int) : Nat := if t ≤ p then 28 else max 7 (28 - 2 * (((t - p).toNat + 7) / 8))

def ceilFor (t : Option Int) (up p : Int) : Nat := match t with | none => 28 | some x => throttleCeil (x + up) p

/-- The INLET ceiling (R360). -/
def inletCeil (s : State) (up : Int) : Nat :=
  match siteVal s siteInlet with
  | none => 28
  | some t => if 360 < t + up then 7 else throttleCeil (t + up) 280

/-- An advisory holds for the region (R358). -/
def advised (s : State) (r : Nat) : Bool :=
  (getSite s r).adv || (getSite s (32 + r)).adv || (List.range 4).any (fun l => (getSite s (siteDram r l)).adv) ||
  (List.range 4).any (fun c => (getSite s (siteCluster (4 * tileOfRegion r + c))).adv)

/-- A ceiling after a reading, from its target and from the target at T + 2 K (R357). -/
def ceilStep (round : Bool) (c now up : Nat) : Nat := if now < c then now else if round && c < up then c + 1 else c

/-- The targets of the sources DRAM, LOGIC, REGULATOR and INLET, computed from T + `up`. -/
def ceilTargets (s : State) (r : Nat) (up : Int) : Vector Nat 4 :=
  #v[ceilFor (dramTemp s r) up 760, ceilFor (logicTemp s r) up 800, ceilFor (clusterTemp s (tileOfRegion r)) up 880, inletCeil s up]

/-- The ceilings of a region's sources after a reading. EMERGENCY and SENSORS end with their conditions; the ceilings below them then
start from 350 MHz at the next round. ADVISORY follows the others.
DEDUCED (log 79). -/
def sourceCeils (round : Bool) (s : State) (r : Nat) (old : Vector Nat 7) : Vector Nat 7 :=
  let e := if s.thm.emergency then 7 else 28
  let n := if (logicTemp s r).isNone then 7 else 28
  let freed := (old[0] = 7 || old[1] = 7) && e = 28 && n = 28
  let now := ceilTargets s r 0
  let up := ceilTargets s r 16
  let step := fun (c now up : Nat) => if freed then 7 else ceilStep round c now up
  let d := step old[2] now[0] up[0]
  let l := step old[3] now[1] up[1]
  let g := step old[4] now[2] up[2]
  let i := step old[5] now[3] up[3]
  let base := min (min (min e n) (min d l)) (min g i)
  let lim := if advised s r then max 7 (base - 2) else 28
  #v[e, n, d, l, g, i, ceilStep round old[6] lim lim]

/-- The lowest ceiling and its first source (R356). -/
def lowestCeil (v : Vector Nat 7) : Nat × Nat :=
  let m := v.toList.foldl min 28
  (m, if m = 28 then 0 else v.toList.idxOf m + 1)

/-- A region's ceiling after a reading (R357); once the shutdown latch is set it stays at 350 MHz (Table 15.5). -/
def regionCeil (round : Bool) (s : State) (r : RegionId) : State :=
  let c := vget s.thm.ceil r
  let v := sourceCeils round s r.val (vget s.thm.ceils r)
  let t := lowestCeil v
  let c' := if s.thm.latch then 7 else min t.1 (max 7 c + 1)
  let lost := (logicTemp s r.val).isNone
  let s1 := if lost && !s.thm.noLogic.getLsbD r.val then raiseRec s (recRegion s r 0x24 2 2) else s
  modThm s1 (fun x =>
    { x with ceils := vset x.ceils r v, ceil := vset x.ceil r c', cause := vset x.cause r t.2, evThrottle := x.evThrottle || (c = 28 && c' < 28),
             noLogic := if lost then x.noLogic ||| BitVec.ofNat 32 (2 ^ r.val) else x.noLogic &&& ~~~ BitVec.ofNat 32 (2 ^ r.val) })

/-- A stack's state: 0 normal, 1 above 95 °C or advised, 2 above 100 °C, held or without a reading (R354, R357 to R359). -/
def stackState (s : State) (n : Fin 8) : State :=
  if !(siteMask s).getLsbD n.val then s
  else
  let t := stackTemp s n.val
  let adv := (getSite s (siteBase n.val)).adv || (List.range 3).any (fun k => (getSite s (siteCore n.val k)).adv)
  let st := match t with
    | none => 2
    | some x => if 800 < x || s.thm.emergency then 2 else if 760 < x || adv then 1 else 0
  let lost := t.isNone
  let s1 := if lost && !s.thm.noStack.getLsbD n.val then raiseRec s (recStack n.val 0x38 none) else s
  let s2 := if vget s.thm.stack n = 0 && st ≠ 0 && !brakeOn s then modStack s1 n.val (fun y => { y with evThrottled := true }) else s1
  modThm s2 (fun x =>
    { x with stack := vset x.stack n st, evStack := x.evStack || (vget x.stack n = 0 && st ≠ 0),
             noStack := if lost then x.noStack ||| BitVec.ofNat 8 (2 ^ n.val) else x.noStack &&& ~~~ BitVec.ofNat 8 (2 ^ n.val) })

/-- A link die above 100 °C, or without a reading, is throttled. -/
def linkState (s : State) (d : Fin 3) : State :=
  if !(linkMask s).getLsbD d.val then s
  else
  let hot := match linkTemp s d.val with | none => true | some x => decide (800 < x)
  modThm s (fun x =>
    { x with linkHot := if hot then x.linkHot ||| BitVec.ofNat 3 (2 ^ d.val) else x.linkHot &&& ~~~ BitVec.ofNat 3 (2 ^ d.val) })

/-! ### Bands (R171, R187, R365) -/

/-- A band after a reading: it rises at once, and falls one step after 8 readings in a row that lie 3 K below the lower band's
upper limit; `counts` says that the reading counts toward a fall. -/
def bandStep (lims : List Int) (counts : Bool) (b : Band) (t : Option Int) : Band :=
  match t with
  | none => ⟨lims.length, 0⟩
  | some x =>
    let need := (lims.filter (fun l => l < x)).length
    if b.band < need then ⟨need, 0⟩
    else if !counts then b
    else if 0 < b.band && decide (x ≤ lims.getD (b.band - 1) 0 - 24) then
      (if 8 ≤ b.fall + 1 then ⟨b.band - 1, 0⟩ else ⟨b.band, b.fall + 1⟩)
    else ⟨b.band, 0⟩

def dramLims : List Int := [680, 760]
def linkLims : List Int := [440, 600, 720]

/-- A band after a reading of its own sensors; the first readings set it (Tables 7.11 and 8.11). -/
def dramBand (s : State) (b : Band) (t : Option Int) : Band := bandStep dramLims true (if s.thm.seen then b else ⟨0, 0⟩) t

/-- A region's band, where the sites read are its own (R171). -/
def regionBand (sites : List Nat) (s : State) (r : RegionId) : State :=
  if (List.range 4).any (fun l => sites.contains (siteDram r.val l)) then
    modRegion s r (fun g => let b := dramBand s ⟨g.band, g.bandFall⟩ (layerTemp s r.val); { g with band := b.band, bandFall := b.fall })
  else s

/-- A stack's band, where the sites read are its own (R187); a throttled stack has BAND_4X (R357 to R359). -/
def stackBand (sites : List Nat) (s : State) (n : Fin 8) : State :=
  if vget s.thm.stack n ≠ 0 then modStack s n.val (fun g => { g with band := 2, bandFall := 0 })
  else if sites.contains (siteBase n.val) || (List.range 3).any (fun k => sites.contains (siteCore n.val k)) then
    modStack s n.val (fun g => let b := dramBand s ⟨g.band, g.bandFall⟩ (stackTemp s n.val); { g with band := b.band, bandFall := b.fall })
  else s

/-- The temperature of a die for the bands of its links. -/
def dieTemp (s : State) (d : Nat) : Option Int :=
  if d < 4 then hottest (((List.range 32).filter (fun r => tileOfRegion r = d)).map (logicTemp s))
  else if d < 16 then siteVal s (siteBase (d - 8))
  else if d < 24 then linkTemp s (d - 16)
  else siteVal s siteHub

/-- The temperature of a pair: the hotter of its dies; a link die without a reading counts as above 100 °C (R354). -/
def pairTemp (s : State) (d : Nat × Nat) : Option Int :=
  if [d.1, d.2].any (fun x => 16 ≤ x && x < 24 && (dieTemp s x).isNone) then none else hotter (dieTemp s d.1) (dieTemp s d.2)

/-- A pair's band; a bundle loads the settings saved for a new band, and Tops trains those that have none (R408). -/
def pairBand (round : Bool) (s : State) (k : Nat) : State :=
  let d := pairDies k
  let b := bandStep linkLims round (getPair s k).band (pairTemp s d)
  bandRetrain (modPair22 s k (fun p =>
    { p with band := b, bundles := p.bundles.map (fun x =>
        if b.band ≠ p.band.band && x.sets.contains b.band then { x with band := b.band, saved := true } else x) })) k

/-- A link die's band; its UP ports load the settings saved for a new band (R271). -/
def linkDieBand (round : Bool) (s : State) (d : Fin 3) : State :=
  let o := vget s.thm.linkBand d
  let b := bandStep linkLims round o (linkTemp s d.val)
  let s1 := modThm s (fun t => { t with linkBand := vset t.linkBand d b })
  if b.band = o.band then s1
  else (List.range 8).foldl (fun a q => modPort a (8 * d.val + q) (fun x =>
    if x.st == .up && x.sets.any (fun e => e.1 = b.band) then { x with band := b.band, saved := true } else x)) s1

/-! ### Notices (R364) -/

/-- The partitions that hold a region in the tile, or map pages of the stack (R285). -/
def partsOnTile (s : State) (t : Nat) : List PartId :=
  (liveParts s).filter (fun p => (regionsOfMask (maskOf s p)).any (fun r => tileOfRegion r.val = t))
def partsOnStack (s : State) (n : Nat) : List PartId := (liveParts s).filter (fun p => (getPart s p).maps.any (fun m => m.pa / 2 ^ 36 = n))

/-- The code of a notice's cause. -/
def noticeCause (w : Nat) : Nat := if w = 1 || w = 7 then 3 else if w = 3 then 1 else 0

def mgmtEvent (s : State) (e : MgmtEv) : State := modHub s (fun h => { h with events := h.events ++ [e] })

/-- A throttle notice to the trees, the hosts and the management client. -/
def throttleNotice (s : State) (die cause : Nat) (begin_ : Bool) (ps : List PartId) : State :=
  mgmtEvent (notice (sendThrottle s die cause begin_ ps) 1 die cause begin_ 0 ps) (.throttle begin_ die)

/-- The cause of a tile's throttling: that of its region with the lowest ceiling (R364). -/
def tileCause (s : State) (t : Nat) : Option Nat :=
  let rs := (List.finRange 32).filter (fun r => tileOfRegion r.val = t && decide (vget s.thm.ceil r < 28))
  (rs.foldl (fun (b : Option RegionId) r =>
    match b with
    | none => some r
    | some x => if vget s.thm.ceil r < vget s.thm.ceil x then some r else b) none).map (fun r => noticeCause (vget s.thm.cause r))

def tileNotices (s : State) (t : Fin 4) : State :=
  let old := vget s.thm.tileThr t
  let new := tileCause s t.val
  if old = new then s
  else
    let s1 := match old with | some c => throttleNotice s t.val c false (partsOnTile s t.val) | none => s
    let s2 := match new with | some c => throttleNotice s1 t.val c true (partsOnTile s t.val) | none => s1
    modThm s2 (fun x => { x with tileThr := vset x.tileThr t new })

def stackNotices (s : State) (n : Fin 8) : State :=
  let on := vget s.thm.stack n != 0
  if on = s.thm.stackThr.getLsbD n.val then s
  else modThm (throttleNotice s (dieStack n.val) 2 on (partsOnStack s n.val)) (fun x => { x with stackThr := x.stackThr ^^^ BitVec.ofNat 8 (2 ^ n.val) })

/-! ### Rates of rise and the shutdown (R355, R358, R359, R362) -/

/-- The emergency hold begins. -/
def emergencyBegin (s : State) : State :=
  if s.thm.emergency then s else modThm s (fun t => { t with emergency := true, evEmergency := true, calm := 0 })

/-- The shutdown latch is set: THM_TRIP names the hotter twin (R363). -/
def tripSite (s : State) (i : Nat) : State :=
  if s.thm.latch then s
  else
    match (siteSensors i).foldl (fun (b : Option (Nat × Int)) n =>
        match sensorVal s n, b with
        | some t, none => some (n, t)
        | some t, some x => if x.2 < t then some (n, t) else b
        | none, _ => b) none with
    | none => s
    | some x => modThm s (fun t =>
      { t with latch := true, tripValid := true, tripSensor := x.1, tripTemp := x.2, ceil := .replicate 32 7,
               evThrottle := t.evThrottle || t.ceil.toList.any (· = 28) })

/-- A site's value reaches the limit of its own unit. -/
def siteHot (i : Nat) (v : Int) : Bool := match siteLimit i with | some l => decide (l ≤ v) | none => false

/-- A logic site's value reaches the limit of its region's DRAM, while the logic temperature stands for that (R354, R355). -/
def siteHotDram (s : State) (i : Nat) (v : Int) : Bool := i < 64 && (layerTemp s (i % 32)).isNone && decide (840 ≤ v)

/-- The shutdown rule on a site's new value: each limit by itself, in two consecutive readings; a site without a valid reading takes no
part (R349). -/
def siteShutdown (s : State) (i : Nat) : State :=
  let x := getSite s i
  match x.val with
  | none => s
  | some v =>
    let s1 := modSite s i (fun y => { y with hot := siteHot i v, hotDram := siteHotDram s i v })
    if (x.hot && siteHot i v) || (x.hotDram && siteHotDram s i v) then tripSite s1 i else s1

/-- The rise of a site over the 1,024 ticks that end now. -/
def siteRise (s : State) (i : Nat) : Option Int :=
  let x := getSite s i
  match x.val, x.hist.find? (fun h => h.1 + 1024 = s.tick) with
  | some v, some h => some (v - h.2)
  | _, _ => none

/-- A site takes the value of its readings. -/
def siteTake (s : State) (i : Nat) : State := modSite s i (fun x => { x with val := siteReads s i })

/-- A site takes its new value, with its rate of rise. -/
def siteStep (round : Bool) (s : State) (i : Nat) : State :=
  let s1 := siteTake s i
  let rise := siteRise s1 i
  let fastUp := match rise with | some d => i != siteInlet && decide (64 < d) | none => false
  let steep := match rise with | some d => if 16 < d then (getSite s1 i).steep + 1 else 0 | none => 0
  let adv0 := (getSite s1 i).adv
  let adv := if !round then adv0 else if 4 ≤ steep then true else match rise with | some d => if d ≤ 8 then false else adv0 | none => adv0
  let s2 := modSite s1 i (fun x =>
    { x with steep := if round then steep else x.steep, adv := adv,
             hist := (match x.val with | some v => [(s.tick, v)] | none => []) ++ x.hist.filter (fun h => s.tick < h.1 + 1024) })
  let s3 := if adv && !adv0 then modThm s2 (fun t => { t with evAdvisory := true }) else s2
  let s4 := if fastUp then
      (siteSensors i).foldl (fun a n => modSensor a n (fun x => { x with ror := if s.thm.emergency then x.ror else 2 })) (emergencyBegin s3)
    else s3
  siteShutdown s4 i

/-- The hold ends after 16 calm rounds. -/
def holdRound (s : State) (rises : List (Option Int)) : State :=
  if !s.thm.emergency then s
  else
    let below := fun (t : Option Int) (p : Int) => match t with | some x => decide (x ≤ p - 40) | none => false
    let calm := rises.all (fun r => match r with | some d => decide (d ≤ 8) | none => true) &&
      (List.range 32).all (fun r => below (logicTemp s r) 800 && below (dramTemp s r) 760) &&
      (List.range 8).all (fun n => !(siteMask s).getLsbD n || below (stackTemp s n) 760) && !(s.thm.flowOn && s.thm.ppl != 0 && s.thm.stopped)
    let n := if calm then s.thm.calm + 1 else 0
    if 16 ≤ n then modThm s (fun t => { t with emergency := false, calm := 0, sensors := t.sensors.map (fun x => { x with ror := 0 }) })
    else modThm s (fun t => { t with calm := n })

/-! ### Coolant (R360, R361) -/

/-- What a round does for the inlet and the flow input. -/
def coolantRound (s : State) : State :=
  let s1 := modThm s (fun t =>
    match siteVal s siteInlet with
    | none => { t with evInletInvalid := true }
    | some x => if x < 120 then { t with evInletCold := true } else t)
  if !flowUsed s then s1
  else
    let ps := s.thm.pulses.filter (fun p => s.tick < p + 4096)
    let flow := min 65535 (ps.length * 600000000 / (4096 * s.thm.ppl))
    let low := decide (flow < s.thm.flowMin)
    let n := if low then s.thm.lowRounds + 1 else 0
    modThm s1 (fun t => { t with flow := flow, pulses := ps, lowRounds := min n 8, flowLow := 8 ≤ n, evFlowLow := t.evFlowLow || (n = 8) })

/-- FLOW_PULSE: a falling edge on the flow input, while that is used. -/
def execFlowPulse (s : State) : Out :=
  if !flowUsed s then .next s
  else .next (modThm s (fun t => { t with pulses := s.tick :: t.pulses.filter (fun p => s.tick < p + 4096), flowSince := s.tick, stopped := false }))

/-! ### Thermal cycles (R366) -/

def cycleHalf (c : Cycles) (half : Bool) : Nat × Bool := if half then (min (c.count + 1) (2 ^ 32 - 1), false) else (c.count, true)

def cycleStep (c : Cycles) (t : Int) : Cycles :=
  match c.track with
  | none => { c with track := some (true, t, t, false) }
  | some (up, hi, lo, half) =>
    if up then
      let h := max hi t
      if 160 ≤ h - t then let q := cycleHalf c half; ⟨some (false, h, t, q.2), q.1⟩ else { c with track := some (true, h, lo, half) }
    else
      let l := min lo t
      if 160 ≤ t - l then let q := cycleHalf c half; ⟨some (true, t, l, q.2), q.1⟩ else { c with track := some (false, hi, l, half) }

def cyclesRound (s : State) : State :=
  (List.finRange 32).foldl (fun a r =>
    match layerTemp a r.val with
    | some t => modThm a (fun x => { x with cycles := vmod x.cycles r (fun c => cycleStep c t) })
    | none => a) s

/-! ### Readings -/

/-- Everything that follows from new values of the sites read. -/
def thermalUpdate (round : Bool) (sites : List Nat) (s : State) : State :=
  let s1 := regionsByDie.foldl (fun a r => regionBand sites (regionCeil round a r) r) s
  let s2 := (List.finRange 8).foldl (fun a n => stackBand sites (stackState a n) n) s1
  let s3 := (List.finRange 3).foldl (fun a d => linkDieBand round (linkState a d) d) s2
  let s4 := (List.range 22).foldl (pairBand round) s3
  let s5 := modThm s4 (fun t => { t with inletDerate := decide (inletCeil s4 0 < 28) })
  (List.finRange 8).foldl stackNotices ((List.finRange 4).foldl tileNotices s5)

/-- FLOW_STOP: no pulse for 2,048 ticks; regions and stacks stand at the hold's limits for the next power control round (R359). -/
def execFlowStop (s : State) : Out :=
  if flowUsed s && s.thm.flowSince + 2048 ≤ s.tick && !s.thm.stopped then
    .next (thermalUpdate false [] (emergencyBegin (modThm s (fun t => { t with stopped := true, evFlowStop := true }))))
  else .next s

/-- Sensors are read at all: VIN is present and bring-up has passed phase A (R350, R415). -/
inductive ReadMode where
  | none | shutdownOnly | full
  deriving DecidableEq, Repr

def readMode (s : State) : ReadMode :=
  if !s.hub.vin || !s.hub.powered then .none
  else match s.hub.phase with
    | .a | .b | .c | .noImage => .shutdownOnly
    | .d | .e | .f | .g => .full
    | _ => .none

/-- Between phases A and D every sensor is read every 64 ticks for the shutdown alone, by the hotter twin. -/
def shutdownRead (s : State) (rs : List Reading) : State :=
  let s1 := rs.foldl readSensor s
  let sites := (rs.map (fun r => siteOfSensor r.id.val)).eraseDups
  sites.foldl siteShutdown (sites.foldl (fun a i => modSite a i (fun x => { x with val := hottest ((siteSensors i).map (sensorVal a)) })) s1)

/-- SENSOR_READ: the sensors on the fast schedule are read at a multiple of 64 ticks. -/
def execSensorRead (rs : List Reading) (s : State) : Out :=
  if s.tick % 64 ≠ 0 then .next s
  else
    match readMode s with
    | .none => .next s
    | .shutdownOnly => .next (shutdownRead s rs)
    | .full =>
      let rs' := rs.filter (fun r => (getSensor s r.id.val).fast)
      if s.tick % 1024 = 0 || rs'.isEmpty then .next s
      else
        let s1 := rs'.foldl (fun a r => schedule false (readSensor a r) r.id.val) s
        let sites := (rs'.map (fun r => siteOfSensor r.id.val)).eraseDups
        .next (thermalUpdate false sites (sites.foldl (siteStep false) (sites.foldl siteTake s1)))

/-- A housekeeping round: a sensor without an entry in `rs` has not answered. -/
def housekeeping (s : State) (rs : List Reading) : State :=
  let all := (List.finRange 301).map (fun n => (rs.find? (fun r => r.id = n)).getD ⟨n, none, 0⟩)
  let s1 := all.foldl (fun a r => schedule true (readSensor a r) r.id.val) s
  let vals := fun (a : State) => (List.range 251).foldl siteTake a
  let s3 := vals ((List.range 251).foldl crossCheck (vals s1))
  let rises := (List.range 251).map (siteRise s3)
  let s4 := (List.range 251).foldl (siteStep true) s3
  modThm (thermalUpdate true (List.range 251) (holdRound (cyclesRound (coolantRound s4)) rises)) (fun t => { t with seen := true })

/-- HOUSEKEEPING_ROUND: every sensor is read at a multiple of 1,024 ticks. -/
def execHousekeepingRound (rs : List Reading) (s : State) : Out :=
  if s.tick % 1024 = 0 && readMode s == .full then .next (housekeeping s rs) else .next s

/-- THM_UNMASK: THM_UNMASK.GO is written with a sensor. -/
def execThmUnmask (id : Nat) (s : State) : Out :=
  if id < 301 && (getSensor s id).masked then .next (maskSensor s id false) else .next s

/-- LIFE_SAVE: Tops saves the life counts at a multiple of 2^30 ticks (R367). -/
def execLifeSave (s : State) : Out :=
  if s.tick % 2 ^ 30 = 0 && topsRuns s then .next (toTops s (.life (s.thm.cycles.toList.map (fun c => c.count)))) else .next s

end Sys2Proof.Machine
end

