-- ==== Sys2Proof/Machine/Kvp.lean ====
section
/-!
DEFINITION. The KV page manager (09_attention.md, R225 to R234): its requests, the transitions of Table 9.13, copies and
leases.
-/

namespace Sys2Proof.Machine

/-- The page is in the partition's pool (R225). -/
def inPool (s : State) (p : PartId) (va : Nat) : Bool :=
  match mapOf (getPart s p) va with
  | some m => m.perm.testBit 3
  | none => false

/-! ### Requests (R227) -/

/-- OP, PAGE and DST of an entry (Table 9.11). -/
def kvOp (e : BitVec 64 × BitVec 64) : Nat := e.1.toNat % 16
def kvVa (e : BitVec 64 × BitVec 64) : Nat := (e.1.toNat % 2 ^ 48) / 32768 * 32768
def kvDst (e : BitVec 64 × BitVec 64) : Nat := e.2.toNat

/-- A field of the entry that must be zero is not, or DST is no page address. -/
def kvMalformed (e : BitVec 64 × BitVec 64) : Bool :=
  e.1.toNat / 2 ^ 48 != 0 || (e.1.toNat / 16) % 2048 != 0 || (if kvOp e = 4 then e.2.toNat % 32768 != 0 else e.2 != 0)

/-- The next entry of the request. -/
def kvEntry (r : KvReq) : Option (BitVec 64 × BitVec 64) := r.entries[r.applied]?

/-- The refusal of the next entry: the request ends there. -/
def kvRefuse (s : State) (p : PartId) (code : Nat) : State :=
  modKv (modFront s p (fun r => { r with ended := some (r.applied, code) })) (fun k => { k with evRefused := true })

/-- BODY of a KVP entry (Table 12.6). -/
def kvBody (r : KvReq) (i code : Nat) : List Byte :=
  leBytes 4 r.hseq.toNat ++ [BitVec.ofNat 8 r.applied, BitVec.ofNat 8 i, BitVec.ofNat 8 code] ++ List.replicate 37 0

/-- What the manager does of itself: a request with no entry left has ended, an entry with no listed OP is refused, and an
ended request posts its completion once the device hold has room. -/
def kvAdvance (s : State) (p : PartId) : Nat → State
  | 0 => s
  | fuel + 1 =>
    match kvFront s p with
    | none => s
    | some r =>
      match r.ended with
      | some (i, code) =>
        if devRoom s p r.channel then
          kvAdvance (holdEntry (modKv s (fun k => { k with reqs := k.reqs.eraseP (fun x => x.part = p) })) p r.channel
            ⟨2, kvBody r i code, 0, false⟩) p fuel
        else s
      | none =>
        match kvEntry r with
        | none => kvAdvance (modFront s p (fun x => { x with ended := some (0xFF, 0) })) p fuel
        | some e => if kvOp e = 0 || 4 < kvOp e then kvAdvance (kvRefuse s p (if kvMalformed e then 1 else 6)) p fuel else s

/-- The steps that a call of the above can take. -/
def kvSettle (s : State) (p : PartId) : State := kvAdvance s p (3 * s.kvp.reqs.length + 3)

/-- A body for the page manager is queued (R293): a count that disagrees with the body, or padding that is not zero, ends it
with NOT_POOL. -/
def kvEnqueue (s : State) (p : PartId) (channel : Nat) (hseq : W32) (body : List Byte) : State :=
  let n := leNat (body.take 8)
  let ok := decide (1 ≤ n) && decide (n ≤ 255) && decide (body.length = (8 + 16 * n + 63) / 64 * 64) && (body.drop (8 + 16 * n)).all (· == 0)
  let es := if ok then (List.range n).map (fun i =>
    (BitVec.ofNat 64 (leNat ((body.drop (8 + 16 * i)).take 8)), BitVec.ofNat 64 (leNat ((body.drop (16 + 16 * i)).take 8)))) else []
  let s1 := modKv s (fun k => { k with reqs := k.reqs ++ [⟨p, channel, hseq, es, 0, none, if ok then none else some (0, 1), 0, false, [], []⟩],
                                       evRefused := k.evRefused || !ok })
  kvSettle s1 p

/-- An entry of opcode `op` at the front of the partition's requests is applied by `f`, or refused with its code. -/
def kvApply (s : State) (p : PartId) (op : Nat) (f : State → Nat → Nat → Except Nat State) : State :=
  match kvFront s p with
  | none => s
  | some r =>
    if r.copy.isSome || r.ended.isSome then s
    else
      match kvEntry r with
      | none => s
      | some e =>
        if kvOp e ≠ op then s
        else
          match (if kvMalformed e || !inPool s p (kvVa e) then .error 1 else f s (kvVa e) (kvDst e)) with
          | .error c => kvSettle (kvRefuse s p c) p
          | .ok s1 => if op = 4 then s1 else kvSettle (modFront s1 p (fun x => { x with applied := x.applied + 1 })) p

/-- ALLOC: FREE to HELD with reference 1. -/
def execAlloc (p : PartId) (s : State) : Out :=
  .next (kvApply s p 1 (fun t va _ =>
    let g := kvPage t p va
    if kvState g ≠ 0 then .error 2 else .ok (setKvPage t p va { g with refs := 1 })))

/-- SHARE: one reference more. -/
def execShare (p : PartId) (s : State) : Out :=
  .next (kvApply s p 2 (fun t va _ =>
    let g := kvPage t p va
    if g.refs = 0 then .error 3 else if 65535 ≤ g.refs then .error 4 else .ok (setKvPage t p va { g with refs := g.refs + 1 })))

/-- KVP_RELEASE: one reference fewer. -/
def execKvpRelease (p : PartId) (s : State) : Out :=
  .next (kvApply s p 3 (fun t va _ =>
    let g := kvPage t p va
    if g.refs = 0 then .error 3 else .ok (setKvPage t p va { g with refs := g.refs - 1 })))

/-- COW: both pages COPYING, the destination with reference 1; the copy starts (R229). -/
def execCow (p : PartId) (s : State) : Out :=
  .next (kvApply s p 4 (fun t va dst =>
    let g := kvPage t p va
    if !inPool t p dst then .error 1
    else if dst = va then .error 5
    else if g.refs = 0 then .error 3
    else if kvState (kvPage t p dst) ≠ 0 then .error 2
    else
      let t1 := setKvPage t p va { g with copying := true }
      let t2 := setKvPage t1 p dst { kvPage t1 p dst with refs := 1, copying := true }
      .ok (modFront t2 p (fun x => { x with copy := some (va, dst) }))))

/-- KVP_COPY_END: the copy in progress of the partition finishes, once its last unit has been written (R229). -/
def execKvpCopyEnd (p : PartId) (s : State) : Out :=
  match kvFront s p with
  | none => .next s
  | some r =>
    match r.copy with
    | none => .next s
    | some (va, dst) =>
      if r.done < 128 then .next s
      else
        let s2 := setKvPage s p va { kvPage s p va with refs := (kvPage s p va).refs - 1, copying := false }
        let s3 := setKvPage s2 p dst { kvPage s2 p dst with copying := false }
        let s4 := addMeter (modKv s3 (fun k => { k with copies := k.copies + 1 })) p 7 65536
        .next (kvSettle (modFront s4 p (fun x => { x with applied := x.applied + 1, copy := none, done := 0, busy := false, unit := [], bad := [] })) p)

/-! ### Leases (R230) -/

/-- The outcome of asking for a lease. -/
inductive Lease where
  | taken (s : State)
  | waits
  | refused

/-- A lease on the page that holds an address: refused where the page is FREE or has no reference; it waits at 65,535. -/
def takeLease (s : State) (p : PartId) (va : Nat) : Lease :=
  let g := kvPage s p va
  if g.refs = 0 then .refused
  else if 65535 ≤ g.leases then .waits
  else .taken (modKv (setKvPage s p va { g with leases := g.leases + 1 }) (fun k => { k with leases := k.leases + 1 }))

def dropLease (s : State) (p : PartId) (va : Nat) : State :=
  setKvPage s p va { kvPage s p va with leases := (kvPage s p va).leases - 1 }

/-! ### Selection (R234) -/

/-- KVP_PAGE_STATE and KVP_PAGE_COUNTS of the selected page. -/
def kvLatch (s : State) : State :=
  let p : PartId := Fin.ofNat 32 s.kvp.selPart
  let va := (s.kvp.selHi.toNat % 65536) * 2 ^ 32 + s.kvp.selLo.toNat / 32768 * 32768
  let g := kvPage s p va
  let ok := (getPart s p).live && inPool s p va
  modKv s (fun k => { k with state := if ok then BitVec.ofNat 32 (4 + kvState g) else 0,
                             counts := if ok then BitVec.ofNat 32 (g.refs * 65536 + g.leases) else 0 })

/-- KVP_SELECT: a write of a KVP_SEL register. -/
def execKvpSelect (w : KvpSel) (v : W32) (s : State) : Out :=
  .next (kvLatch (modKv s (fun k =>
    match w with
    | .part => { k with selPart := v.toNat % 32 }
    | .vaLo => { k with selLo := v &&& 0xFFFF8000 }
    | .vaHi => { k with selHi := v &&& 0xFFFF })))

/-- FREE pages of a partition's pool. -/
def kvFree (s : State) (p : PartId) : Nat :=
  if !(getPart s p).live then 0
  else
    let pool := (((getPart s p).maps.filter (fun m => m.perm.testBit 3)).map (fun m => m.pages * 64)).foldl (· + ·) 0
    pool - (s.kvp.pages.filter (fun e => e.1 / 2 ^ 33 = p.val && kvState e.2 != 0)).length

end Sys2Proof.Machine
end

