-- ==== Sys2Proof/Machine/Attn.lean ====
section
/-!
DEFINITION. Fused attention (09_attention.md, R206 to R224): the command block and its checks, fetches and thin commands
under leases, the algorithm of R214, merging, and completion.
-/

namespace Sys2Proof.Machine

/-- The block is ILLEGAL at issue (R209). An offset that is not the multiple that Table 9.1 asks for, and a LIST_LEN, KEYS,
WORK or WINDOW outside the range it gives, count as breaking it (DEDUCED, log 25). -/
def atIllegal (m : Core) (b : List Byte) : Bool :=
  let part := atPartial b
  let mg := atMerge b
  4 ≤ atMode b || 32 ≤ blkField b 1 1 || 64 ≤ blkField b 4 1 || (b.getD 5 0).getLsbD 6 || blkField b 14 2 != 0 ||
  !atFmtsOk b || (if part then atOutFmt b != 0 else !(atOutFmt b = 7 || atOutFmt b = 8 || atOutFmt b = 2 || atOutFmt b = 3)) ||
  47 < atWork b || !epiTableOk m 9 (atTable b) || (atAS b).isNone || (atAO b).isNone || (atAL b).isNone ||
  (if !mg && atMask b = 2 then atWindow b = 0 || 2 ^ 24 < atWindow b else atWindow b != 0) ||
  ((mg || atMask b != 3) && atPrefix b != 0) ||
  (mg && (atListOff b != 0 || atListLen b != 0 || atKeys b != 0 || atScale b != 0 || atQOff b != 0 || blkField b 1 1 % 16 != 0)) ||
  (atD128 b && atAccO b = 7) || (!mg && (atOutTiles b).contains (atAccS b)) ||
  (!mg && (atListLen b = 0 || 4096 < atListLen b || atKeys b = 0 || 2 ^ 24 < atKeys b ||
    atListLen b * atP b - atFirst b % atP b < atKeys b)) ||
  (atThin b && (mg || 8 < atM b)) ||
  atQOff b % 64 != 0 || atOutOff b % 64 != 0 || atListOff b % 8 != 0

/-- ATTN at issue. -/
def execAttn (k : CoreId) (f : FieldsT) (s : State) : Out :=
  .next (runInstr k (fun c s =>
    let off := (gOf s k c f.g).toNat
    match firstFault [(!okT f false false false false true false 0, .illegal), (off % 64 != 0, .align), (!opbufIn off 64, .range)] with
    | some e => iFault s e
    | none =>
      match readLocal s k .opbuf off 64 with
      | (s', none) => .fault s' .memUncorr 1 (BitVec.ofNat 64 off)
      | (s', some b) =>
        if atIllegal (getCore s' k) b then iFault s' .illegal
        else
          match readRanges s' k (atShapes b) with
          | (s2, none) => .fault s2 .memUncorr 1 (BitVec.ofNat 64 (atFirst b))
          | (s2, some _) =>
            let rs := atRanges (getCore s2 k).opbuf.bytes b
            match firstFault [(rs.any (fun r => !opbufIn r.1 r.2), .range), ((atTiles b).any (fun a => !ownsAcc s2 k c a), .accOwner),
                              (pairClaimed s2 k (atWork b) || rangesForeign s2 k c ((off, 64) :: rs), .bufOwner)] with
            | some e => iFault s2 e
            | none => enqueue s2 k c (.attn off (atTiles b) b)) s)

/-! ### Faults in execution and leases (R223, R230) -/

def modAttn (s : State) (k : CoreId) (f : AttnRun → AttnRun) : State := modCore s k (fun m => { m with attn := m.attn.map f })
def modAtt (s : State) (k : CoreId) (f : AttRegs → AttRegs) : State := modCore s k (fun m => { m with att := f m.att })

/-- One holder of the lease of a visit is gone; the last one drops the lease. -/
def unhold (s : State) (k : CoreId) (visit : Nat) : State :=
  match (getCore s k).attn, partOfCore s k with
  | some a, some p =>
    match a.leases.find? (fun l => l.visit = visit) with
    | none => s
    | some l =>
      if l.holds ≤ 1 then dropLease (modAttn s k (fun a => { a with leases := a.leases.filter (fun x => x.visit != visit) })) p l.va
      else modAttn s k (fun a => { a with leases := updIf (fun x => x.visit = visit) (fun x => { x with holds := x.holds - 1 }) a.leases })
  | _, _ => s

/-- A faulted command ends once nothing of it is in flight. -/
def attnDrain (s : State) (k : CoreId) : State :=
  match (getCore s k).attn with
  | none => s
  | some a =>
    if a.failed && a.fetches.isEmpty && a.thin.isEmpty then taskOpEnd (modCore s k (fun m => { m with attn := none })) k a.op.task else s

/-- The holders of a visit's lease that are in flight. -/
def visitInFlight (a : AttnRun) (visit : Nat) : Nat :=
  (a.fetches.filter (fun f => f.visit = visit)).length + (a.thin.filter (fun t => t.visits.contains visit)).length

/-- A command that ends early issues nothing more; a lease that nothing in flight holds drops at once (R230). -/
def attnHalt (s : State) (k : CoreId) : State :=
  match (getCore s k).attn with
  | none => s
  | some a =>
    let s1 := modAttn s k (fun x => { x with failed := true, todo := [], leases := x.leases.map (fun l => { l with holds := visitInFlight x l.visit }) })
    let gone := (a.leases.filter (fun l => visitInFlight a l.visit = 0)).map (fun l => l.visit)
    attnDrain (gone.foldl (fun t v => unhold t k v) s1) k

/-- A command whose fetches and thin commands will not return is given up with its leases. -/
def attnAbandon (s : State) (k : CoreId) : State :=
  match (getCore s k).attn with
  | none => s
  | some a =>
    modCore (match partOfCore s k with | some p => a.leases.foldl (fun t l => dropLease t p l.va) s | none => s) k (fun m => { m with attn := none })

/-- A command that faults. -/
def attnFail (s : State) (k : CoreId) : State :=
  if (getCore s k).attn.isNone then s else attnHalt (modAtt s k (fun r => { r with evFault := true })) k

/-- A task fault of the running ATTN. The spec gives no ADDRESS for it (log 26). -/
def attnTaskFault (s : State) (k : CoreId) (a : AttnRun) (cause : Nat) : State :=
  attnFail (opTaskFault s k a.op.ctx a.op.pc a.op.task cause 0) k

/-- A context fault of the running ATTN. -/
def attnCtxFault (s : State) (k : CoreId) (a : AttnRun) (cls : FCls) (detail : BitVec 16) : State :=
  attnFail (takeFault s k a.op.ctx cls ⟨a.op.pc, taskTag s k a.op.task, detail, 0, none⟩) k

/-! ### Keys and pages (R210, R211) -/

/-- The unwrapped position of key `j` of a block. -/
def atPos (b : List Byte) (blk j : Nat) : Nat := atFirst b + 64 * blk + j
/-- The keys of a block that are present. -/
def atPresent (b : List Byte) (blk : Nat) : Nat := min 64 (atKeys b - 64 * blk)
def atBlocks (b : List Byte) : Nat := (atKeys b + 63) / 64

/-- The page of a visit: position div P, the position taken modulo 2^32. -/
def visitVa (a : AttnRun) (v : Nat) : Nat := a.list.getD ((v % (2 ^ 32 / atP a.block)) % atListLen a.block) 0

/-- The parts of a block that lie in one page: (visit, first key, keys). -/
def atPieces (b : List Byte) (blk : Nat) : List (Nat × Nat × Nat) :=
  let n := atPresent b blk
  let lo := atPos b blk 0
  let n0 := min n (atP b - lo % atP b)
  (lo / atP b, 0, n0) :: (if n0 < n then [(lo / atP b + 1, n0, n - n0)] else [])

/-- The fetches, or thin commands, of a visit in the whole command. -/
def visitHolds (b : List Byte) (v : Nat) : Nat :=
  let lo := max (atFirst b) (v * atP b)
  let hi := min (atFirst b + atKeys b) ((v + 1) * atP b)
  ((hi - 1 - atFirst b) / 64 - (lo - atFirst b) / 64 + 1) * (if atThin b then 2 * atM b else 2)

/-- p is visible to query row q (Table 9.5). -/
def atVisible (b : List Byte) (q p : Nat) : Bool :=
  let qp := (atQPos b + q) % 2 ^ 32
  if atMask b = 0 then true
  else if atMask b = 1 then decide (p ≤ qp)
  else if atMask b = 2 then decide (qp - atWindow b < p) && decide (p ≤ qp)
  else decide (p < atPrefix b) || decide (p ≤ qp)

/-! ### Fetches and thin commands (R220 to R222, R230) -/

/-- What asking for the page of a visit gives. -/
inductive PageAsk where
  | ok (s : State) (pa : Nat)
  | waits
  | fault (cause : Nat)

/-- The page of a visit is checked and, at its first use, leased (Table 9.9). An address that is no multiple of 32 KiB has no
page (DEDUCED, log 27). -/
def askPage (s : State) (k : CoreId) (a : AttnRun) (p : PartId) (v : Nat) : PageAsk :=
  let va := visitVa a v
  match (if va % 32768 = 0 then mapOf (getPart s p) va else none) with
  | none => .fault 1
  | some m =>
    if !m.perm.testBit 0 || !m.perm.testBit 3 || (atThin a.block && !m.perm.testBit 2) then .fault 2
    else if a.leases.any (fun l => l.visit = v) then .ok s (physOf m va)
    else
      match takeLease s p va with
      | .refused => .fault 2
      | .waits => .waits
      | .taken s1 => .ok (modAttn s1 k (fun x => { x with leases := x.leases ++ [⟨v, va, visitHolds a.block v⟩] })) (physOf m va)

/-- Issues the fetch of one half of a part of a block. -/
def attnFetch (s : State) (k : CoreId) (a : AttnRun) (p : PartId) (pa : Nat) (piece : Nat × Nat × Nat) (value : Bool) : State :=
  let b := a.block
  let (v, j, n) := piece
  let off := (if value then 16384 else 0) + (atPos b a.blk j % atP b) * atB b
  let len := n * atB b
  let c := chargeOf 512 (visitVa a v + off) len
  let id := (getCore s k).nextId
  let s1 := meterCore (modStrm s k (fun m => { m with chgStk := m.chgStk + BitVec.ofNat 64 c })) k 7 c
  let s2 := modCore s1 k (fun m => { m with nextId := id + 1 })
  let r := submitUnits s2 (some p) (pa + off) len (fun o => .attn k id o) none
  modAttn r.1 k (fun x => { x with fetches := x.fetches ++ [⟨id, v, value, x.blk, j, n, List.replicate len 0, r.2, 0⟩] })

/-- The stack of a part's page. -/
def pieceStack (s : State) (p : PartId) (a : AttnRun) (piece : Nat × Nat × Nat) : Nat :=
  let va := visitVa a piece.1
  ((mapOf (getPart s p) va).map (fun m => physOf m va / 2 ^ 36)).getD 0

/-- The block of a thin command (Table 9.8). -/
def thinBlock (a : AttnRun) (value : Bool) (keys wva : Nat) : List Byte :=
  let b := a.block
  [if value then 0x11 else 0x10, BitVec.ofNat 8 (atKFmt b * 16 + (if value then atPFmt b else atQFmt b)), 0, 0] ++
  leBytes 2 (BitVec.ofInt 16 ((if value then atAO b else atAS b).getD 0)).toNat ++
  leBytes 2 (if value then atD b else keys) ++ leBytes 4 0xFFFFFFFF ++ leBytes 4 (atB b) ++
  leBytes 4 (if value then keys else atD b) ++ leBytes 4 0 ++ leBytes 8 wva ++ List.replicate 32 0

/-- The probabilities of chosen keys, packed. -/
def thinProbs (a : AttnRun) (row : Nat) (keys : List Nat) : List Byte :=
  let ps := a.probs.getD row []
  packBytes (fmtBits (atPFmt a.block)) (keys.map (fun j => ps.getD j 0))

/-- Sends the command of one query row for the parts of the block that lie in one stack. -/
def thinSend (s : State) (k : CoreId) (a : AttnRun) (value : Bool) (row stack : Nat) (ps : List (Nat × Nat × Nat)) : State :=
  let b := a.block
  let keys := ps.flatMap (fun q => (List.range q.2.2).map (· + q.2.1))
  let place := fun (q : Nat × Nat × Nat) => atPos b a.blk q.2.1 % atP b
  let pages := ps.map (fun q => (visitVa a q.1, place q, q.2.2))
  let wva := match ps with | q :: _ => visitVa a q.1 + (if value then 16384 else 0) + place q * atB b | [] => 0
  let x := if value then thinProbs a row keys else a.q.getD row []
  let id := (getCore s k).nextId
  let s1 := modAtt (modCore s k (fun m => { m with nextId := id + 1 })) k (fun r => { r with thin := r.thin + 1 })
  let s2 := modAttn s1 k (fun y => { y with thin := y.thin ++ [⟨id, value, row, a.blk, keys, ps.map (fun q => q.1)⟩] })
  meshSend s2 ⟨.ctx k a.op.ctx, .stack stack, 2, .thinCmd id (thinBlock a value keys.length wva) x pages⟩

/-- Sends the commands of a block: for each query row, one for each stack that holds a part of it (R221). -/
def thinSendAll (s : State) (k : CoreId) (a : AttnRun) (p : PartId) (value : Bool) : State :=
  let ps := atPieces a.block a.blk
  let stks := (ps.map (pieceStack s p a)).eraseDups
  (List.range (atM a.block)).foldl (fun t row =>
    stks.foldl (fun u n => thinSend u k a value row n (ps.filter (fun q => pieceStack s p a q = n))) t) s

/-- Takes the leases of the block's parts and issues their fetches; in thin mode the QK commands follow the last lease. A
lease that must wait, and a part whose two fetches would make more than 64 requests in flight (R141), are asked for again at the next
event of the command (log 28). -/
def attnIssue (s : State) (k : CoreId) : Nat → State
  | 0 => s
  | fuel + 1 =>
    match (getCore s k).attn, partOfCore s k with
    | some a, some p =>
      match a.todo with
      | [] => s
      | q :: rest =>
        if !atThin a.block && 62 < inFlight (getCore s k) then s else
        match askPage s k a p q.1 with
        | .fault e => attnTaskFault s k a e
        | .waits => modKv s (fun t => { t with evLeaseWait := true })
        | .ok s1 pa =>
          let s2 := modAttn s1 k (fun x => { x with todo := rest })
          if !atThin a.block then attnIssue (attnFetch (attnFetch s2 k a p pa q false) k a p pa q true) k fuel
          else if rest.isEmpty then thinSendAll s2 k a p false
          else attnIssue s2 k fuel
    | _, _ => s

/-- The next block starts, with its score tile at zero, or the output is due. -/
def attnNext (s : State) (k : CoreId) (a : AttnRun) (blk : Nat) : State :=
  if atBlocks a.block ≤ blk then modAttn s k (fun x => { x with stage := .output, blk := blk })
  else
    attnIssue (modAttn s k (fun x => { x with blk := blk, stage := .scores, keys := [], vals := [], sums := [], probs := [],
                                              todo := atPieces a.block blk })) k 3

/-! ### The algorithm (R214, R215) -/

/-- The arithmetic shift of R215, and whether it drops something. -/
def shiftX (n : BitVec 128) (k : Nat) : BitVec 128 × Bool :=
  let d : Int := 2 ^ min k 127
  let r := Int.fdiv n.toInt d
  (BitVec.ofInt 128 r, r * d != n.toInt)

/-- A score: none where it is −∞, and whether it makes the row NAN. -/
def atScore (b : List Byte) (x : XEl) : Option Dy × Bool :=
  match fDecode fp32Fmt (f32Mul (x128ToFp32 (atAS b) x) (atScale b)) with
  | .nan => (none, true)
  | .inf neg => (none, !neg)
  | .fin neg n e =>
    let d := fDy neg n e
    if dyLt ⟨2 ^ 30, 0⟩ d then (none, true) else if dyLt d ⟨-(2 ^ 30), 0⟩ then (none, false) else (some d, false)

/-- ceil of an exact value. -/
def dyCeil (d : Dy) : Int := -(dyFloor (dyNeg d))

/-- The largest ceiling of the finite scores. -/
def maxCeil (ss : List (Option Dy)) : Option Int :=
  ss.foldl (fun m x => match x with | none => m | some d => some (match m with | none => dyCeil d | some y => max y (dyCeil d))) none

/-- The exp2 coefficients that the command names. -/
def atCoeffs (m : Core) (b : List Byte) : Coeffs :=
  if atTable b = 31 then defaultCoeff 9 else recordCoeffs (tget (0xFF, []) m.epiRegs.tables (atTable b)).2

/-- A probability as its code in the probability format. -/
def atProb (b : List Byte) (cs : Coeffs) (m : Int) : Option Dy → Nat
  | none => 0
  | some d =>
    let x := dyAdd d ⟨-m, 0⟩
    (convTo (atPFmt b) false none 0 (activate 9 0 cs (if x.n = 0 then 0 else fRound fp32Fmt (x.n < 0) x.n.natAbs x.e))).bits

/-- The sum of the places of a row's probabilities at A_L. -/
def atLSum (b : List Byte) (ps : List Nat) : PlaceSum :=
  ps.foldl (fun acc p => placeOne ((atAL b).getD 0) acc (decodeEl (atPFmt b) p) (.fin 1 0)) placeZero

/-- What the scores of a block do to one row. -/
structure RowStep where
  nan   : Bool
  shift : Nat
  m     : Option Int
  probs : List Nat
  l     : BitVec 128
  drop  : Bool
  ovf   : Bool
  deriving DecidableEq, Repr

/-- Row `q` of a block: scores, the new maximum, the shift, the probabilities and the denominator. -/
def atRow (b : List Byte) (cs : Coeffs) (blk q : Nat) (m : Option Int) (l : BitVec 128) (score : Nat → XEl) : RowStep :=
  let seen := fun j => decide (j < atPresent b blk) && atVisible b q (atPos b blk j % 2 ^ 32)
  let ss := (List.range 64).map (fun j => if seen j then atScore b (score j) else (none, false))
  let mb := maxCeil (ss.map (fun x => x.1))
  let (m', sh) : Option Int × Nat :=
    match m, mb with
    | none, some y => (some y, (y + 2 ^ 31).toNat)
    | some x, some y => if x < y then (some y, (y - x).toNat) else (some x, 0)
    | x, none => (x, 0)
  let ps := ss.map (fun x => atProb b cs (m'.getD 0) x.1)
  let (l1, d1) := shiftX l sh
  let sm := atLSum b ps
  let (l2, o2) := xClamp (l1.toInt + sm.sum)
  { nan := ss.any (fun x => x.2), shift := sh, m := m', probs := ps, l := BitVec.ofInt 128 l2, drop := d1 || sm.dropped, ovf := sm.sat || o2 }

/-- An output tile after the row steps of a block: shifts and NAN rows; and whether a shift dropped something. -/
def shiftTile (t : AccTile) (rs : List RowStep) : AccTile × Bool :=
  let es := (List.range 4096).map (fun i =>
    let x := t.els.getD i xelZero
    match rs[i / 64]? with
    | none => (x, false)
    | some r =>
      let y := shiftX x.n r.shift
      (⟨y.1, if r.nan then .nan else x.cls⟩, y.2))
  ({ t with els := es.map (fun e => e.1) }, es.any (fun e => e.2))

/-- The scores of the block in progress are in the score tile: R214 up to the probabilities. -/
def attnScored (s : State) (k : CoreId) (a : AttnRun) : State :=
  let b := a.block
  let t := getTile s k (atAccS b)
  let cs := atCoeffs (getCore s k) b
  let rs := (List.range (atM b)).map (fun q =>
    atRow b cs a.blk q (a.m.getD q none) (a.l.getD q 0) (fun j => t.els.getD (q * 64 + j) xelZero))
  let r := (atOutTiles b).foldl (fun (x : State × Bool) o =>
    let y := shiftTile (getTile x.1 k o) rs
    (putTile x.1 k o y.1, x.2 || y.2)) (s, false)
  modAttn r.1 k (fun x =>
    { x with m := rs.map (fun q => q.m), l := rs.map (fun q => q.l), probs := rs.map (fun q => q.probs), stage := .values,
             drop := x.drop || t.dropped || r.2 || rs.any (fun q => q.drop), ovf := x.ovf || t.overflow || rs.any (fun q => q.ovf) })

/-! ### Passes in core mode (R213) -/

/-- A pass of the running ATTN with its one replay; none where the replay fails, whose fault has been taken. -/
def attnPass (s : State) (k : CoreId) (a : AttnRun) (p : Pass) (u : PassUpset) : State × Bool :=
  let busy := fun (t : State) => modCube t k (fun r =>
    { r with busy := r.busy + BitVec.ofNat 64 (p.kElems / meterStep p.cls), chkOff := r.chkOff || p.chkOff })
  match readTile (busy s) k p.acc with
  | (s1, none) => (attnCtxFault s1 k a .memUncorr 2, false)
  | (s1, some t) =>
    let (out, unch, f) := passTry t p u.us u.parity
    if f.1 = 0 then (passStore s1 k p out unch, true)
    else
      let s2 := busy (passMark s1 k p f.1 f.2.1 f.2.2)
      let p2 := passAgain p f.1 f.2.1 f.2.2
      let (out2, unch2, f2) := passTry t p2 u.again u.parityAgain
      if f2.1 = 0 then (passStore s2 k p2 out2 unch2, true)
      else (attnCtxFault (passNote s2 k p2) k a .abftPersist (passDetail p2), false)

/-- Key or value rows of the block, absent ones zero. -/
def atRowsOf (b : List Byte) (t : Tbl (List Byte)) : List (List OpVal) :=
  (List.range 64).map (fun j => vecVals (atKFmt b) (atD b) (tget (List.replicate (atB b) 0) t j) none)

/-- The score pass. -/
def scorePass (a : AttnRun) : Pass :=
  let b := a.block
  { op := a.op, acc := atAccS b, rowsA := atM b, rowsB := 64, kElems := atD b,
    aVals := a.q.map (fun q => vecVals (atQFmt b) (atD b) q none), bVals := atRowsOf b a.keys,
    chkOff := atNoCheck b, cls := pairMeter (atQFmt b) (atKFmt b), replay := false, failKind := 0, failRow := 0, failCol := 0 }

/-- The value pass into output tile `i`: value element d of each key is column d. -/
def valuePass (a : AttnRun) (i : Nat) : Pass :=
  let b := a.block
  let vs := atRowsOf b a.vals
  { op := a.op, acc := atAccO b + i, rowsA := atM b, rowsB := 64, kElems := 64,
    aVals := a.probs.map (fun l => l.map (decodeEl (atPFmt b))),
    bVals := (List.range 64).map (fun d => vs.map (fun v => v.getD (64 * i + d) (.fin 0 0))),
    chkOff := atNoCheck b, cls := pairMeter (atPFmt b) (atKFmt b), replay := false, failKind := 0, failRow := 0, failCol := 0 }

def upset0 : PassUpset := ⟨[], [], [], []⟩

/-- One block after its values: it is counted, and the next one starts. -/
def attnBlockDone (s : State) (k : CoreId) : State :=
  match (getCore s k).attn with
  | none => s
  | some a => attnNext (modAtt s k (fun r => { r with blocks := r.blocks + 1 })) k a (a.blk + 1)

/-- All rows of the block have arrived: its passes run. -/
def attnBlock (s : State) (k : CoreId) (a : AttnRun) (ups : List PassUpset) : State :=
  let s0 := setTile s k (atAccS a.block) (zeroTile (atAS a.block))
  match attnPass s0 k a (scorePass a) (ups.getD 0 upset0) with
  | (s1, false) => s1
  | (s1, true) =>
    let s2 := attnScored s1 k a
    match (getCore s2 k).attn with
    | none => s2
    | some a2 =>
      let r := (List.range (atOutTiles a2.block).length).foldl (fun (x : State × Bool) i =>
        if x.2 then attnPass x.1 k a2 (valuePass a2 i) (ups.getD (i + 1) upset0) else x) (s2, true)
      if r.2 then attnBlockDone r.1 k else r.1

/-- ATTN_FETCH_RETURN: the `i`-th fetch returns once nothing it waits for is outstanding. `ups` are the disturbances of the
block's passes where this fetch completes the block. -/
def execAttnFetchReturn (k : CoreId) (i : Nat) (ups : List PassUpset) (s : State) : Out :=
  match (getCore s k).attn with
  | none => .next s
  | some a =>
    match a.fetches[i]? with
    | none => .next s
    | some f =>
      if f.waits ≠ 0 || !coreClocked s k then .next s
      else
        let w := atB a.block
        let put := fun (t : Tbl (List Byte)) =>
          (List.range f.rows).foldl (fun (u : Tbl (List Byte)) r => tset u (f.key + r) ((f.data.drop (r * w)).take w)) t
        let s1 := unhold (modAttn s k (fun x => { x with fetches := dropAt x.fetches i })) k f.visit
        if a.failed then .next (attnDrain s1 k)
        else if f.err ≠ 0 then .next (attnTaskFault s1 k a f.err)
        else
          let s2 := modAttn s1 k (fun x => if f.value then { x with vals := put x.vals } else { x with keys := put x.keys })
          match (getCore s2 k).attn with
          | none => .next s2
          | some a2 =>
            if a2.fetches.isEmpty && a2.todo.isEmpty then .next (attnBlock s2 k a2 ups) else .next (attnIssue s2 k 3)

/-! ### Thin mode -/

/-- The sums that the commands of a block returned for one place, added exactly. -/
def sumAt (a : AttnRun) (value : Bool) (row place : Nat) (z : PlaceSum) : PlaceSum :=
  (a.sums.filter (fun x => x.value = value && x.row = row && x.place = place)).foldl (fun (acc : PlaceSum) x =>
    { acc with sum := acc.sum + x.sum.sum, cls := clsCombine acc.cls x.sum.cls, dropped := acc.dropped || x.sum.dropped,
               sat := acc.sat || x.sum.sat }) z

/-- A tile after sums have been added, as a pass adds them (R107). -/
def addSums (t : AccTile) (rows : Nat) (f : Nat → Nat → PlaceSum) : AccTile :=
  let es := (List.range 4096).map (fun i =>
    let x := t.els.getD i xelZero
    if rows ≤ i / 64 then (x, false, false)
    else
      let p := f (i / 64) (i % 64)
      let (v, o) := xClamp (xelVal x + p.sum)
      (⟨BitVec.ofInt 128 v, clsCombine x.cls p.cls⟩, p.dropped, p.sat || o))
  { t with els := es.map (fun e => e.1), dropped := t.dropped || es.any (fun e => e.2.1), overflow := t.overflow || es.any (fun e => e.2.2) }

/-- The sum of an absent key: its row is zero. -/
def absentSum (a : AttnRun) (row : Nat) : PlaceSum :=
  let b := a.block
  placeRow ((atAS b).getD 0) (vecVals (atQFmt b) (atD b) (a.q.getD row []) none) (List.replicate (atD b) (.fin 0 0)) placeZero

/-- All commands of a stage have returned. -/
def thinStage (s : State) (k : CoreId) (a : AttnRun) (p : PartId) : State :=
  let b := a.block
  if a.stage = .scores then
    let t := addSums (zeroTile (atAS b)) (atM b) (fun q j => if j < atPresent b a.blk then sumAt a false q j placeZero else absentSum a q)
    let s1 := attnScored (setTile s k (atAccS b) t) k a
    match (getCore s1 k).attn with
    | none => s1
    | some a1 => thinSendAll s1 k a1 p true
  else
    let s1 := (List.range (atOutTiles b).length).foldl (fun t i =>
      putTile t k (atAccO b + i) (addSums (getTile t k (atAccO b + i)) (atM b) (fun q d => sumAt a true q (64 * i + d) placeZero))) s
    attnBlockDone s1 k

/-- The sums of one command, by their places. -/
def sumsOf (c : AttnThin) (l : List PlaceSum) : List AttnSum :=
  (List.range l.length).map (fun i => ⟨c.value, c.row, if c.value then i else c.keys.getD i 64, l.getD i placeZero⟩)

/-- A thin command of the core has ended, with its sums or with a fault. -/
def thinReturned (s : State) (k : CoreId) (id : Nat) (l : List PlaceSum) (fault : Option Nat) : State :=
  match (getCore s k).attn, partOfCore s k with
  | some a, some p =>
    match a.thin.find? (fun c => c.id = id) with
    | none => s
    | some c =>
      let s1 := c.visits.foldl (fun t v => unhold t k v) (modAttn s k (fun x => { x with thin := x.thin.filter (fun y => y.id != id) }))
      if a.failed then attnDrain s1 k
      else
        match fault with
        | some e => attnTaskFault s1 k a e
        | none =>
          let s2 := modAttn s1 k (fun x => { x with sums := x.sums ++ sumsOf c l })
          match (getCore s2 k).attn with
          | none => s2
          | some a2 => if a2.thin.isEmpty then thinStage s2 k a2 p else s2
  | _, _ => s

/-- THIN_SUM_RETURN: the frame at place `j` brings the sums of a thin command, or its fault. -/
def execThinSumReturn (j : Nat) (s : State) : Out :=
  match arrives s j with
  | some ⟨_, .ctx k _, _, .thinSums id l fault⟩ => .next (thinReturned (takeFrame s j) k id l fault)
  | _ => .next s

/-! ### Merging (R217, R218) -/

/-- Fields of a partial record. -/
def recM (r : List Byte) (q : Nat) : Option Int :=
  let v := (BitVec.ofNat 32 (leNat ((r.drop (64 + 4 * q)).take 4))).toInt
  if v = -(2 ^ 31) then none else some v
def recL (r : List Byte) (q : Nat) : BitVec 128 := BitVec.ofNat 128 (leNat ((r.drop (320 + 16 * q)).take 16))
def recEl (r : List Byte) (i : Nat) : XEl :=
  ⟨BitVec.ofNat 128 (leNat ((r.drop (4096 + 16 * i)).take 16)), clsOf ((r.getD (1344 + i / 4) 0).toNat / 4 ^ (i % 4))⟩

def mNum (m : Option Int) : Int := m.getD (-(2 ^ 31))
def mMax (a b : Option Int) : Option Int := if mNum a < mNum b then b else a

/-- The merged row state of two records: m, the shifts of both sides, N_L, and its flags. -/
def mergeRow (ra rb : List Byte) (q : Nat) : Option Int × Nat × Nat × BitVec 128 × Bool × Bool :=
  let m := mMax (recM ra q) (recM rb q)
  let ka := (mNum m - mNum (recM ra q)).toNat
  let kb := (mNum m - mNum (recM rb q)).toNat
  let x := shiftX (recL ra q) ka
  let y := shiftX (recL rb q) kb
  let (v, o) := xClamp (x.1.toInt + y.1.toInt)
  (m, ka, kb, BitVec.ofInt 128 v, x.2 || y.2, o)

/-- A merged output element and its flags. -/
def mergeEl (ra rb : List Byte) (i ka kb : Nat) : XEl × Bool × Bool :=
  let ea := recEl ra i
  let eb := recEl rb i
  let x := shiftX ea.n ka
  let y := shiftX eb.n kb
  let (v, o) := xClamp (x.1.toInt + y.1.toInt)
  (⟨BitVec.ofInt 128 v, clsCombine ea.cls eb.cls⟩, x.2 || y.2, o)

/-- The merged state: the rows, the output tiles with the flags of R218, and the flags. -/
def attnMerge (s : State) (k : CoreId) (a : AttnRun) (ra rb : List Byte) : State :=
  let b := a.block
  let rows := (List.range (atM b)).map (mergeRow ra rb)
  let tile := fun i => (List.range 4096).map (fun n =>
    match rows[n / 64]? with
    | none => (xelZero, false, false)
    | some r => mergeEl ra rb ((n / 64) * atD b + 64 * i + n % 64) r.2.1 r.2.2.1)
  let ts := (List.range (atOutTiles b).length).map tile
  let f := (ra.getD 6 0) ||| (rb.getD 6 0)
  let drop := f.getLsbD 0 || rows.any (fun r => r.2.2.2.2.1) || ts.any (fun t => t.any (fun e => e.2.1))
  let ovf := f.getLsbD 1 || rows.any (fun r => r.2.2.2.2.2) || ts.any (fun t => t.any (fun e => e.2.2))
  let s1 := (List.range ts.length).foldl (fun t i =>
    setTile t k (atAccO b + i) ⟨(ts.getD i []).map (fun e => e.1), atAO b, drop, ovf⟩) s
  modAttn s1 k (fun x => { x with m := rows.map (fun r => r.1), l := rows.map (fun r => r.2.2.2.1), drop := drop, ovf := ovf, stage := .output })

/-! ### Start and completion (R210, R216) -/

/-- Bytes of an operand-buffer pair (R57). -/
def pairBytes : Nat := 131072

/-- The work pair holds the probability tiles from the start on; the spec does not say what stands there, so its bytes are free
(R216; log 16). -/
def freeWork (s : State) (k : CoreId) (id : Nat) (b : List Byte) : State :=
  let bs := (List.range pairBytes).map (fun i => (Config.freeWord (s.freeCtr + i)).setWidth 8)
  let s1 := keepHeld s k (some id) (pairBytes * atWork b) pairBytes
  setSpace { s1 with freeCtr := s.freeCtr + pairBytes } k .opbuf (pmStore (getSpace s1 k .opbuf) (pairBytes * atWork b) bs)

/-- What a command reads as it starts: its query rows, which R94 keeps from the issue on (R222), and its list; or both records. -/
def attnReads (s : State) (k : CoreId) (o : TOp) (b : List Byte) (rs : List (Nat × Nat)) : State × Option (List (List Byte)) :=
  if atMerge b then readRanges s k rs
  else
    let q := readHeld s k o.id (rs.take 1)
    let l := readRanges q.1 k (rs.drop 1)
    (dropHold l.1 k o.id, match q.2, l.2 with | some x, some y => some (x ++ y) | _, _ => none)

/-- An attend or merge command starts. A record that now reaches beyond the buffer is no match of the command's SHAPE (R218). -/
def attnBegin (s : State) (k : CoreId) (o : TOp) (off : Nat) (b : List Byte) : State :=
  let s0 := grant s k 0 o
  let run : AttnRun :=
    { op := o, off := off, block := b, list := [], q := [], m := List.replicate (atM b) none, l := List.replicate (atM b) 0,
      drop := false, ovf := false, blk := 0, stage := .scores, keys := [], vals := [], probs := [], todo := [], fetches := [], thin := [],
      leases := [], sums := [], failed := false }
  let rs := (atRanges (getCore s0 k).opbuf.bytes b).drop 1
  if rs.any (fun r => !opbufIn r.1 r.2) then opFault (modAtt s0 k (fun r => { r with evFault := true })) k o .range 0 0 else
  match attnReads s0 k o b rs with
  | (s1, none) => opFault (modAtt s1 k (fun r => { r with evFault := true })) k o .memUncorr 1 0
  | (s1, some l) =>
    let x := l.getD 0 []
    let y := l.getD 1 []
    if atMerge b then
      if x.take 6 = y.take 6 && x.getD 0 0 = b.getD 5 0 then attnMerge (modCore (freeWork s1 k o.id b) k (fun m => { m with attn := some run })) k run x y
      else opFault (modAtt s1 k (fun r => { r with evFault := true })) k o .range 0 0
    else
      let w := atD b * fmtBits (atQFmt b) / 8
      let run' := { run with q := (List.range (atM b)).map (fun i => (x.drop (i * w)).take w)
                             list := (List.range (atListLen b)).map (fun i => leNat ((y.drop (8 * i)).take 8)) }
      let s2 := (atOutTiles b).foldl (fun t i => setTile t k i (zeroTile (atAO b))) (setTile (freeWork s1 k o.id b) k (atAccS b) (zeroTile (atAS b)))
      attnNext (modCore s2 k (fun m => { m with attn := some run' })) k run' 0

/-- ATTN_START: the array grants the next operation, an ATTN; one that fetches waits while 8 transfers are active (R222). For
the running ATTN, a lease that had to wait is asked for again. -/
def execAttnStart (k : CoreId) (s : State) : Out :=
  match (getCore s k).attn with
  | some a => .next (if a.failed || !coreClocked s k then s else attnIssue s k 3)
  | none =>
    match nextGrant s k 0 with
    | some o =>
      match o.kind with
      | .attn off _ b => if !atThin b && !atMerge b && 8 ≤ activeCount s k then .next s else .next (attnBegin s k o off b)
      | _ => .next s
    | none => .next s

/-- An output element of a final mode: its conversion and whether its row counts as empty (R216). -/
def atOut (b : List Byte) (x : XEl) (l : BitVec 128) : Conv × Bool :=
  let f := atOutFmt b
  match x.cls with
  | .finite =>
    if l = 0 then (⟨0, false, false⟩, true)
    else if x.n = 0 then (⟨0, false, false⟩, false)
    else
      let n := x.n.toInt
      let d := l.toInt
      let q := ratMag 32 n.natAbs d.natAbs
      (convFloat f false none (decide (n < 0) != decide (d < 0)) q.1 (q.2 + (atAO b).getD 0 - (atAL b).getD 0), false)
  | _ => (convTo f false none 0 (x128ToFp32 (some 0) x), false)

/-- Element d of row q of the output tiles. -/
def atElem (s : State) (k : CoreId) (b : List Byte) (q d : Nat) : XEl :=
  (getTile s k (atAccO b + d / 64)).els.getD (q * 64 + d % 64) xelZero

/-- The partial record (Table 9.7). -/
def atRecord (s : State) (k : CoreId) (a : AttnRun) (drop ovf : Bool) : List Byte :=
  let b := a.block
  let d := atD b
  let n := atM b
  let el := fun i => if i / d < n then atElem s k b (i / d) (i % d) else xelZero
  let es := (List.range (64 * d)).map el
  [b.getD 5 0, BitVec.ofNat 8 (atPFmt b)] ++ leBytes 2 (BitVec.ofInt 16 ((atAO b).getD 0)).toNat ++
  leBytes 2 (BitVec.ofInt 16 ((atAL b).getD 0)).toNat ++ [(if drop then 1 else 0) + (if ovf then 2 else 0)] ++ List.replicate 57 0 ++
  (List.range 64).flatMap (fun q => leBytes 4 (if q < n then (BitVec.ofInt 32 (mNum (a.m.getD q none))).toNat else 0)) ++
  (List.range 64).flatMap (fun q => leBytes 16 (if q < n then (a.l.getD q 0).toNat else 0)) ++
  leBytes (16 * d) (packLanes 2 (es.map (fun x => clsCode x.cls))) ++ List.replicate (2752 - 16 * d) 0 ++
  es.flatMap (fun x => leBytes 16 x.n.toNat)

/-- The output or the partial record of an ATTN, its RESULT byte and seven zero bytes are written, and the command ends. -/
def attnWrite (s : State) (k : CoreId) (a : AttnRun) : State :=
  let b := a.block
  let ts := (atOutTiles b).map (getTile s k)
  let drop := a.drop || ts.any (fun t => t.dropped)
  let ovf := a.ovf || ts.any (fun t => t.overflow)
  let nan := (List.range (atM b)).any (fun q => (List.range (atD b)).any (fun d => (atElem s k b q d).cls == .nan))
  let outs := if atPartial b then [] else
    (List.range (atM b)).map (fun q => (List.range (atD b)).map (fun d => atOut b (atElem s k b q d) (a.l.getD q 0)))
  let sat := outs.any (fun r => r.any (fun o => o.1.sat))
  let empty := outs.any (fun r => r.any (fun o => o.2))
  let bytes := if atPartial b then atRecord s k a drop ovf
    else outs.flatMap (fun r => packBytes (fmtBits (atOutFmt b)) (r.map (fun o => o.1.bits)))
  let res := (if drop then 1 else 0) + (if ovf then 2 else 0) + (if nan then 4 else 0) + (if sat then 8 else 0) +
    (if empty then 16 else 0) + (if atThin b then 32 else 0)
  let s1 := writeLocalBy (some a.op.id) (writeLocalBy (some a.op.id) s k .opbuf (atOutOff b) bytes) k .opbuf (a.off + 56) (leBytes 8 res)
  let s2 := modAtt s1 k (fun r =>
    { r with evEmptyRow := r.evEmptyRow || empty, evNanRow := r.evNanRow || nan, evSat := r.evSat || sat,
             evDropped := r.evDropped || drop, cmds := r.cmds + 1 })
  taskOpEnd (modCore s2 k (fun m => { m with attn := none })) k a.op.task

/-- ATTN_COMPLETE: the output tiles are read, and the output is written. -/
def execAttnComplete (k : CoreId) (s : State) : Out :=
  match (getCore s k).attn with
  | none => .next s
  | some a =>
    if a.failed || a.stage ≠ .output || !coreClocked s k then .next s
    else
      match touchSofts s k .acc ((atOutTiles a.block).flatMap (tileSofts (getCore s k))) with
      | (s1, false) => .next (attnCtxFault s1 k a .memUncorr 2)
      | (s1, true) => .next (attnWrite s1 k a)

end Sys2Proof.Machine
end

