-- ==== Sys2Proof/Machine/Host.lean ====
section
/-!
DEFINITION. The host interface (12_host.md): windows and messages, completion rings, function resets, the BAR4 aperture and
the meters' snapshots.
-/

namespace Sys2Proof.Machine

/-! ### Windows (R291, R292) -/

/-- A window write of `n` bytes from `off` covers header bytes 0 to 11 at `d`. -/
def covers (d : Nat) (w : Nat × Nat) : Bool := (d + 65536 - w.1 % 65536) % 65536 + 12 ≤ w.2

/-- `n` bytes of a window from an offset, modulo its size. -/
def winRead (m : Mem) (off n : Nat) : List Byte := (List.range n).map (fun i => memRead m ((off + i) % 65536))
def winWrite (m : Mem) (off : Nat) (bs : List Byte) : Mem :=
  (bs.foldl (fun (a : Mem × Nat) b => (memWrite a.1 (a.2 % 65536) b, a.2 + 1)) (m, off)).1

/-- WINDOW_WRITE: a posted write to the window of a channel that exists; one that covers bytes 0 to 11 of the header line at
NEXT_OFFSET marks the message there, unless the channel is STOPPED. A function without its partition answers nothing (R289). -/
def execWindowWrite (p : PartId) (c : Fin 8) (off : Nat) (data : List Byte) (s : State) : Out :=
  if !(getPart s p).live then .next (respond s .unsupported)
  else if (chanRec s p c.val).isNone then .next s
  else .next (modCh s p c.val (fun x =>
    { x with win := winWrite x.win off data,
             marks := if !x.stopped && covers x.d (off, data.length) then x.marks ++ [(off, data.length)] else x.marks }))

/-- Free bytes of a channel buffer. -/
def chFree (x : Channel) : Nat :=
  65536 - (x.buf.map (fun m => m.body.length)).foldl (· + ·) 0 - (x.gone.map (fun g => g.2)).foldl (· + ·) 0

/-- Later than LAST_ACCEPTED (R292). -/
def hseqLater (h last : W32) : Bool := (h - last).toNat != 0 && decide ((h - last).toNat < 2 ^ 31)

/-- The code of the first check of Table 12.4 that a message fails; 0 where it passes. -/
def msgCheck (x : Channel) (hdr body : List Byte) : Nat :=
  let hseq : W32 := BitVec.ofNat 32 (leNat (hdr.take 4))
  let dest := (hdr.getD 4 0).toNat / 64
  let tag := leNat ((hdr.drop 6).take 2)
  if crc32c (hdr.take 8 ++ [0, 0, 0, 0] ++ hdr.drop 12 ++ body) != BitVec.ofNat 32 (leNat ((hdr.drop 8).take 4)) then 1
  else if (hdr.drop 12).any (· != 0) || 2 ≤ dest || (dest = 1 && tag != 0) then 2
  else if hdr.getD 5 0 != hdr.getD 0 0 then 3
  else if !hseqLater hseq x.accepted then 4
  else if hseq != x.accepted + 1 then 5
  else if chFree x < body.length then 6
  else 0

/-- The marked message at NEXT_OFFSET is taken (R291, R292, R294). -/
def takeMessage (s : State) (p : PartId) (c : Nat) : State :=
  let x := getCh s p c
  let hdr := winRead x.win x.d 64
  let n := ((hdr.getD 4 0).toNat % 64 + 1) * 64
  let body := winRead x.win (x.d + 64) n
  let hseq : W32 := BitVec.ofNat 32 (leNat (hdr.take 4))
  let c0 := msgCheck x hdr body
  let code := if c0 = 0 && partResetting s p then 7 else c0
  let s1 := addMeter s p 11 (64 + n)
  let d := if code = 1 then x.d else (x.d + 64 + n) % 65536
  let s2 := modCh s1 p c (fun y =>
    { y with d := d, stopped := y.stopped || code = 1, marks := if code = 1 then [] else y.marks.filter (covers d) })
  if code ≠ 0 then postError s2 p c hseq code
  else
    let m : HostMsg := ⟨s2.hst.nextId, hseq, BitVec.ofNat 16 (leNat ((hdr.drop 6).take 2)), (hdr.getD 4 0).toNat / 64, body, false⟩
    modCh (modHst s2 (fun h => { h with nextId := h.nextId + 1 })) p c (fun y => { y with accepted := hseq, buf := y.buf ++ [m] })

/-- MESSAGE_TAKE: a marked message is taken once the device hold has room. -/
def execMessageTake (p : PartId) (c : Fin 8) (s : State) : Out :=
  let x := getCh s p c.val
  if (chanRec s p c.val).isNone || x.stopped || x.marks.isEmpty || !devRoom s p c.val then .next s
  else .next (takeMessage s p c.val)

/-! ### Onward (R293) -/

/-- The body that a channel sends next: the first that is not on its way and whose receiver is not refusing. -/
def nextBody (x : Channel) : Option HostMsg := x.buf.find? (fun m => !m.sent && (m.dest = 1 || !x.stop))

def chanWork (s : State) (p : PartId) (c : Nat) : Bool :=
  (chanRec s p c).isSome && !partResetting s p && (nextBody (getCh s p c)).isSome

/-- Sends a body to the context that its HOST_WINDOW record names, or queues it at the page manager. -/
def forwardBody (s : State) (p : PartId) (c : Nat) (w : HostWinRec) (m : HostMsg) : State :=
  if m.dest = 1 then
    kvEnqueue (modCh s p c (fun x => { x with buf := x.buf.filter (fun y => y.id != m.id) })) p c m.hseq m.body
  else
    match coreOfPcn (maskOf s p) w.core with
    | none => s
    | some k =>
      let id := BitVec.ofNat 16 (0x400 + c)
      meshSend (modCh s p c (fun x => { x with buf := updIf (fun y => y.id = m.id) (fun y => { y with sent := true }) x.buf }))
        ⟨.host p c, .ctx k (Fin.ofNat 4 w.context), 0, .msg m.id id (BitVec.ofNat 16 (w.core * 4 + w.context)) m.tag (getCh s p c).epoch m.body⟩

/-- HOST_BODY_FORWARD: the next body by W_HOST among partitions and by WEIGHT among a partition's channels. -/
def execHostBodyForward (s : State) : Out :=
  match wrrPick 32 (fun p => (List.range 8).any (chanWork s (Fin.ofNat 32 p)))
      (fun p => (getPart s (Fin.ofNat 32 p)).weights.getD 2 1) s.hst.rr with
  | none => .next s
  | some rr =>
    let p : PartId := Fin.ofNat 32 rr.1
    match wrrPick 8 (chanWork s p) (fun c => ((chanRec s p c).map (fun w => w.weight)).getD 1) (getPst s p).rr with
    | none => .next s
    | some cr =>
      match chanRec s p cr.1, nextBody (getCh s p cr.1) with
      | some w, some m => .next (forwardBody (modPst (modHst s (fun h => { h with rr := rr })) p (fun x => { x with rr := cr })) p cr.1 w m)
      | _, _ => .next s

/-- An ACK or ERROR for a channel's MSG: the body leaves the buffer. -/
def hostAck (s : State) (p : PartId) (c id : Nat) : State :=
  modCh s p c (fun x => { x with buf := x.buf.filter (fun m => m.id != id) })

/-- A REFUSE: the body stays, and the channel sends its receiver nothing more. -/
def hostRefuse (s : State) (p : PartId) (c id : Nat) : State :=
  if (getCh s p c).buf.any (fun m => m.id = id) then modCh s p c (fun x => { x with stop := true }) else s

/-- A RESUME: every body not acknowledged is sent again in order. -/
def hostResume (s : State) (p : PartId) (c : Nat) : State :=
  modCh s p c (fun x => { x with stop := false, epoch := !x.epoch, buf := x.buf.map (fun m => { m with sent := false }) })

/-! ### Rings (R296 to R299) -/

def getRing (s : State) : RingId → Ring
  | .ch p c => (getCh s p c.val).ring
  | .nr r => (vget s.hst.rings r).ring

def modRing (s : State) (t : RingId) (f : Ring → Ring) : State :=
  match t with
  | .ch p c => modCh s p c.val (fun x => { x with ring := f x.ring })
  | .nr r => modHst s (fun h => { h with rings := vmod h.rings r (fun x => { x with ring := f x.ring }) })

/-- The ring exists: a notice ring always, a channel's while the channel does. -/
def ringExists (s : State) : RingId → Bool
  | .ch p c => (chanRec s p c.val).isSome
  | .nr _ => true

def ringSize (r : Ring) : Nat := 2 ^ r.log2

/-- PHASE of the next entry. -/
def ringPhase (r : Ring) : Bool := (r.tail.toNat / ringSize r) % 2 = 0

/-- The ring takes the next entry. -/
def ringReady (r : Ring) : Bool := r.enable && decide ((r.tail - r.head).toNat < ringSize r)

/-- The 64 bytes of an entry as it is written (Table 12.5). -/
def entryBytes (r : Ring) (chan : Nat) (ack : W32) (e : HeldEntry) : List Byte :=
  let seq := r.issued + 1
  let b := leBytes 4 seq.toNat ++ leBytes 4 (if e.kind = 0 then e.miss.toNat else 0) ++ leBytes 4 ack.toNat ++
    [seq.setWidth 8, BitVec.ofNat 8 chan, BitVec.ofNat 8 e.kind, if ringPhase r then 1 else 0] ++ e.body
  b ++ leBytes 4 (crc32c b).toNat

/-- The entry leaves its hold and is written; the ring's vector follows if ARM is set. -/
def writeEntry (s : State) (t : RingId) (e : HeldEntry) : State :=
  let r := getRing s t
  let (fn, vec, chan, ack, part) : Fn × Nat × Nat × W32 × Option PartId :=
    match t with
    | .ch p c => (.vf p, c.val, c.val, (getCh s p c.val).accepted, some p)
    | .nr q => (.pf, 2 + q.val, q.val, 0, none)
  let addr := r.baseHi.toNat * 2 ^ 32 + r.baseLo.toNat + 64 * (r.tail.toNat % ringSize r)
  let s1 := { s with hostWrites := s.hostWrites ++ [⟨part, addr, entryBytes r chan ack e⟩] }
  let s2 := modRing s1 t (fun x => { x with held := x.held.drop 1, tail := x.tail + 1, issued := x.issued + 1, arm := false })
  let s3 := match part with | some p => addMeter s2 p 11 64 | none => s2
  if r.arm then irq s3 fn vec else s3

/-- After a device hold has room: ABSORBED entries and completions of the page manager enter it. -/
def holdFreed (s : State) : RingId → State
  | .ch p c => kvSettle (fillAbsorbed s p c.val) p
  | .nr _ => s

/-- ENTRY_WRITE: the hub writes the next held entry. `fail` says that the write fails its translation or ends with an error
completion; `bad`, that the check at the egress fails (R299). -/
def execEntryWrite (t : RingId) (fail bad : Bool) (s : State) : Out :=
  let r := getRing s t
  if !ringExists s t || !ringReady r then .next s
  else
    match r.held with
    | [] => .next s
    | e :: _ =>
      if fail then
        let addr := r.baseHi.toNat * 2 ^ 32 + r.baseLo.toNat + 64 * (r.tail.toNat % ringSize r)
        let s1 := modRing s t (fun x => { x with enable := false, arm := false })
        match t with
        | .ch p c => .next (raiseRec (partEvent s1 p .ringFault)
            { recBlank 0x46 3 3 with part := partByte (some p), detail := BitVec.ofNat 16 c.val, address := BitVec.ofNat 64 addr })
        | .nr q => .next (raiseRec (hstEvent s1 .ringFault)
            { recBlank 0x46 3 3 with detail := BitVec.ofNat 16 (8 + q.val), address := BitVec.ofNat 64 addr })
      else if bad then
        let rec_ := nextRecIndex s
        let (part, n) : Option PartId × Nat := match t with | .ch p c => (some p, c.val) | .nr q => (none, q.val)
        let s1 := hstEvent (raiseRec s { recBlank 0x40 3 3 with part := partByte part, detail := BitVec.ofNat 16 n }) .outCheck
        let s2 := match t with | .ch p c => modCh s1 p c.val (fun x => { x with errs := x.errs + 1 }) | .nr _ => s1
        .next (holdFreed (writeEntry s2 t ⟨1, errBody 0 8 rec_, 0, false⟩) t)
      else .next (holdFreed (writeEntry s t e) t)

/-- A write of a ring's control register: LOG2_SIZE from 6 to 16 and only while ENABLE is 0; ENABLE from 0 to 1 empties the
ring. -/
def ringCtl (r : Ring) (en arm : Bool) (log2 : Nat) : Ring :=
  { r with enable := en, arm := arm, log2 := if r.enable || log2 < 6 || 16 < log2 then r.log2 else log2,
           tail := if en && !r.enable then 0 else r.tail, head := if en && !r.enable then 0 else r.head }

/-- RING_ENABLE: the control register is written with ENABLE set. -/
def execRingEnable (t : RingId) (log2 : Nat) (arm : Bool) (s : State) : Out :=
  if ringExists s t then .next (modRing s t (fun r => ringCtl r true arm log2)) else .next s

/-- RING_ARM: the control register is written with ARM set, its other fields as they stand. -/
def execRingArm (t : RingId) (s : State) : Out :=
  if ringExists s t then .next (modRing s t (fun r => ringCtl r r.enable true r.log2)) else .next s

/-- RING_HEAD_WRITE: a write beyond the tail is ignored. -/
def execRingHeadWrite (t : RingId) (v : W32) (s : State) : Out :=
  if ringExists s t then
    .next (modRing s t (fun r => if (r.tail - v).toNat < 2 ^ 31 then { r with head := v } else r))
  else .next s

/-- RESTART: a STOPPED channel goes to OPEN with d := 0. -/
def execRestart (p : PartId) (c : Fin 8) (s : State) : Out :=
  if (chanRec s p c.val).isSome && (getCh s p c.val).stopped then
    .next (modCh s p c.val (fun x => { x with stopped := false, d := 0, marks := [] }))
  else .next s

/-- HPOST: MSG_ID for a channel that does not exist, RANGE, BUF_OWNER; waits for the program hold and for the outbound buffer (Table 3.4); the entry captures
DEADLINE_MISS and clears it (R151, R297). -/
def execHpost (k : CoreId) (f : FieldsS) (s : State) : Out :=
  .next (runInstr k (fun c s =>
    let a := (gOf s k c f.b).toNat
    let ch := f.imm.toNat
    let exists_ := match partOfCore s k with | some p => (chanRec s p ch).isSome | none => false
    match firstFault [(!okS f false true false false 7, .illegal), (!exists_, .msgId), (!opbufIn a 64, .range),
                      (bufForeign s k c a 64, .bufOwner)] with
    | some e => iFault s e
    | none =>
      if !(hpostRoom s k ch && outRoom s k 64) then .wait s (.hpost ch)
      else
        match readLocal s k .opbuf a 64, partOfCore s k with
        | (s', some bs), some p =>
          let e : HeldEntry := ⟨0, (bs.drop 16).take 44, (getCtx s' k c).dlMiss, true⟩
          .done (modCtx (holdEntry s' p ch e) k c (fun x => { x with dlMiss := 0 }))
        | (s', _), _ => .fault s' .memUncorr 1 (BitVec.ofNat 64 a)) s)

/-! ### Function resets (R289) -/

/-- VF_FLR: ENABLE and ARM of the partition's channel rings clear. -/
def execVfFlr (p : PartId) (s : State) : Out :=
  .next (modPst (vectorsReset s (.vf p)) p (fun x => { x with ch := x.ch.map (fun y => { y with ring := { y.ring with enable := false, arm := false } }) }))

/-- PF_FLR: ENABLE and ARM of the notice rings clear. -/
def execPfFlr (s : State) : Out :=
  .next (modHst (vectorsReset s .pf) (fun h => { h with rings := h.rings.map (fun y => { y with ring := { y.ring with enable := false, arm := false } }) }))

/-! ### The aperture (R295, R301) -/

/-- The stack physical address of a BAR4 offset; none where the access ends with Unsupported Request. -/
def barAddr (s : State) (off : Nat) : Option Nat :=
  let a := (s.hst.barGib * 2 ^ 30 + off) % 2 ^ 39
  if !s.hst.barOn || 2 ^ 39 ≤ off || !(siteMask s).getLsbD (a / 2 ^ 36) || (0xFFC000000 ≤ a && a ≤ 0xFFFFFFFFF) then none else some a

/-- What an access that reaches no stack answers. One to an absent stack is a bus error, which a record names (R5, R34, Table 16.2). -/
def barRefuse (s : State) (off : Nat) : State :=
  let absent := s.hst.barOn && decide (off < 2 ^ 39) && !(siteMask s).getLsbD ((s.hst.barGib * 2 ^ 30 + off) % 2 ^ 39 / 2 ^ 36)
  respond (if absent then raiseRec s { recBlank 0x3D 3 3 with address := BitVec.ofNat 64 off } else s) .unsupported

/-- Bytes of BAR4 writes that wait at the stack controllers. -/
def barBuffered (s : State) : Nat :=
  (s.stks.toList.flatMap (fun t => t.units.map (fun u =>
    match u.src, u.write with | .bar4 .., some bs => bs.length | _, _ => 0))).foldl (· + ·) 0

/-- BAR4_READ: `len` bytes, at most 4,096; its units go to the stack controller. -/
def execBar4Read (off len : Nat) (s : State) : Out :=
  match barAddr s off with
  | none => .next (barRefuse s off)
  | some a =>
    let id := s.hst.nextId
    let (s1, n) := submitUnits (modHst s (fun h => { h with nextId := id + 1 })) none a len (fun o => .bar4 id o) none
    if n = 0 then .next (respond s1 (.bar4 [] false))
    else .next (modHst s1 (fun h => { h with reads := h.reads ++ [⟨id, a, List.replicate len 0, n, false⟩] }))

/-- BAR4_WRITE: dropped while the buffer holds more than 3 MiB. -/
def execBar4Write (off : Nat) (data : List Byte) (s : State) : Out :=
  match barAddr s off with
  | none => .next (barRefuse s off)
  | some a =>
    if 0x300000 < barBuffered s then .next (hstEvent (modHst s (fun h => { h with drops := h.drops + 1 })) .drop)
    else
      let id := s.hst.nextId
      .next (submitUnits (modHst s (fun h => { h with nextId := id + 1 })) none a data.length (fun o => .bar4 id o) (some data)).1

/-- BAR4_ENABLE: HST_BAR4_CTL.ENABLE is set, and EVER with it. -/
def execBar4Enable (s : State) : Out := .next (modHst s (fun h => { h with barOn := true, barEver := true }))

/-! ### Snapshots (R305) -/

/-- SNAP: the meters of a partition that exists are copied. -/
def execSnap (p : PartId) (s : State) : Out :=
  if (getPart s p).live then .next (modPst s p (fun x => { x with snap := vget s.meters p, snaps := x.snaps + 1 })) else .next s

end Sys2Proof.Machine
end

