-- ==== Sys2Proof/Machine/MsgCmds.lean ====
section
/-!
DEFINITION. Message frames at their ends: MSG, ACK, REFUSE, RESUME, ERROR and the misroute (10_mesh_sync_reduction.md,
R244, R247, R248).
-/

namespace Sys2Proof.Machine

/-! ### Guests as ends (17_package.md, R412) -/

/-- The window by which a core's message to a site leaves: KIND 0 or 2, with the sender's core; a KIND 2 window is closed while
no certificate is accepted. -/
def sendWindow (s : State) (p : PartId) (pcn g : Nat) : Option GuestWinRec :=
  (getPart s p).guestWins.find? (fun w => w.site = g && w.core = pcn && (w.kind = 0 || (w.kind = 2 && (vget s.sec.cert (Fin.ofNat 2 g)).isSome)))

/-- MBOX_RECV: a core's message reaches the guest, or its sender receives ERROR. -/
def guestRecv (s : State) (k : CoreId) (c : CtxId) (g id cls : Nat) (tag : BitVec 16) (payload : List Byte) : State :=
  let w := (partOfCore s k).bind (fun p => sendWindow s p (pcnOf (maskOf s p) k) g)
  match w, (getGuest s g).st with
  | some w, .admitted => meshSend (toGuest s g ⟨2, w.window, cls, tag, 0, 0, payload⟩) ⟨.guest g, .ctx k c, 0, .ack id⟩
  | _, _ => meshSend s ⟨.guest g, .ctx k c, 0, .error id⟩

/-- W_GUEST of a partition. -/
def wGuest (s : State) (p : Nat) : Nat := (getPart s (Fin.ofNat 32 p)).weights.getD 3 1

/-- The partition has a message or read data that waits to go out to the site. -/
def guestWork (s : State) (g p : Nat) : Bool :=
  (List.range s.mesh.length).any (fun j =>
    match arrives s j with
    | some ⟨.ctx k _, .guest h, _, .msg ..⟩ => h = g && partOfCore s k == some (Fin.ofNat 32 p)
    | _ => false) ||
  (getGuest s g).dma.any (fun d => d.read && d.waits = 0 && d.part.val = p)

/-- Outbound traffic to a site is granted among partitions by W_GUEST (R18, R412), one frame a grant: the state after the grant,
where it goes to the partition. -/
def guestTurn (s : State) (g : Nat) (p : PartId) : Option State :=
  match wrrPick 32 (guestWork s g) (wGuest s) (getGuest s g).rr with
  | some r => if r.1 = p.val then some (modGuest s g (fun x => { x with rr := r })) else none
  | none => none

/-- An ACK or ERROR for a message that the hub keeps for a guest. -/
def guestAck (s : State) (g id : Nat) : State := modGuest s g (fun x => { x with msgs := x.msgs.filter (fun m => m.id != id) })

/-- The pair of a receiver and a class at a site: whether the site has stopped sending to it, and its epoch. -/
def guestPair (x : Guest) (p : PartId) (dst : BitVec 16) (cls : Nat) : Bool × Bool :=
  ((x.stops.find? (fun e => e.1 = p && e.2.1 = dst && e.2.2.1 = cls)).map (fun e => (e.2.2.2.1, e.2.2.2.2))).getD (false, false)
def setGuestPair (x : Guest) (p : PartId) (dst : BitVec 16) (cls : Nat) (v : Bool × Bool) : Guest :=
  { x with stops := (p, dst, cls, v.1, v.2) :: x.stops.filter (fun e => !(e.1 = p && e.2.1 = dst && e.2.2.1 = cls)) }

/-- The hub sends a kept message of a guest, unless its receiver refuses. -/
def guestForward (s : State) (g : Nat) (m : GuestMsg) : State :=
  let q := guestPair (getGuest s g) m.part m.dst (inboxClass m.cls)
  match q.1, endOfId s m.part m.dst with
  | false, some (.ctx k c) =>
    meshSend (modGuest s g (fun x => { x with msgs := updIf (fun y => y.id = m.id) (fun y => { y with sent := true }) x.msgs }))
      ⟨.guest g, .ctx k c, m.cls, .msg m.id (BitVec.ofNat 16 (0x410 + g)) m.dst m.tag q.2 m.body⟩
  | _, _ => s

/-- A REFUSE: the site stops sending to that receiver in that class. -/
def guestRefuse (s : State) (g id cls : Nat) : State :=
  match (getGuest s g).msgs.find? (fun m => m.id = id) with
  | none => s
  | some m => modGuest s g (fun x => setGuestPair x m.part m.dst cls (true, (guestPair x m.part m.dst cls).2))

/-- A RESUME: every message of the pair that is not acknowledged goes out again, in order. -/
def guestResume (s : State) (k : CoreId) (c : CtxId) (g cls : Nat) : State :=
  match partOfCore s k with
  | none => s
  | some p =>
    let dst := BitVec.ofNat 16 (pcnOf (maskOf s p) k * 4 + c.val)
    let s1 := modGuest s g (fun x => setGuestPair x p dst cls (false, !(guestPair x p dst cls).2))
    ((getGuest s1 g).msgs.filter (fun m => m.part = p && m.dst = dst && inboxClass m.cls = cls)).foldl (fun a m => guestForward a g m) s1

/-- MSG_ARRIVE: a MSG for a guest site goes out at its partition's grant; a MSG for a context is admitted, refused or discarded; in
a partition under reset, or on a severed tile, it is discarded and its sender receives an ERROR frame (R383, R389). -/
def execMsgArrive (j : Nat) (s : State) : Out :=
  match arrives s j with
  | some ⟨src, .ctx k c, cls, .msg id sender _ tag epoch payload⟩ =>
    let s1 := takeFrame s j
    if absorbed s (.ctx k c) || cutFrom s (.ctx k c) src then .next (meshSend s1 ⟨.ctx k c, src, 0, .error id⟩)
    else .next (admitMsg s1 k c src id sender tag (inboxClass cls) epoch payload)
  | some ⟨.ctx k c, .guest g, cls, .msg id _ _ tag _ payload⟩ =>
    match partOfCore s k with
    | none => .next (guestRecv (takeFrame s j) k c g id cls tag payload)
    | some p =>
      match guestTurn s g p with
      | none => .next s
      | some s1 => .next (guestRecv (takeFrame s1 j) k c g id cls tag payload)
  | _ => .next s

/-- ACK: the message's space in the sender's outbound buffer is freed. -/
def execAck (j : Nat) (s : State) : Out :=
  match arrives s j with
  | some ⟨_, .ctx k _, _, .ack id⟩ => .next (freeMsg (takeFrame s j) k id)
  | some ⟨_, .host p c, _, .ack id⟩ => .next (hostAck (takeFrame s j) p c id)
  | some ⟨_, .guest g, _, .ack id⟩ => .next (guestAck (takeFrame s j) g id)
  | _ => .next s

/-- REFUSE: the sender stops sending to that receiver in that class. -/
def execRefuse (j : Nat) (s : State) : Out :=
  match arrives s j with
  | some ⟨_, .ctx k c, _, .refuse id cls _⟩ =>
    match (getCore s k).outbox.find? (fun m => m.id = id) with
    | none => .next (takeFrame s j)
    | some m => .next (modCore (takeFrame s j) k (fun x => modPair x c m.dst cls (fun p => { p with stopped := true })))
  | some ⟨_, .host p c, _, .refuse id _ _⟩ => .next (hostRefuse (takeFrame s j) p c id)
  | some ⟨_, .guest g, _, .refuse id cls _⟩ => .next (guestRefuse (takeFrame s j) g id cls)
  | _ => .next s

/-- RESUME: the sender inverts its epoch and sends again, in order, every message of the pair not acknowledged. -/
def resumePair (s : State) (k : CoreId) (c : CtxId) (dst : BitVec 16) (cls : Nat) : State :=
  let s1 := modCore s k (fun x => modPair x c dst cls (fun p => { p with stopped := false, epoch := !p.epoch }))
  ((getCore s1 k).outbox.filter (fun m => m.ctx = c && m.dst = dst && m.cls = cls)).foldl (fun a m => injectMsg a k m) s1

/-- The message ID by which a partition's context names an end. -/
def idOfEnd (s : State) (p : PartId) : End → Option (BitVec 16)
  | .ctx k c => some (BitVec.ofNat 16 (pcnOf (maskOf s p) k * 4 + c.val))
  | .host _ n => some (BitVec.ofNat 16 (0x400 + n))
  | .guest n => some (BitVec.ofNat 16 (0x410 + n))
  | _ => none

def execResume (j : Nat) (s : State) : Out :=
  match arrives s j with
  | some ⟨src, .ctx k c, _, .resume cls⟩ =>
    match (partOfCore s k).bind (fun p => idOfEnd s p src) with
    | none => .next (takeFrame s j)
    | some dst => .next (resumePair (takeFrame s j) k c dst cls)
  | some ⟨_, .host p c, _, .resume _⟩ => .next (hostResume (takeFrame s j) p c)
  | some ⟨.ctx k c, .guest g, _, .resume cls⟩ => .next (guestResume (takeFrame s j) k c g cls)
  | _ => .next s

/-- A command that a core sent to a stack or link die ends with an error completion: a task fault of cause PEER_ERROR. -/
def cmdFailed (s : State) (k : CoreId) (c : CtxId) (toStack : Bool) (pc : BitVec 18) (t : Option Nat) : State :=
  let s1 := if toStack then modCtx s k c (fun x => { x with sprOut := x.sprOut - 1 }) else s
  taskOpEnd (opTaskFault s1 k c pc t 7 0) k t

/-- What an ERROR frame for number `id` ends at a core (R248, R383, R389): a stream request or a fetch of an ATTN, which completes with
PEER_ERROR, a thin command, which fails with it, or a message. -/
def errorEnds (s : State) (k : CoreId) (id : Nat) : State :=
  let m := getCore s k
  if m.reqs.any (fun r => r.id = id) then
    modCore s k (fun x => { x with reqs := updIf (fun r => r.id = id) (fun r => { r with waits := 0, err := 7 }) x.reqs })
  else
    match m.attn with
    | some a =>
      if a.fetches.any (fun f => f.id = id) then modAttn s k (fun x => { x with fetches := updIf (fun f => f.id = id) (fun f => { f with waits := 0, err := 7 }) x.fetches })
      else if a.thin.any (fun c => c.id = id) then thinReturned s k id [] (some 7)
      else freeMsg s k id
    | none => freeMsg s k id

/-- ERROR: the awaited request or message ends, with no resend. The spec gives the ERROR of a SYNC_WAIT no effect at its context,
which stays BLOCKED (DEDUCED, log 62). -/
def execError (j : Nat) (s : State) : Out :=
  match arrives s j with
  | some ⟨_, .ctx _ _, _, .waitError _⟩ => .next (takeFrame s j)
  | some ⟨_, .ctx k _, _, .error id⟩ => .next (errorEnds (takeFrame s j) k id)
  | some ⟨_, .host p c, _, .error id⟩ => .next (hostAck (takeFrame s j) p c id)
  | some ⟨_, .guest g, _, .error id⟩ => .next (guestAck (takeFrame s j) g id)
  | some ⟨.stack _, .ctx k c, _, .cmdError _ pc t⟩ => .next (cmdFailed (takeFrame s j) k c true pc t)
  | some ⟨.link _, .ctx k c, _, .cmdError _ pc t⟩ => .next (cmdFailed (takeFrame s j) k c false pc t)
  | _ => .next s

/-- The pending RESUME of a quarter that goes first: refusing pairs whose class has 4 KiB free, in ascending sender ID. -/
def nextResume (s : State) (k : CoreId) (c : CtxId) : Option RefMark :=
  ((getCore s k).marks.filter (fun m => m.ctx = c && m.refusing && 4096 ≤ quarterFree s k c m.cls)).foldl
    (fun b m =>
      match b with
      | none => some m
      | some x => if m.sender < x.sender || (m.sender = x.sender && m.cls < x.cls) then some m else some x) none

/-- Sends a RESUME and inverts the recorded epoch. -/
def sendResume (s : State) (k : CoreId) (m : RefMark) : State :=
  match (partOfCore s k).bind (fun p => endOfId s p m.sender) with
  | none => s
  | some d =>
    meshSend (modCore s k (fun x => setMark x { m with refusing := false, epoch := !m.epoch })) ⟨.ctx k m.ctx, d, 0, .resume m.cls⟩

/-- RESUME_SEND: in an Awake region. -/
def execResumeSend (k : CoreId) (c : CtxId) (s : State) : Out :=
  if (getRegion s (regionOf k)).power == .awake then
    match nextResume s k c with
    | none => .next s
    | some m => .next (sendResume s k m)
  else .next s

/-- A message between two ends is discarded at a router of tile `t`: it is counted and recorded with the regions of its header (R244). -/
def misrouted (s : State) (src dst : End) (t : Fin 4) : State :=
  let l := legsOf s src dst
  let s1 := modMeshTile s t.val (fun m => { m with evMis := true, misroutes := m.misroutes + 1 })
  raiseRec s1 { recBlank 0x3A 3 3 with
    part := partByte (framePart s src dst), die := BitVec.ofNat 8 t.val
    detail := BitVec.ofNat 16 (l.dstRegion * 256 + l.srcRegion) }

/-- What stands at the stacks of a core's request. -/
def unitOf (k : CoreId) (id : Nat) (u : StackUnit) : Bool :=
  match u.src with
  | .stream k' i _ => k' = k && i = id
  | .attn k' i _ => k' = k && i = id
  | _ => false

/-- The endpoint that a request of a core is on its way to: the stack that its units wait at, else the hub. -/
def requestEnd (s : State) (k : CoreId) (id : Nat) : End :=
  match (List.range 8).find? (fun n => (getStack s n).units.any (unitOf k id)) with
  | some n => .stack n
  | none => .hub

/-- The context whose request in flight has the number: of a stream or of an ATTN. -/
def requestCtx (s : State) (k : CoreId) (id : Nat) : Option CtxId :=
  match (getCore s k).reqs.find? (fun r => r.id = id) with
  | some r => (findXfer s k r.xfer).map (fun x => x.ctx)
  | none => (getCore s k).attn.bind (fun a => if a.fetches.any (fun f => f.id = id) then some a.op.ctx else none)

/-- MESH_MISROUTE: a router of tile `t` has no entry for the key of a frame in flight or of a MEM request. It is discarded, counted and
recorded, and a sender that awaits a reply receives ERROR (R244). -/
def execMeshMisroute (m : MeshRef) (t : Fin 4) (s : State) : Out :=
  match m with
  | .frame j =>
    match arrives s j with
    | none => .next s
    | some f =>
      let s2 := misrouted (dropFrame (countUpTo s f t.val) j) f.src f.dst t
      match f.body with
      | .msg id _ _ _ _ _ => .next (meshSend s2 ⟨f.dst, f.src, 0, .error id⟩)
      | .command _ id pc t => .next (meshSend s2 ⟨f.dst, f.src, 0, .cmdError id pc t⟩)
      | .thinCmd id _ _ _ => .next (meshSend s2 ⟨f.dst, f.src, 0, .error id⟩)
      | _ => .next (noteTaskAdd (waitFail s2 f) f)
  | .request k id =>
    match requestCtx s k id with
    | none => .next s
    | some c =>
      let dst := requestEnd s k id
      let s1 := { s with stks := s.stks.map (fun x => { x with units := x.units.filter (fun u => !unitOf k id u) }) }
      .next (meshSend (misrouted s1 (.ctx k c) dst t) ⟨dst, .ctx k c, 0, .error id⟩)

end Sys2Proof.Machine
end

