-- ==== Sys2Proof/Machine/Records.lean ====
section
/-!
DEFINITION. The fault log (16_faults.md, R369 to R371, R396): the hub writes the records that have been raised.
-/

namespace Sys2Proof.Machine

/-- The 32 bytes of a record (Table 16.1). -/
def recBytes (r : FaultRec) : List Byte :=
  leBytes 4 r.index.toNat ++
  [r.cls, BitVec.ofNat 8 (r.origin.toNat * 64 + r.handled.toNat * 16 + r.reset.toNat), r.part, r.die, r.region, r.core, r.context, r.seq] ++
  leBytes 2 r.optag.toNat ++ leBytes 2 r.detail.toNat ++ leBytes 4 r.iaddr.toNat ++ leBytes 8 r.address.toNat ++ leBytes 4 r.dseq.toNat

/-- Bits of FLT_EVENT, in their places. -/
inductive FltEv where
  | record | wrap | part | severed | oos
  deriving DecidableEq, Repr

def fltEvGet (f : Flt) : FltEv → Bool
  | .record => f.evRecord
  | .wrap => f.evWrap
  | .part => f.evPart
  | .severed => f.evSevered
  | .oos => f.evOos

def fltEvSet (f : Flt) (b : Bool) : FltEv → Flt
  | .record => { f with evRecord := b }
  | .wrap => { f with evWrap := b }
  | .part => { f with evPart := b }
  | .severed => { f with evSevered := b }
  | .oos => { f with evOos := b }

/-- Hardware sets a bit of FLT_EVENT; a bit that was clear raises vector 1 (R304). -/
def fltEvent (s : State) (e : FltEv) : State :=
  if fltEvGet s.flt e then s else irq (modFlt s (fun f => fltEvSet f true e)) .pf 1

/-- The channel whose sequence number a record of a partition carries (R371): the one whose HOST_WINDOW names the context, else
the lowest that exists. -/
def recChannel (s : State) (p : PartId) (r : FaultRec) : Option Nat :=
  let ws := (getPart s p).hostWins
  let named := ws.find? (fun w => r.context.getLsbD 2 && w.context = (r.context.toNat % 4) &&
    r.core.toNat < 128 && coreOfPcn (maskOf s p) w.core == some (Fin.ofNat 128 r.core.toNat))
  match named with
  | some w => some w.channel
  | none => ((List.range 8).find? (fun c => ws.any (fun w => w.channel = c)))

/-- The partition that a record names. -/
def recPart (r : FaultRec) : Option PartId := if h : r.part.toNat < 32 then some ⟨r.part.toNat, h⟩ else none

/-- The record with SEQ and DSEQ filled in. -/
def recSeq (s : State) (r : FaultRec) : FaultRec :=
  match recPart r with
  | none => { r with seq := 8, dseq := (vget s.hst.rings 0).ring.issued }
  | some p =>
    match recChannel s p r with
    | some c => { r with seq := BitVec.ofNat 8 (c + 8), dseq := (getCh s p c).ring.issued }
    | none => r

/-- The index after another (R370). -/
def nextIndex (i : W32) : W32 := if i = 0xFFFFFFFE then 0 else i + 1

/-- The hub writes one record. -/
def writeRec (s : State) (r : FaultRec) : State :=
  let q := recSeq s r
  let n := s.flt.sinceWrap + 1
  let s1 := modFlt s (fun f =>
    { f with waiting := f.waiting.drop 1, log := (f.log ++ [q]).drop (f.log.length + 1 - 4096), head := nextIndex f.head, sinceWrap := n })
  let s2 := fltEvent s1 .record
  let s3 := if n = 4096 then fltEvent s2 .wrap else s2
  let s4 := match recPart q with
    | none => s3
    | some p =>
      noticePf (partEvent (modFlt s3 (fun f => { f with partUnserviced := f.partUnserviced ||| BitVec.ofNat 32 (2 ^ p.val) })) p .fault) 3
        (noticeBody 3 q.die.toNat 0 false 0 p.val q.index)
  let s5 := if q.region.toNat < 32 then modRegion s4 (Fin.ofNat 32 q.region.toNat) (fun g => { g with lastRec := recBytes q }) else s4
  mgmtEvent s5 (.record q.index)

/-- Every record that waits is written: what a unit does that must have written its record before a chip reset (R377, R378). -/
def writeAll (s : State) : State := s.flt.waiting.foldl writeRec s

/-- FAULT_RECORD_WRITE: the oldest record that waits is written. -/
def execFaultRecordWrite (s : State) : Out :=
  match s.flt.waiting with
  | [] => .next s
  | r :: _ => .next (writeRec s r)

/-- The record that an index names, while it is in the log. -/
def findRec (s : State) (i : W32) : Option FaultRec := s.flt.log.find? (fun r => r.index = i)

end Sys2Proof.Machine
end

