-- ==== Sys2Proof/Machine/Reduce.lean ====
section
/-!
DEFINITION. COL_ISSUE (11_chip_links.md, R277 to R283) and the reduction nodes
(10_mesh_sync_reduction.md, R255 to R259).
-/

namespace Sys2Proof.Machine

/-! ### COL_ISSUE -/

def colTree (b : List Byte) : Nat := blkField b 2 1
def colSync (b : List Byte) : W32 := BitVec.ofNat 32 (blkField b 4 4)
def colSrc (b : List Byte) : Nat := blkField b 24 8
def colDst (b : List Byte) : Nat := blkField b 32 8
def colSrcSpace (b : List Byte) : Space := if (b.getD 3 0).getLsbD 0 then .near else .opbuf
def colDstSpace (b : List Byte) : Space := if (b.getD 3 0).getLsbD 1 then .near else .opbuf

/-- The block is ILLEGAL at issue (R279), for a partition of `c` cores with the record of the tree, if it has one. -/
def colIllegal (b : List Byte) (c : Nat) (r : Option TreeRec) : Bool :=
  let op := colOp b
  let f := colFmt b
  let n := colCount b
  op = 0 || 5 < op || 4 < f || (if op = 1 then f = 4 else if op = 2 then f = 0 || f = 4 else f != 4) ||
  colRedop b = 3 || (f = 0 && colRedop b != 0) || 16 ≤ blkField b 3 1 || 8 ≤ colTree b ||
  n = 0 || (if f = 0 then 4096 < n else if f = 4 then 2 ^ 24 < n else 2 ^ 20 < n) ||
  (op != 4 && (colRootRank b != 0 || colRootCore b != 0)) ||
  (if f = 0 then colAnchor b < -511 || 511 < colAnchor b else colAnchor b != 0) ||
  blkField b 20 4 != 0 || (b.drop 40).any (· != 0) || colSrc b % 64 != 0 || colDst b % 64 != 0 ||
  (match r with
   | none => true
   | some t => (op = 4 && (t.group ≤ colRootRank b || c ≤ colRootCore b)) || (op = 2 && n % t.group != 0))

/-- Bytes that the core reads at SRC: every core but for BROADCAST, where only the source core reads (Table 11.8). -/
def colSource (b : List Byte) (r : TreeRec) (pcn : Nat) : Nat :=
  if colOp b ≤ 2 then colV b
  else if colOp b = 3 then colB b
  else if colOp b = 4 then (if r.rank = colRootRank b && pcn = colRootCore b then colB b else 0)
  else r.group * colB b

/-- The chunks that a core contributes to an operation, from its source bytes. A core with nothing to send contributes an empty
chunk, which carries its block. -/
def colChunks (b : List Byte) (r : TreeRec) (op pcn loc : Nat) (src : List Byte) : List RedChunk :=
  let mk := fun (dst k : Nat) (d : List Byte) => (⟨colTree b, op, true, b, pcn, r.rank, dst, k, 0, loc, false, d⟩ : RedChunk)
  if colOp b ≤ 2 then
    let v := padUnit src
    (List.range (chunksOf v.length)).map (fun k => mk 0 k (chunkAt v k))
  else if src.isEmpty then [mk 0 0 []]
  else if colOp b = 5 then
    (List.range r.group).flatMap (fun j =>
      let d := bytesAt src (j * colB b) (colB b)
      (List.range (chunksOf d.length)).map (fun k => mk j k (chunkAt d k)))
  else (List.range (chunksOf src.length)).map (fun k => mk 0 k (chunkAt src k))

/-- Where a result chunk goes in the result of its command, and its bytes (Table 11.8). -/
def resultPlace (b : List Byte) (g n : Nat) (c : RedChunk) : Nat × Nat :=
  let o := 4096 * c.chunk
  let part := fun (base len : Nat) => (base + o, min 4096 (len - o))
  if colOp b = 1 then part 0 (colV b)
  else if colOp b = 2 then part 0 (colV b / g)
  else if colOp b = 3 then part ((c.rank * n + c.origin) * colB b) (colB b)
  else if colOp b = 4 then part 0 (colB b)
  else part (c.rank * colB b) (colB b)

/-- A command of a core ends (R283): 1 is added to DONE_SYNC, or the operation has failed. -/
def colEnd (s : State) (k : CoreId) (m : ColCmd) (failed : Bool) : State :=
  let s1 := modCore s k (fun x => { x with cols := x.cols.filter (fun y => !(y.tree = m.tree && y.op = m.op)) })
  if failed then taskOpEnd (opTaskFault s1 k m.ctx m.pc m.task (if m.poison then 4 else 7) 0) k m.task
  else
    let h := colSync m.block
    taskOpEnd (if h = 0xFFFFFFFF then s1 else sendSyncTo s1 k m.ctx h (fun o => .syncAdd o 1)) k m.task

/-- A result chunk of a command of the core is written at DST, the last one completing it, or its operation has failed. -/
def coreResult (s : State) (k : CoreId) (c : RedChunk) : State :=
  match (getCore s k).cols.find? (fun m => m.tree = c.tree && m.op = c.op), partOfCore s k with
  | some m, some p =>
    if c.fail then colEnd s k m true
    else
      let g := ((treeRec s p c.tree).map (fun r => r.group)).getD 1
      let (o, n) := resultPlace m.block g (4 * regionCount (maskOf s p)) c
      let s2 := writeLocal s k (colDstSpace m.block) (colDst m.block + o) (c.data.take n)
      if m.left ≤ n then colEnd s2 k m false
      else modCore s2 k (fun x => { x with cols := updIf (fun y => y.tree = c.tree && y.op = c.op) (fun y => { y with left := y.left - n }) x.cols })
  | _, _ => s

/-- A command takes the result chunks that came before it. -/
def takeEarly (s : State) (k : CoreId) (tree op : Nat) : State :=
  let mine := fun (c : RedChunk) => c.tree = tree && c.op = op
  ((getCore s k).early.filter mine).foldl (fun a c => coreResult a k c)
    (modCore s k (fun x => { x with early := x.early.filter (fun c => !mine c) }))

/-- A checked command enters the on-chip tree (R281 step 1): its number is the next of its tree, its source bytes are read, and
its chunks go to the node of its region. They are metered as they are contributed (R259). -/
def colSend (s : State) (k : CoreId) (c : CtxId) (b : List Byte) (p : PartId) (r : TreeRec) (t : Option Nat) : IRes :=
  let m := maskOf s p
  let tree := colTree b
  let op := tget 0 (getCore s k).colSeq tree + 1
  let n := colSource b r (corePcn s k)
  let s0 := taskOpBegin s k t
  let (s1, d) := if n = 0 then (s0, some []) else readLocal s0 k (colSrcSpace b) (colSrc b) n
  let cmd : ColCmd := ⟨c, tree, op, b, (getCtx s k c).pc, t, colResult b r.group (4 * regionCount m), d.isNone⟩
  let s2 := modCore s1 k (fun x => { x with cols := x.cols ++ [cmd], colSeq := tset x.colSeq tree op })
  let cs := match d with
    | some bs => colChunks b r op (corePcn s k) (localOf k) bs
    | none => [⟨tree, op, true, b, corePcn s k, r.rank, 0, 0, 0, localOf k, true, []⟩]
  .doneThen (cs.foldl (fun a x => addMeter (meshSend a ⟨.ctx k c, .red (regionOf k), 2, .red x⟩) p 9 x.data.length) s2)
    (fun a => takeEarly a k tree op)

/-- COL_ISSUE: the word, then the block's offset, then the faults of its contents. -/
def execColIssue (k : CoreId) (f : FieldsS) (s : State) : Out :=
  .next (runInstr k (fun c s =>
    let a := (gOf s k c f.a).toNat
    match firstFault [(!okS f true false false false 0, .illegal), (a % 64 != 0, .align), (!opbufIn a 64, .range)] with
    | some e => iFault s e
    | none =>
      match readLocal s k .opbuf a 64, partOfCore s k with
      | (s', none), _ => .fault s' .memUncorr 1 (BitVec.ofNat 64 a)
      | (s', some b), some p =>
        let r := treeRec s' p (colTree b)
        let n := 4 * regionCount (maskOf s' p)
        let h := (colSync b).setWidth 64
        let sync := colSync b != 0xFFFFFFFF
        let src := (r.map (fun t => colSource b t (corePcn s' k))).getD 0
        let dst := (r.map (fun t => colResult b t.group n)).getD 0
        let beyond := fun (sp : Space) (o len : Nat) => len != 0 && decide (spaceSize sp < o + len)
        let foreign := fun (sp : Space) (o len : Nat) => sp == .opbuf && bufForeign s' k c o len
        match firstFault [(colIllegal b n r, .illegal),
                          (beyond (colSrcSpace b) (colSrc b) src || beyond (colDstSpace b) (colDst b) dst || (sync && handleBad s' k h), .range),
                          (sync && handleForeign s' k h, .syncOwner),
                          (bufForeign s' k c a 64 || foreign (colSrcSpace b) (colSrc b) src || foreign (colDstSpace b) (colDst b) dst, .bufOwner)] with
        | some e => iFault s' e
        | none =>
          if !colRoom s' k (colTree b) then .wait s' (.colIssue (colTree b))
          else
            match issueTask s' k c, r with
            | some t, some q => colSend s' k c b p q t
            | _, _ => .done s'
      | (s', some _), none => .done s') s)

/-! ### Chunks at a node (R256 to R258) -/

def getRed (s : State) (r : RegionId) : RedNode := vget s.red r

/-- Parts at level `l` of `n` regions. -/
def partsAt (n l : Nat) : Nat := (n + 2 ^ l - 1) / 2 ^ l

/-- The chip's part leaves the root node: to the home engine, or, without one, round at once as the result (R281). -/
def rootUp (s : State) (r : RegionId) (p : PartId) (c : RedChunk) : State :=
  match (treeRec s p c.tree).bind homeDie with
  | some d => meshSend s ⟨.red r, .link d, 2, .red c⟩
  | none => engOwn s p c.tree c

/-- A chunk moves from its node to the parent node, or leaves the root node. -/
def toParent (s : State) (r : RegionId) (p : PartId) (parent : Nat) (c : RedChunk) : State :=
  match regionOfRank (maskOf s p) parent with
  | some r' => meshSend s ⟨.red r, .red r', 2, .red c⟩
  | none => s

/-- The rank of the node that a node's parts go to. -/
def parentRank (q : Nat) : Nat := q - 2 ^ (lowBit (BitVec.ofNat 6 q))

/-- A part of level `stage − 2` settles: an odd one goes to the node of its left part, an unpaired last one rises, the one that
remains is the chip's. -/
def redSettle (s : State) (r : RegionId) (p : PartId) (c : RedChunk) : Nat → State
  | 0 => s
  | fuel + 1 =>
    let l := c.stage - 2
    let n := partsAt (regionCount (maskOf s p)) l
    if n ≤ 1 then rootUp s r p c
    else if c.idx % 2 = 1 then toParent s r p ((c.idx - 1) * 2 ^ l) c
    else if n ≤ c.idx + 1 then redSettle s r p { c with stage := c.stage + 1, idx := c.idx / 2 } fuel
    else modRed s r (fun x => { x with held := x.held ++ [c] })

/-- A failure at a node, or from below it: the node forgets the operation and the failure goes up. -/
def nodeFail (s : State) (r : RegionId) (p : PartId) (c : RedChunk) : State :=
  let s1 := modRed s r (fun x => nodeDrop x c.tree c.op)
  let f := { c with fail := true, data := [], up := true }
  let q := rankOfRegion (maskOf s p) r
  if q = 0 then rootUp s1 r p f else toParent s1 r p (parentRank q) f

/-- The core whose chunk the node grants next, among those that have one it has room for (R258). -/
def redWeight (s : State) (p : PartId) (r : RegionId) (l : Nat) : Nat :=
  match (getPart s p).arbs.find? (fun a => a.region = r.val) with
  | some a => a.wRed.getD l 1
  | none => 1

/-- The node has room for a chunk of its input and tree: 2 of them (R258). A chunk that does not combine, or that reports a failure, comes
into that room too, and leaves it at once. -/
def redRoom (n : RedNode) (c : RedChunk) : Bool :=
  decide ((n.held.filter (fun x => x.tree = c.tree && x.stage = c.stage && x.idx = c.idx)).length < 2)

/-- The local indices of the cores that have a chunk at the node for which there is room. -/
def redAsks (s : State) (r : RegionId) : List Nat :=
  (List.range s.mesh.length).filterMap (fun j =>
    match arrives s j with
    | some ⟨.ctx k _, .red r', _, .red c⟩ => if r' = r && c.up && redRoom (getRed s r) c then some (localOf k) else none
    | _ => none)

/-- The contributions to a reduction disagree (R257): RED_NODE_EVENT.MISMATCH is set at the root, and the root's region writes one fault
record for the operation. -/
def redMismatch (s : State) (p : PartId) (tree op : Nat) : State :=
  let r := rootRegion s p
  let n := getRed s r
  if n.told.contains (tree, op) then s
  else
    raiseRec (modRed s r (fun y =>
      { y with evMismatch := true, told := (tree, op) :: y.told.filter (fun z => !(z.1 = tree && z.2 + 16 ≤ op)) })) (recRegion s r 0x26 2 2)

/-- A chunk enters a node. -/
def nodeTake (s : State) (r : RegionId) (p : PartId) (c : RedChunk) : State :=
  let n := getRed s r
  let cores := 4 * regionCount (maskOf s p)
  if n.dead.contains (c.tree, c.op) then s
  else if c.fail then nodeFail s r p c
  else
    match n.seen.find? (fun x => x.1 = c.tree && x.2.1 = c.op) with
    | some x => if colDesc x.2.2 cores ≠ colDesc c.block cores then
        nodeFail (if colReduces c.block || colReduces x.2.2 then redMismatch s p c.tree c.op else s) r p c
      else go s
    | none => go (modRed s r (fun y => { y with seen := (c.tree, c.op, c.block) :: y.seen.filter (fun z => !(z.1 = c.tree && z.2.1 + 16 ≤ c.op)) }))
where
  go (s : State) : State :=
    if colReduces c.block then modRed s r (fun x => { x with held := x.held ++ [c] })
    else
      let q := rankOfRegion (maskOf s p) r
      if q = 0 then rootUp s r p c else toParent s r p (parentRank q) c

/-- A collective of a partition that depends on a SEVERED tile fails (R283, R389): the commands of the cores on the other tiles end,
whether or not the failure can still reach them through the nodes. -/
def colSevered (s : State) (p : PartId) (tree op : Nat) : State :=
  ((coresOfMask (maskOf s p)).filter (fun k => !dieDown s (dieTile (tileOfCore k)))).foldl (fun a k =>
    match (getCore a k).cols.find? (fun m => m.tree = tree && m.op = op) with
    | some m => colEnd a k m true
    | none => a) (engFail s p tree op none)

/-- The collectives of partitions that depend on a tile that has become SEVERED fail; the records of their cores come by die, region, core
and context (R371). -/
def colsSevered (s : State) (ps : List PartId) : State :=
  let s1 := ps.foldl (fun a p =>
    (((coresOfMask (maskOf s p)).flatMap (fun k => (getCore s k).cols.map (fun m => (m.tree, m.op)))).eraseDups).foldl
      (fun b e => engFail b p e.1 e.2 none) a) s
  ((coresByDie.filter (fun k => ps.any (fun p => partOfCore s k == some p) && !dieDown s (dieTile (tileOfCore k))))).foldl (fun a k =>
    (List.finRange 4).foldl (fun b c => ((getCore b k).cols.filter (fun m => m.ctx = c)).foldl (fun x m => colEnd x k m true) b) a) s1

/-- A result chunk reaches a core, which takes it in every state (R249): its bytes are written at DST, or its operation has failed. A
chunk of a command that the core has not issued yet is kept until it is (DEDUCED, log 37). -/
def coreTake (s : State) (j : Nat) (k : CoreId) (c : RedChunk) : State :=
  let s1 := takeFrame s j
  if (getCore s k).cols.any (fun m => m.tree = c.tree && m.op = c.op) then coreResult s1 k c
  else if c.op ≤ tget 0 (getCore s k).colSeq c.tree then s1
  else modCore s1 k (fun x => { x with early := x.early ++ [c] })

/-- RED_CHUNK_ARRIVE: the frame at place `j` carries a RED chunk to a node, a home engine or a core. -/
def execRedChunkArrive (j : Nat) (s : State) : Out :=
  match arrives s j with
  | some ⟨src, .red r, _, .red c⟩ =>
    match partOfRegion s r with
    | none => .next (takeFrame s j)
    | some p =>
      if absorbed s (.red r) then .next (takeFrame s j)
      else if cutFrom s (.red r) src then .next ((if c.up then (fun a => colSevered a p c.tree c.op) else id) (takeFrame s j))
      else if !c.up then .next (nodeDown (takeFrame s j) r p c)
      else if !redRoom (getRed s r) c then .next s
      else
        match src with
        | .ctx k _ =>
          let asks := redAsks s r
          match wrrPick 4 (fun l => asks.contains l) (redWeight s p r) (getRed s r).rr with
          | none => .next s
          | some rr =>
            if rr.1 ≠ localOf k then .next s
            else .next (nodeTake (modRed (takeFrame s j) r (fun x => { x with rr := rr })) r p c)
        | _ => .next (nodeTake (takeFrame s j) r p c)
  | some ⟨.red r, .link _, _, .red c⟩ =>
    match partOfRegion s r with
    | none => .next (takeFrame s j)
    | some p => .next (engOwn (takeFrame s j) p c.tree c)
  | some ⟨_, .ctx k cx, _, .red c⟩ => if absorbed s (.ctx k cx) then .next (takeFrame s j) else .next (coreTake s j k c)
  | _ => .next s

/-- The stage and place of a combination's result: two pairs of cores make the part of the region's rank. -/
def redResult (q : Nat) (c : RedChunk) : Nat × Nat := if c.stage = 1 then (2, q) else (c.stage + 1, c.idx / 2)

/-- RED_COMBINE: the `i`-th chunk that the node holds is a left operand and the node holds the chunk of its right one. -/
def execRedCombine (r : RegionId) (i : Nat) (s : State) : Out :=
  let n := getRed s r
  match n.held[i]?, partOfRegion s r with
  | some a, some p =>
    let same := fun (idx : Nat) (x : RedChunk) => x.tree = a.tree && x.op = a.op && x.stage = a.stage && x.idx = idx
    match n.held.find? (same a.idx), n.held.find? (same (a.idx + 1)) with
    | some l, some w =>
      if a.idx % 2 ≠ 0 || l ≠ a || w.chunk ≠ a.chunk || partResetting s p then .next s
      else
        let d := colDesc a.block (4 * regionCount (maskOf s p))
        let z := combChunk d (4096 * a.chunk) a.data w.data
        let (st, ix) := redResult (rankOfRegion (maskOf s p) r) a
        let key := (a.tree, a.op, st, ix)
        let ovf := z.2 || n.ovf.contains key
        let hd := hasHeader d a.chunk z.1
        let c : RedChunk := { a with stage := st, idx := ix, data := if ovf && hd then setOvf d a.chunk z.1 else z.1 }
        let s1 := modRed s r (fun x =>
          { x with held := (x.held.erase a).erase w, ops := x.ops + 1, bytes := x.bytes + BitVec.ofNat 64 z.1.length,
                   ovf := if ovf && !hd then key :: x.ovf.filter (· != key) else x.ovf.filter (· != key) })
        .next (if st < 2 then modRed s1 r (fun x => { x with held := x.held ++ [c] }) else redSettle s1 r p c 8)
    | _, _ => .next s
  | _, _ => .next s

end Sys2Proof.Machine
end

