-- ==== Sys2Proof/Machine/Crypto.lean ====
section
/-!
DEFINITION. SHAKE256 (FIPS 202) and Ed448 with a context string (RFC 8032), as 13_trust.md, R315 and R316, uses them.
-/

namespace Sys2Proof.Machine

/-! ### SHAKE256 -/

/-- The 25 lanes of the sponge, the lane at (x, y) at place x + 5y. -/
abbrev Keccak := List (BitVec 64)

/-- The walk of π from (x, y): each step's place of origin, its place of arrival and the turn that ρ gives the lane,
which grows by t + 1 at step t (FIPS 202, 3.2.2 and 3.2.3). -/
def keccakWalk : (steps t turn x y : Nat) → List (Nat × Nat × Nat)
  | 0, _, _, _, _ => []
  | k + 1, t, turn, x, y =>
    let y' := (2 * x + 3 * y) % 5
    (x + 5 * y, y + 5 * y', turn + t) :: keccakWalk k (t + 1) (turn + t) y y'

/-- The 24 moves of ρ and π; the lane at (0, 0) neither moves nor turns. -/
def keccakMoves : List (Nat × Nat × Nat) := keccakWalk 24 1 0 1 0

/-- One step of the shift register of ι (FIPS 202, algorithm 5), its newest bit at bit 0. -/
def iotaNext (r : Nat) : Nat := if r.testBit 7 then (2 * r) ^^^ 0x171 else 2 * r

/-- The constant of a round from the register: the bit of step j stands at bit 2^j − 1, for j of 0 to 6. -/
def iotaWord : (j r : Nat) → Nat
  | 0, _ => 0
  | k + 1, r => (r % 2) * 2 ^ (2 ^ (6 - k) - 1) + iotaWord k (iotaNext r)

/-- The register seven steps on, where the next round's constant starts. -/
def iotaRound (r : Nat) : Nat := iotaNext (iotaNext (iotaNext (iotaNext (iotaNext (iotaNext (iotaNext r))))))

/-- θ: each lane takes the parities of the column before and of the column after, that one turned by 1. -/
def thetaMix (s : Keccak) : Keccak :=
  let column (x : Nat) : BitVec 64 := ((s.drop (x % 5)).zipIdx.filter (fun e => e.2 % 5 = 0)).foldl (fun b e => b ^^^ e.1) 0
  let parity := [column 0, column 1, column 2, column 3, column 4]
  s.mapIdx (fun i l => (l ^^^ parity.getD ((i + 4) % 5) 0) ^^^ (parity.getD ((i + 1) % 5) 0).rotateLeft 1)

/-- ρ and π: every lane moves along the walk and turns. -/
def walkMix (s : Keccak) : Keccak :=
  keccakMoves.foldl (fun out m => out.set m.2.1 ((s.getD m.1 0).rotateLeft (m.2.2 % 64))) s

/-- χ on one row of five lanes. -/
def chiRow (r : List (BitVec 64)) : List (BitVec 64) :=
  r.mapIdx (fun x l => l ^^^ (r.getD ((x + 2) % 5) 0 &&& ~~~ r.getD ((x + 1) % 5) 0))

/-- χ, row after row. -/
def chiMix : (rows : Nat) → Keccak → Keccak
  | 0, _ => []
  | k + 1, s => chiRow (s.take 5) ++ chiMix k (s.drop 5)

/-- The rounds that are left, with the register of ι at the first of them. -/
def keccakRounds : (left r : Nat) → Keccak → Keccak
  | 0, _, s => s
  | k + 1, r, s =>
    keccakRounds k (iotaRound r) ((chiMix 5 (walkMix (thetaMix s))).modifyHead (· ^^^ BitVec.ofNat 64 (iotaWord 7 r)))

/-- KECCAK-f[1600]: 24 rounds from the register's start. -/
def keccakF (s : Keccak) : Keccak := keccakRounds 24 1 s

/-- The lanes of a list of bytes, little-endian. -/
def lanesOf (n : Nat) (b : List Byte) : Keccak := (List.range n).map (fun i => BitVec.ofNat 64 (leNat ((b.drop (8 * i)).take 8)))

/-- Absorbs blocks of 136 bytes. -/
def shakeAbsorb : Nat → Keccak → List Byte → Keccak
  | 0, s, _ => s
  | n + 1, s, b => shakeAbsorb n (keccakF (List.zipWith (· ^^^ ·) s (lanesOf 25 (b.take 136)))) (b.drop 136)

/-- Squeezes blocks of 136 bytes. -/
def shakeSqueeze : Nat → Keccak → List Byte
  | 0, _ => []
  | n + 1, s => ((s.take 17).flatMap (fun l => leBytes 8 l.toNat)) ++ shakeSqueeze n (keccakF s)

/-- The message with SHAKE's suffix and padding, whole blocks of 136 bytes. -/
def shakePad (b : List Byte) : List Byte :=
  let z := 136 - (b.length + 1) % 136
  if z = 136 then b ++ [0x9F] else b ++ [0x1F] ++ List.replicate (z - 1) 0 ++ [0x80]

/-- SHAKE256 with `n` bytes of output. -/
def shake256 (n : Nat) (b : List Byte) : List Byte :=
  let p := shakePad b
  (shakeSqueeze ((n + 135) / 136) (shakeAbsorb (p.length / 136) (List.replicate 25 0) p)).take n

/-! ### Ed448 -/

def edP : Nat := 2 ^ 448 - 2 ^ 224 - 1
def edL : Nat := 2 ^ 446 - 13818066809895115352007386748515426880336692474882178609894547503885
/-- d = −39081. -/
def edD : Nat := edP - 39081

def edAdd (a b : Nat) : Nat := (a + b) % edP
def edSub (a b : Nat) : Nat := (a + edP - b % edP) % edP
def edMul (a b : Nat) : Nat := (a * b) % edP

/-- The bits of an exponent or scalar, most significant first. -/
def bitsOf (n w : Nat) : List Bool := (List.range w).map (fun i => n.testBit (w - 1 - i))

def edPow (a e : Nat) : Nat := (bitsOf e 448).foldl (fun r b => let q := edMul r r; if b then edMul q a else q) 1

/-- A point in projective coordinates. -/
structure EdPt where
  x : Nat
  y : Nat
  z : Nat
  deriving DecidableEq, Repr

def edZero : EdPt := ⟨0, 1, 1⟩

def edBase : EdPt :=
  ⟨224580040295924300187604334099896036246789641632564134246125461686950415467406032909029192869357953282578032075146446173674602635247710,
   298819210078481492676017930443930673437544040154080242095928241372331506189835876003536878655418784733982303233503462500531545062832660, 1⟩

/-- Addition of points (RFC 8032, 5.2.4). -/
def edPlus (p q : EdPt) : EdPt :=
  let a := edMul p.z q.z
  let b := edMul a a
  let c := edMul p.x q.x
  let d := edMul p.y q.y
  let e := edMul edD (edMul c d)
  let f := edSub b e
  let g := edAdd b e
  let h := edMul (edAdd p.x p.y) (edAdd q.x q.y)
  ⟨edMul (edMul a f) (edSub (edSub h c) d), edMul (edMul a g) (edSub d c), edMul f g⟩

def edTimes (n : Nat) (p : EdPt) : EdPt :=
  (bitsOf n 456).foldl (fun r b => let q := edPlus r r; if b then edPlus q p else q) edZero

def edSame (p q : EdPt) : Bool := edMul p.x q.z = edMul q.x p.z && edMul p.y q.z = edMul q.y p.z

def edEncode (p : EdPt) : List Byte :=
  let i := edPow p.z (edP - 2)
  leBytes 57 (edMul p.y i + (edMul p.x i % 2) * 2 ^ 455)

def edDecode (b : List Byte) : Option EdPt :=
  let n := leNat b
  let y := n % 2 ^ 455
  let sign := n / 2 ^ 455
  if b.length ≠ 57 || edP ≤ y then none
  else
    let u := edSub (edMul y y) 1
    let v := edSub (edMul edD (edMul y y)) 1
    let u3v := edMul (edMul (edMul u u) u) v
    let u5v3 := edMul (edMul u3v (edMul u u)) (edMul v v)
    let x := edMul u3v (edPow u5v3 ((edP - 3) / 4))
    if edMul v (edMul x x) ≠ u || (x = 0 && sign = 1) then none
    else some ⟨if x % 2 = sign then x else edP - x, y, 1⟩

/-- dom4(0, context). -/
def edDom (ctx : List Byte) : List Byte :=
  [0x53, 0x69, 0x67, 0x45, 0x64, 0x34, 0x34, 0x38, 0, BitVec.ofNat 8 ctx.length] ++ ctx

def edHash (b : List Byte) : Nat := leNat (shake256 114 b) % edL

/-- The signature verifies, by the group equation with the cofactor (RFC 8032, 5.2.7). -/
def edVerify (key ctx msg sig : List Byte) : Bool :=
  match edDecode key, edDecode (sig.take 57) with
  | some a, some r =>
    let s := leNat (sig.drop 57)
    let k := edHash (edDom ctx ++ sig.take 57 ++ key ++ msg)
    sig.length = 114 && decide (s < edL) && edSame (edTimes 4 (edTimes s edBase)) (edTimes 4 (edPlus r (edTimes k a)))
  | _, _ => false

/-- The secret scalar and the prefix of a 57-byte private key. -/
def edSecret (priv : List Byte) : Nat × List Byte :=
  let h := shake256 114 priv
  let n := leNat (h.take 57)
  ((n % 2 ^ 447 - n % 4) + 2 ^ 447, h.drop 57)

def edPublic (priv : List Byte) : List Byte := edEncode (edTimes (edSecret priv).1 edBase)

def edSign (priv ctx msg : List Byte) : List Byte :=
  let (a, pre) := edSecret priv
  let pub := edPublic priv
  let r := edHash (edDom ctx ++ pre ++ msg)
  let rb := edEncode (edTimes r edBase)
  let k := edHash (edDom ctx ++ rb ++ pub ++ msg)
  rb ++ leBytes 57 ((r + k * a) % edL)

end Sys2Proof.Machine
end

