-- ==== Sys2Proof/Machine/Report.lean ====
section
/-!
DEFINITION. The names of the device and its attestation (13_trust.md, R313, R315, R316, R318, R320 to R323): the requests that
Taproot serves one at a time.
-/

namespace Sys2Proof.Machine

/-! ### The device's identity (R315, Tables 13.7 and 13.8) -/

/-- derive(label, n). -/
def derive (label : List Byte) (n : Nat) : List Byte := shake256 n (Config.seed ++ label)
/-- "Uldan-" and a tail, in ASCII. -/
def uldan (tail : List Byte) : List Byte := [0x55, 0x6C, 0x64, 0x61, 0x6E, 0x2D] ++ tail
def lblId : List Byte := uldan [0x49, 0x44]
def lblSeal : List Byte := uldan [0x53, 0x45, 0x41, 0x4C]
def ctxCfg : List Byte := uldan [0x43, 0x46, 0x47]
def ctxImg : List Byte := uldan [0x49, 0x4D, 0x47]
def ctxAtt : List Byte := uldan [0x41, 0x54, 0x54]
def ctxGcrt : List Byte := uldan [0x47, 0x43, 0x52, 0x54]
def ctxGst : List Byte := uldan [0x47, 0x53, 0x54]
def idKey : List Byte := derive lblId 57
def idPub : List Byte := edPublic idKey
def idPrefix : List Byte := shake256 16 idPub

/-- What a port sends in IDENTIFY: the identity prefix and its port number (R269). -/
def identSends (s : State) (p : Fin 24) : Option (List Byte × Nat) :=
  let x := vget s.ports p
  if x.st == .training && x.step == .identify then some (idPrefix, p.val) else none

/-! ### The sealed key table (Table 13.9) -/

/-- CFG_KEY_STATUS.SLOTS. -/
def keySlots (keys : List (List Byte)) : Nat := ((List.range 4).map (fun i => if (keys.getD i []).isEmpty then 0 else 2 ^ i)).foldl (· + ·) 0

/-- Bytes padded with zeros, or cut, to a length. -/
def fit (n : Nat) (b : List Byte) : List Byte := (b ++ List.replicate (n - b.length) 0).take n

def tableBody (keys : List (List Byte)) (epoch : Nat) : List Byte :=
  [0x55, 0x4B, 0x45, 0x59] ++ leBytes 4 epoch ++ leBytes 4 (keySlots keys) ++ leBytes 4 0 ++
  (List.range 4).flatMap (fun i => fit 64 (keys.getD i []))

def tableTag (body : List Byte) : List Byte := shake256 32 (derive lblSeal 32 ++ body)
def sealTable (keys : List (List Byte)) (epoch : Nat) : List Byte := tableBody keys epoch ++ tableTag (tableBody keys epoch)

/-! ### Reports (Tables 13.11 and 13.12, R321) -/

/-- CAP_ID and CAP_CONTRACT (Table 0.7). -/
def capId (s : State) : Nat := 0x55300000 + s.fuses.code * 256
def capContract : Nat := 0x00010000

def flagBit (b : Bool) (i : Nat) : Nat := if b then 2 ^ i else 0

/-- FLAGS for the partitions in scope. -/
def reportFlags (s : State) (ps : List PartId) : Nat :=
  let cs := ps.flatMap (fun p => coresOfMask (maskOf s p))
  flagBit (ps.any (fun p => (getPart s p).debug)) 0 + flagBit (cs.any (fun k => (getCore s k).cube.chkOff)) 1 + flagBit s.hst.barEver 2 +
  flagBit (s.sec.topsImg.any (fun i => i.slot = 2)) 3 + flagBit s.sec.patch.isNone 4 + flagBit (cs.any (fun k => (getCore s k).cube.suspect)) 5 +
  flagBit s.flt.oos 6 + flagBit (ps.any (fun p => partResetting s p)) 7 + flagBit s.fuses.key0Revoked 8 +
  flagBit (ps.any (fun p => (getPart s p).guestWins.any (fun w => w.kind = 2))) 9

/-- FUSE_SUMMARY of a region. -/
def fuseWord (s : State) (r : RegionId) : Nat :=
  let g := getRegion s r
  let present := if s.flt.regionBad.getLsbD r then 0 else (List.range 5).foldl (fun a k => a + flagBit (g.fusePhys.toList.any (fun x => x.val = k)) k) 0
  let spare := (List.range 4).foldl (fun a l => a + flagBit (getCore s (coreOf r.val l)).cube.repairedRow.isSome l) 0
  present + spare * 2 ^ 8 + min 255 (vget s.hub.applied r) * 2 ^ 16

def imgDigest (i : Option Image) : List Byte := fit 64 ((i.map (fun x => x.digest)).getD [])
def imgBuild (i : Option Image) : Nat := (i.map (fun x => x.build)).getD 0

/-- SEQUENCE. -/
def reportSeqs (s : State) (p : Option PartId) : List Byte :=
  (List.range 8).flatMap (fun c =>
    match p with
    | some q => leBytes 4 (if (getPart s q).hostWins.any (fun w => w.channel = c) then (getCh s q c).ring.issued.toNat else 0)
    | none => leBytes 4 ((s.hst.rings[c]?.map (fun r => r.ring.issued.toNat)).getD 0))

/-- Bytes 0 to 1,055 of a report on a partition, or on the chip. -/
def reportBody (s : State) (p : Option PartId) (nonce : List Byte) : List Byte :=
  let ps := match p with | some q => [q] | none => liveParts s
  let amends := match p with | some q => (getPart s q).amends | none => []
  let last8 := amends.drop (amends.length - 8)
  let signer := match p with | some q => tget 0xFF s.cfg.slots q.val | none => s.cfg.chipSlot.getD 0xFF
  let cfgDigest := match p with | some q => (getPart s q).digest | none => s.cfg.chipDigest
  let mask := match p with | some q => maskOf s q | none => BitVec.allOnes 32
  [0x55, 0x52, 0x50, 0x54] ++ leBytes 2 1 ++
  (match p with | some q => [0, BitVec.ofNat 8 q.val] | none => [1, 0xFF]) ++
  leBytes 4 (capId s) ++ leBytes 4 capContract ++ leBytes 4 (reportFlags s ps) ++ leBytes 4 (imgBuild s.sec.patch) ++ leBytes 4 (imgBuild s.sec.topsImg) ++
  leBytes 1 s.fuses.epoch ++ leBytes 1 (keySlots s.cfg.keys) ++ leBytes 1 signer ++ leBytes 1 (min 255 amends.length) ++ fit 32 nonce ++
  fit 64 Config.romDigest ++ imgDigest s.sec.patch ++ imgDigest s.sec.topsImg ++ fit 64 cfgDigest ++
  (if s.sec.kt = .valid then shake256 64 (s.sec.table.take 272) else List.replicate 64 0) ++
  fit 512 (last8.flatMap (fun d => fit 64 d)) ++
  (List.finRange 32).flatMap (fun r => leBytes 4 (if mask.getLsbD r then fuseWord s r else 0)) ++ reportSeqs s p

/-- The signed report (Table 13.11). -/
def signedReport (s : State) (p : Option PartId) (nonce : List Byte) : List Byte :=
  let b := reportBody s p nonce
  let d := shake256 64 b
  b ++ d ++ edSign idKey ctxAtt d

/-! ### Service (R322, R323) -/

/-- The response to a request: its status, and the report or the chain. -/
def attAnswer (s : State) (own : Option PartId) (kind scope pad : Nat) (nonce : List Byte) : State × List Byte :=
  if !(kind = 1 || kind = 2) || pad ≠ 0 || (kind = 1 && nonce.length ≠ 32) then (s, leBytes 4 3)
  else if own.any (fun p => p.val != scope) then (s, leBytes 4 2)
  else if scope ≠ 0xFF && (31 < scope || !(getPart s (Fin.ofNat 32 scope)).live) then (s, leBytes 4 1)
  else if kind = 2 then (s, leBytes 4 0 ++ s.sec.chain)
  else if scope = 0xFF then (modSec s (fun x => { x with reports := x.reports + 1 }), leBytes 4 0 ++ signedReport s none nonce)
  else (modSec s (fun x => { x with reports := x.reports + 1 }), leBytes 4 0 ++ signedReport s (some (Fin.ofNat 32 scope)) nonce)

/-- Floors rise to the SVNs that run (R313). -/
def commitFloors (s : State) : State :=
  let svn := fun (i : Option Image) => (i.map (fun x => x.svn)).getD 0
  modFuses s (fun f => { f with patchFloor := max f.patchFloor (svn s.sec.patch), topsFloor := max f.topsFloor (svn s.sec.topsImg) })

/-- Image key 0 is revoked if the running Tops, and the patch if there is one, were signed under key 1. -/
def revokeKey0 (s : State) : State :=
  if s.sec.topsImg.any (fun i => i.key = 1) && s.sec.patch.all (fun i => i.key = 1) then modFuses s (fun f => { f with key0Revoked := true }) else s

/-- The kind of a Data Object Exchange response, and of a management one, in `Resp.bytes`. -/
def respDoe : Nat := 0x41
def respMgmt : Nat := 0x7E

/-- LOAD is served (R314): the fetch of the image begins, or the command ends with STATE. -/
def startLoad (s : State) : State :=
  if s.sec.tops = .noImage then
    modSec s (fun x => { x with imgDone := false, imgFetch := some (x.imgHi.toNat * 2 ^ 32 + x.imgLo.toNat, x.imgLen.toNat) })
  else modSec s (fun x => { x with imgDone := true, imgCode := 9 })

/-- RECOVER is served (R319). -/
def startRecover (s : State) : State :=
  if s.sec.kt = .unrecovered then modSec s (fun x => { x with ktDone := false, ktFetch := some (x.ktHi.toNat * 2 ^ 32 + x.ktLo.toNat) })
  else modSec s (fun x => { x with ktDone := true, ktCode := 9 })

/-- A stream of `len` bytes enters FETCH. -/
def startStream (s : State) (tops : Bool) (len : Nat) (src : Option Nat) : State :=
  modCfg s (fun c =>
    { c with st := .fetch, error := 0, rec0 := 0xFFFFFFFF, rec1 := 0xFFFFFFFF, kind := 0, index := 0, owner := 0xFF,
             run := some ⟨tops, len, none, [], .fetch, 0, [], src⟩ })

/-! ### The stream's end (Table 2.9) -/

/-- Bits of CFG_EVENT: REJECTED or DONE; a bit that was clear raises vector 0 (R304). -/
def cfgEvent (s : State) (rejected : Bool) : State :=
  let was := if rejected then s.cfg.evRejected else s.cfg.evDone
  let s1 := modCfg s (fun c => if rejected then { c with evRejected := true } else { c with evDone := true })
  if was then s1 else irq s1 .pf 0

/-- The error registers of a rejection. -/
structure CfgErr where
  code  : Nat
  rec0  : W32 := 0xFFFFFFFF
  rec1  : W32 := 0xFFFFFFFF
  kind  : Nat := 0
  index : Nat := 0
  owner : Nat := 0xFF
  deriving DecidableEq, Repr

/-- The stream in progress has been rejected. -/
def cfgRejected (s : State) (e : CfgErr) : State :=
  modCfg s (fun c =>
    { c with st := .rejected, error := e.code, rec0 := e.rec0, rec1 := e.rec1, kind := e.kind, index := e.index % 2 ^ 24, owner := e.owner, run := none })

/-- The answer in Tops's mailbox to the end of a stream that Tops handed over (R310). -/
def streamAnswer (old s : State) (code : Nat) : State :=
  match old.cfg.run with
  | some r => if r.tops then toTops s (.answer code) else s
  | none => s

/-- A stream enters FETCH; one above 64 MiB is rejected at once. -/
def serveStream (s : State) (tops : Bool) (len : Nat) (src : Option Nat) : State :=
  let s1 := startStream s tops len src
  if 2 ^ 26 < len then cfgEvent (streamAnswer s1 (cfgRejected s1 { code := 0x17 }) 0x17) true else s1

def serveOne (s : State) : SvcReq → State
  | .doe fn kind scope pad nonce =>
    let r := attAnswer s (match fn with | .pf => none | .vf p => some p) kind scope pad nonce
    respond r.1 (.bytes respDoe r.2)
  | .mctp mgmt kind scope pad nonce =>
    let r := attAnswer s none kind scope pad nonce
    if mgmt then respond r.1 (.bytes respMgmt r.2) else toTops r.1 (.report r.2)
  | .commit => commitFloors s
  | .revoke => revokeKey0 s
  | .load => startLoad s
  | .recover => startRecover s
  | .stream tops len src => serveStream s tops len src

/-- A fetch of R314 or R319 is in progress. -/
def fetching (s : State) : Bool := s.sec.imgFetch.isSome || s.sec.ktFetch.isSome

/-- Serves what waits, in order of arrival, until a stream or a fetch begins. -/
def serveAll : Nat → State → State
  | 0, s => s
  | n + 1, s =>
    if cfgBusy s || fetching s then s
    else
      match s.sec.waiting with
      | [] => s
      | q :: qs => serveAll n (serveOne (modSec s (fun x => { x with waiting := qs })) q)

/-- Requests that waited for a stream or a fetch are served in order of arrival once it has ended. -/
def serveWaiting (s : State) : State := serveAll s.sec.waiting.length s

def sameTransport : SvcReq → SvcReq → Bool
  | .doe .., .doe .. => true
  | .mctp .., .mctp .. => true
  | _, _ => false

/-- A request that finds 4 of its transport waiting receives status 3. -/
def submitSvc (s : State) (q : SvcReq) : State :=
  if 4 ≤ (s.sec.waiting.filter (sameTransport q)).length then
    match q with
    | .doe .. => respond s (.bytes respDoe (leBytes 4 3))
    | .mctp mgmt .. => if mgmt then respond s (.bytes respMgmt (leBytes 4 3)) else toTops s (.report (leBytes 4 3))
    | _ => s
  else serveWaiting (modSec s (fun x => { x with waiting := x.waiting ++ [q] }))

end Sys2Proof.Machine
end

