-- ==== Sys2Proof/Machine/Resets.lean ====
section
/-!
DEFINITION. Resets (16_faults.md, R379 to R387): contexts, cores, regions, partitions and the chip, requests for them, and
their promotion. A stream's rejection stands here too, because a die fault may cause it (02_configuration_stream.md, R50).
-/

namespace Sys2Proof.Machine

/-! ### The stream's end (R50) -/

/-- Nothing of a stream is in force before its commit: its end leaves the regions it held unowned and in reset (R50). -/
def cfgReject (s : State) (e : CfgErr) : State :=
  cfgEvent (serveWaiting (streamAnswer s (cfgRejected s e) e.code)) true

def cfgDone (s : State) : State := cfgEvent (serveWaiting (streamAnswer s (modCfg s (fun c => { c with st := .done, error := 0, run := none })) 0)) false

/-! ### Contexts and cores -/

/-- The image that the applied streams give a core. -/
def imageOf (s : State) (k : CoreId) : Option ImageRec :=
  match partOfCore s k with
  | none => none
  | some p => (getPart s p).images.find? (fun i => i.core = pcnOf (maskOf s p) k)

/-- The header check of R59 fails. -/
def headerBad (m : PMem) (g : ImageRec) : Bool :=
  let own := fun (c : Nat) => memRead m.bytes c
  (List.range 4).any (fun i => (List.range i).any (fun j => (own i &&& own j) != 0)) ||
  (List.range 4).any (fun c => let e := memReadNat m.bytes (8 + 4 * c) 4; e != 0 && !entryOk e) ||
  (List.range 4).any (fun c => g.ctxMask.testBit c && decide (g.entry.getD c 0 < 64))

/-- A context stopped by a reset: its registers zero, handler mode clear; the fault registers, the counters and what the model
uses to match late replies stay. -/
def ctxStopped (x : Ctx) : Ctx :=
  { Ctx.reset with fltCls := x.fltCls, fltAddr := x.fltAddr, ret := x.ret, dlMiss := x.dlMiss, syncSeq := x.syncSeq + 1, sprOut := x.sprOut }

/-- A region with a READY context wakes, as at the commit (R63, R338, R382, step 5).
DEDUCED (log 52): a region that is not idle (R337) is neither Dozing nor Asleep. -/
def wakeReady (s : State) (k : CoreId) : State :=
  if !(getRegion s (regionOf k)).held && (getCore s k).ctx.toList.any (fun y => y.st == .ready) then wakeRegion s (regionOf k) else s

/-- The contexts of a list start: READY at ENTRY where CTX_MASK says so, else HALTED; a bad header faults them (R59, R63). -/
def startContexts (s : State) (k : CoreId) (cs : List CtxId) : State :=
  match imageOf s k with
  | none => modCore s k (fun m => { m with hdrFault := false })
  | some g =>
    let bad := headerBad (getCore s k).imem g
    wakeReady ((cs.filter (fun c => g.ctxMask.testBit c.val)).foldl (fun a c =>
      if bad then takeFault a k c .imageHeader ⟨0, 0, 0, 0, none⟩
      else modCtx a k c (fun x => { x with st := .ready, pc := BitVec.ofNat 18 (g.entry.getD c.val 0) }))
      (modCore s k (fun m => { m with hdrFault := bad }))) k

/-- What a context reset does at once (Table 16.3, unit 1). A context that held the issue slot leaves it (R64); its pending RESUMEs go
out, and its refusal marks clear with their records (R248, R326); a tile that an MMA of its queue had resolved at its issue stays so (R109). -/
def stopContext (s : State) (k : CoreId) (c : CtxId) : State :=
  let ts := (getCore s k).tasks.filter (fun t => t.ctx = c)
  let s1 := ts.foldl (fun a t => sendSync a k c t.region (.syncCancel t.obj)) s
  let s2 := modCore s1 k (fun m => { m with tasks := m.tasks.filter (fun t => t.ctx != c) })
  let s3 := ((getCore s2 k).xfers.filter (fun x => x.ctx = c)).foldl (fun a x => stopXfer a k x.id 3 0 0) s2
  let s4 := ((getCore s3 k).marks.filter (fun m => m.ctx = c && m.refusing)).foldl (fun a m => sendResume a k m) s3
  let q := (getCtx s4 k c).queue
  let s5 := q.foldl (fun a o => dropHold (settleAnchor a k c q (fun _ => false) o) k o.id) s4
  modCtx (modCore s5 k (fun m =>
    { m with inbox := vmod m.inbox c (fun _ => []), notices := m.notices.filter (fun n => n.ctx != c),
             marks := m.marks.filter (fun x => x.ctx != c), lastSlot := if (vget m.ctx c).st = .running then c else m.lastSlot })) k c ctxStopped

/-- What a core reset does at once (unit 2); an ATTN gives up its leases as what it has in flight returns (R230). A MESH OUT request whose
message goes with the outbound buffer waits for nothing more (R147). -/
def stopCore (s : State) (k : CoreId) : State :=
  attnHalt (modCore ((List.finRange 4).foldl (fun a c => stopContext a k c) s) k
    (fun m => { m with outbox := [], notices := [], passes := [], replays := [], epi := none, holds := []
                       reqs := updIf (fun r => m.outbox.any (fun o => o.req = some r.id)) (fun r => { r with waits := 0 }) m.reqs })) k

def regionCores (r : RegionId) : List CoreId := (List.range 4).map (coreOf r.val)

/-- What a region reset does at once (unit 3). -/
def stopRegion (s : State) (r : RegionId) : State := (regionCores r).foldl stopCore s

/-- The region's power domain returns to Asleep, and its PLL locks again. -/
def regionOff (s : State) (r : RegionId) : State :=
  modRegion s r (fun g => { g with power := .asleep, volt := 200, level := 7, dozeTicks := 0, onBackup := false, railOk := true })

/-- A repair of a row runs or waits on the core: its region does not enter Asleep (R167, R375). -/
def copiesRun (s : State) (k : CoreId) : Bool := !(getNear s k).copies.isEmpty || !(getCore s k).copies.isEmpty

/-- The cores that a reset of units 1 to 4 covers. -/
def resetCores (s : State) (u t : Nat) : List CoreId :=
  if u ≤ 2 then [Fin.ofNat 128 t] else if u = 3 then regionCores (Fin.ofNat 32 t) else coresOfMask (maskOf s (Fin.ofNat 32 t))

/-- No request of the covered contexts is in flight; a core's ATTN has ended and a region's row repairs have. -/
def drained (s : State) (r : ResetRun) : Bool :=
  (resetCores s r.unit r.target).all (fun k =>
    let m := getCore s k
    m.reqs.all (fun q => r.unit = 1 && !(m.xfers.any (fun x => x.id = q.xfer && x.ctx.val = r.ctx))) &&
    (r.unit = 1 || m.attn.isNone) && (r.unit ≤ 2 || !copiesRun s k))

/-- The covered contexts start again; a core keeps no transfer. -/
def restartUnit (s : State) (r : ResetRun) : State :=
  (resetCores s r.unit r.target).foldl (fun a k =>
    if r.unit = 1 then startContexts a k [Fin.ofNat 4 r.ctx]
    else startContexts (modCore a k (fun m => { m with xfers := [] })) k (List.finRange 4))
    (if r.unit = 3 then regionOff s (Fin.ofNat 32 r.target) else s)

/-! ### Partitions (R382) -/

/-- TREE_RESET on every edge of every tree of a partition; its trees confirm anew (Table 11.6). -/
def treesReset (s : State) (p : PartId) : State :=
  (s.trees.filter (fun x => x.part = p)).foldl (fun a x =>
    let b := match treeRec a p x.tree with
      | none => a
      | some r => (List.range x.edges.length).foldl (fun c e =>
          edgeTx (modPort c (activePort r x e) (fun y => dropTree y x.tree)) r x e (plainFrame kReset x.tree 0 [])) a
    modTree b p x.tree (fun y =>
      { y with st := if y.edges.isEmpty then .ready else .confirming, cause := 0, edges := y.edges.map (fun z => { edgeReset with alt := z.alt }),
               sent := false, ops := [], dead := [], stash := [], count := 0 })) s

/-- Guest traffic of a partition is absorbed: each frame in progress ends with an ERROR frame of cause 5 (R383, R412). -/
def guestAbsorb (s : State) (p : PartId) : State :=
  (List.range 2).foldl (fun a g =>
    let x := getGuest a g
    let gone := (x.msgs.filter (fun m => m.part = p)).map (fun m => m.tag) ++ (x.dma.filter (fun d => d.part = p)).map (fun d => d.tag)
    gone.foldl (fun b t => toGuest b g (guestErr 5 t))
      (modGuest a g (fun y => { y with msgs := y.msgs.filter (fun m => m.part != p), dma := y.dma.filter (fun d => d.part != p),
                                       stops := y.stops.filter (fun e => e.1 != p) }))) s

/-- Steps 1 and 2. -/
def partStop (s : State) (p : PartId) : State :=
  let s1 := (List.range 8).foldl (fun a c =>
    fillAbsorbed (modCh a p c (fun x =>
      { x with gone := x.gone ++ x.buf.map (fun m => (m.hseq, m.body.length)), buf := [], stop := false })) p c) s
  let s2 := (coresOfMask (maskOf s p)).foldl stopCore s1
  let s3 := (List.range 8).foldl (fun a n =>
    let gone := (sprOutstanding (getStack a n)).filter (fun c => c.part = p)
    let keys := gone.map (fun c => c.id * 128 + c.core.val)
    hfenceCheck (modStack a n (fun t =>
      { t with sprQ := t.sprQ.filter (fun c => c.part != p),
               sprRun := match t.sprRun with | some r => if r.cmd.part = p then none else some r | none => none,
               hfence := t.hfence.map (fun l => l.filter (fun i => !keys.contains i)),
               units := t.units.filter (fun u => match u.src with | .kv q => q != p | _ => true),
               pfence := t.pfence.filter (fun e => e.1 != p) })) n) s2
  let s3 := (coresOfMask (maskOf s p)).foldl attnAbandon s3
  let s4 := pfenceCheck (modKv s3 (fun k => { k with reqs := k.reqs.filter (fun r => r.part != p) })) p
  guestAbsorb (treesReset s4 p) p

/-- The frame belongs to the partition, at its source or its destination. -/
def frameOfPart (s : State) (p : PartId) (f : Frame) : Bool := endPart s f.src == some p || endPart s f.dst == some p

/-- Step 4. -/
def partClear (s : State) (p : PartId) : State :=
  let m := maskOf s p
  let s1 := { s with mesh := s.mesh.filter (fun f => !frameOfPart s p f) }
  let s2 := (regionsOfMask m).foldl (fun a r =>
    modRed (modRegion (regionOff (stopRegion a r) r) r (fun g => { g with objs := [], waits := [] })) r
      (fun n => { n with held := [], seen := [], ovf := [], dead := [], told := [] })) s1
  let s3 := modKv s2 (fun k => { k with pages := k.pages.filter (fun e => e.1 / 2 ^ 33 != p.val) })
  let s4 := bufDropPart s3 p
  let s5 := { s4 with trees := s4.trees.map (fun x => if x.part = p then { x with edges := x.edges.map (fun e => { e with alt := false }) } else x) }
  (coresOfMask m).foldl (fun a k => modCore a k (fun x =>
    { x with xfers := [], reqs := [], pairs := [], marks := [], cols := [], colSeq := [], early := [], ctx := x.ctx.map (fun y => { y with sprOut := 0 }) })) s5

/-- The partition depends on the die (Table 16.7). -/
def dependsOn (s : State) (p : PartId) (d : Nat) : Bool :=
  let c := getPart s p
  if d < 4 then (regionsOfMask c.regions).any (fun r => tileOfRegion r.val = d)
  else if d < 16 then c.maps.any (fun m => dieStack (m.pa / 2 ^ 36) = d)
  else if d < 24 then c.ports.any (fun q => dieLink (q.port / 8) = d)
  else c.guestWins.any (fun w => dieGuest w.site = d)

def bit32 (n : Nat) : BitVec 32 := BitVec.ofNat 32 (2 ^ n)
def setBit32 (m : BitVec 32) (n : Nat) (b : Bool) : BitVec 32 := if b then m ||| bit32 n else m &&& ~~~ bit32 n

/-- A die that the partition depends on is SEVERED. -/
def partCrippled (s : State) (p : PartId) : Bool := (List.range 32).any (fun d => s.flt.severed.getLsbD d && dependsOn s p d)

/-- The partition's regions are held, or released. -/
def holdRegions (s : State) (p : PartId) (b : Bool) : State :=
  modFlt ((regionsOfMask (maskOf s p)).foldl (fun a r => modRegion a r (fun g => { g with held := b })) s)
    (fun f => { f with partHeld := setBit32 f.partHeld p.val b })

/-- Step 5: the regions are released, or stay held while a die they depend on is SEVERED. -/
def partRelease (s : State) (p : PartId) : State :=
  let s1 := holdRegions s p (partCrippled s p)
  let s2 := (coresOfMask (maskOf s p)).foldl (fun a k => startContexts a k (List.finRange 4)) s1
  let s3 := partEvent (modFlt s2 (fun f => { f with partFaulted := setBit32 f.partFaulted p.val false })) p .resetDone
  raiseRec s3 { recBlank 0x44 3 3 with part := BitVec.ofNat 8 p.val, reset := 4 }

/-- The resources of a dissolved partition are released (R52, R244). -/
def dissolve (s : State) (p : PartId) : State :=
  let m := maskOf s p
  let s1 := (regionsOfMask m).foldl (fun a r =>
    modRegion ((regionCores r).foldl (fun b k => modCore b k (fun x => { x with ctx := x.ctx.map ctxStopped, hdrFault := false })) a) r
      (fun g => { g with owner := none, held := false, power := .asleep })) s
  let s2 := { s1 with trees := s1.trees.filter (fun x => x.part != p), routes := s1.routes.filter (fun e => e.part != p) }
  let s3 := modFlt s2 (fun f =>
    { f with partFaulted := setBit32 f.partFaulted p.val false, partHeld := setBit32 f.partHeld p.val false })
  modPst (modPart s3 p (fun _ => PartCfg.none)) p (fun _ => PartStatus.reset)

/-! ### The chip (Table 16.3 unit 5, R386) -/

/-- What a core keeps of a chip reset: its memories, its tiles and its redirected rows. -/
def coreKept (c : Core) : Core :=
  { Core.reset with opbuf := c.opbuf, imem := c.imem, tiles := c.tiles, accDiff := c.accDiff, inbDiff := c.inbDiff, retired := c.retired,
                    cube := { Core.reset.cube with repairedRow := c.cube.repairedRow }, nsl := { Core.reset.nsl with repairs := c.nsl.repairs } }

def regionKept (g : Region) : Region :=
  { Region.reset with cet := g.cet, cetWait := g.cetWait, cetLost := g.cetLost, lastRec := g.lastRec, fusePhys := g.fusePhys }

def stackKept (t : Stack) : Stack :=
  { Stack.reset with mem := t.mem, cet := t.cet, cetWait := t.cetWait, pprUsed := t.pprUsed,
                     repaired := t.repaired, hard := t.hard, repairs := t.repairs }

def portKept (x : LinkPort) : LinkPort := { LinkPort.reset with sets := x.sets, retrains := x.retrains }
def bundleKept (b : Bundle) : Bundle := { Bundle.reset with sets := b.sets, lanes := b.lanes }
def pairKept (p : Pair) : Pair := { Pair.reset with bundles := p.bundles.map bundleKept }

/-- The Tuber domain of THM: masks, life counts, the record of a shutdown and its latch (R368). -/
def thmKept (t : Thm) : Thm :=
  { Thm.reset with sensors := t.sensors.map (fun x => ⟨0, false, x.masked, false, 0, 0⟩), cycles := t.cycles,
                   tripValid := t.tripValid, tripSensor := t.tripSensor, tripTemp := t.tripTemp, latch := t.latch }

/-- The monitors of PWR_BRAKE_N and VIN, which lie in the Tuber domain (R329). -/
def pwrKept (p : Pwr) : Pwr := { Pwr.reset with pin := p.pin, vinLow := p.vinLow, below := p.below, above := p.above }

/-- The counters of FLT that lie in the Tuber domain (R395). -/
def fltKept (f : Flt) : Flt :=
  { Flt.reset with chipCause := f.chipCause, chipCount := f.chipCount, chipAge := f.chipAge, chipCounted := f.chipCounted, oos := f.oos,
                   topsCount := f.topsCount, topsAge := f.topsAge }

/-- What stays of every chip reset. A row repair that is pending or in progress is dropped, and
its table entry stays as it stands (DESIGN CHOICE, log 89). -/
def chipKept (s : State) (ph : Phase) : State :=
  { State.reset with
    cores := s.cores.map coreKept
    regions := s.regions.map regionKept
    near := s.near.map (fun n => { n with copies := [] })
    stks := s.stks.map stackKept
    hst := { Hst.reset with barEver := s.hst.barEver }
    irqs := s.irqs
    resps := s.resps
    hostWrites := s.hostWrites
    ports := s.ports.map portKept
    flt := fltKept s.flt
    fuses := s.fuses
    cfg := { Cfg.reset with floor := s.cfg.floor, keys := s.cfg.keys }
    sec := { Sec.reset with out := s.sec.out, table := s.sec.table }
    pwr := pwrKept s.pwr
    clk := { Clk.reset with code := s.clk.code }
    thm := thmKept s.thm
    pairs := s.pairs.map pairKept
    guests := s.guests.map (fun g => { Guest.reset with rail := g.rail })
    dl := { s.dl with lost := 0 }
    hub := { Hub.reset with phase := ph, vaux := s.hub.vaux, vin := s.hub.vin, perst := s.hub.perst, cycleReq := s.hub.cycleReq,
                            needCycle := s.hub.needCycle, powered := s.hub.powered, cold := s.hub.cold, events := s.hub.events, smbAddr := s.hub.smbAddr,
                            eid := s.hub.eid, afterReset := true }
    tick := s.tick
    freeCtr := s.freeCtr
    pending := s.pending }

/-- A chip reset for a cause of Table 16.5; causes 1 and 9 are not counted. Without its rails, or held by PERST_N, the device is
in reset already. -/
def chipReset (s : State) (cause : Nat) : State :=
  let counted := cause ≠ 1 && cause ≠ 9
  let off := !s.hub.powered || (match s.hub.phase with | .noVaux | .noVin | .perst => true | _ => false)
  let ph : Phase := if cause = 9 then .perst else if cause = 5 || s.hub.phase == .sysref then .sysref else .start
  if off && cause ≠ 9 then s
  else modFlt (chipKept s ph) (fun f =>
    if !counted then { f with chipCause := cause, chipCounted := false }
    else
      let fresh := f.chipCount = 0 || 2 ^ 28 ≤ f.chipAge
      { f with chipCause := cause, chipCounted := true, chipCount := if fresh then 1 else min 3 (f.chipCount + 1), chipAge := if fresh then 0 else f.chipAge })

/-! ### Requests (R380, R381, R385) -/

/-- The target of the unit of level `v` that contains a target of unit `u` (core × 4 + context, core, region, partition). -/
def levelTarget (s : State) (u t c v : Nat) : Option Nat :=
  if v < u then none
  else if v = 1 then some (t * 4 + c)
  else if v = 2 then some t
  else
    let r := if u ≤ 2 then (regionOf (Fin.ofNat 128 t)).val else t
    if v = 3 then some r
    else if u = 4 then some t
    else (partOfRegion s (Fin.ofNat 32 r)).map (fun p => p.val)

/-- A completed reset of the unit, or of a larger one that contains it, lies less than 2^24 ticks back. -/
def recentReset (s : State) (u t c : Nat) : Bool :=
  s.flt.hist.any (fun h => decide (s.tick < h.tick + 2 ^ 24) && decide (u ≤ h.unit) && levelTarget s u t c h.unit == some h.target)

/-- Promotion: the unit performed and its target; unit 5 is the chip. -/
def promoteReset (s : State) : Nat → Nat × Nat × Nat → Nat × Nat × Nat
  | 0, x => x
  | n + 1, (u, t, c) =>
    if u ≤ 4 && recentReset s u t c then promoteReset s n (u + 1, (levelTarget s u t c (u + 1)).getD 0, c) else (u, t, c)

/-- The unit lies within the reset in progress. -/
def resetContains (s : State) (r : ResetRun) (u t c : Nat) : Bool :=
  if r.unit = 6 then true
  else if r.unit = 7 then (u = 7 && t = r.target) || (u ≤ 2 && tileOfCore (Fin.ofNat 128 t) = r.target)
  else u ≤ r.unit && levelTarget s u t c r.unit == (if r.unit = 1 then some (r.target * 4 + r.ctx) else some r.target)

def resetStatus (s : State) (done : Bool) (u code : Nat) : State := modFlt s (fun f => { f with stDone := done, stUnit := u, stCode := code })

/-- The target of a request for unit 1 to 4 belongs to a partition. -/
def targetOwned (s : State) (u t : Nat) : Bool :=
  if u ≤ 2 then t < 128 && (partOfCore s (Fin.ofNat 128 t)).isSome
  else if u = 3 then t < 32 && (partOfRegion s (Fin.ofNat 32 t)).isSome
  else t < 32 && (getPart s (Fin.ofNat 32 t)).live

/-- A reset starts; the one of a TEARDOWN stream is no request (R52). -/
def beginReset (s : State) (r : ResetRun) : State :=
  let s0 := modFlt s (fun f => { f with run := some r })
  let s1 := if r.teardown then s0 else resetStatus s0 false r.unit 0
  if r.unit = 1 then stopContext s1 (Fin.ofNat 128 r.target) (Fin.ofNat 4 r.ctx)
  else if r.unit = 2 then stopCore s1 (Fin.ofNat 128 r.target)
  else if r.unit = 3 then stopRegion s1 (Fin.ofNat 32 r.target)
  else if r.unit = 4 then partStop s1 (Fin.ofNat 32 r.target)
  else s1

/-- A request for a partition waits on the stream in progress, until it has committed or been rejected (R381). -/
def waitsOnStream (s : State) (p : Nat) : Bool :=
  match s.cfg.run with
  | none => false
  | some r => r.wait != .reset && (match r.hdr with | none => true | some h => h.2 = p)

/-- A request for a partition waits (R381). -/
def holdReset (s : State) (p : Nat) (tops : Bool) : State :=
  resetStatus (modFlt s (fun f => { f with held := f.held ++ [⟨4, p, 0, false, 0, tops⟩] })) false 4 0

/-- A request for a unit of level 1 to 4, by the operator or by Tops. During another reset it is refused, unless it waits on a stream. -/
def unitRequest (s : State) (u t c : Nat) (tops : Bool := false) : State :=
  if s.flt.oos then resetStatus s true u 3
  else if !targetOwned s u t then resetStatus s true u 2
  else
    match s.flt.run with
    | some r =>
      if resetContains s r u t c then resetStatus s false r.unit 0
      else
        let x := promoteReset s 4 (u, t, c)
        if x.1 = 4 && waitsOnStream s x.2.1 then holdReset s x.2.1 tops else resetStatus s true u 1
    | none =>
      let x := promoteReset s 4 (u, t, c)
      if x.1 = 5 then chipReset s 3
      else if x.1 = 4 && waitsOnStream s x.2.1 then holdReset s x.2.1 tops
      else beginReset s ⟨x.1, x.2.1, x.2.2, false, 1, tops⟩

/-- Requests that waited on a stream start once they wait no longer and no other reset is in progress; one contained in the reset in
progress completes with it. -/
def heldResets (s : State) : State :=
  s.flt.held.foldl (fun a r =>
    if waitsOnStream a r.target || a.flt.run.any (fun x => !resetContains a x 4 r.target 0) then a
    else unitRequest (modFlt a (fun f => { f with held := f.held.erase r })) 4 r.target 0 r.tops) s

/-- A reset has completed: its history, the status of the requests that it serves, and the requests that waited. -/
def endReset (s : State) (r : ResetRun) : State :=
  let tgt := if r.unit = 1 then r.target * 4 + r.ctx else r.target
  let s1 := modFlt s (fun f =>
    { f with run := none, hist := if r.teardown || 4 < r.unit then f.hist else ⟨r.unit, tgt, s.tick⟩ :: f.hist.filter (fun h => s.tick < h.tick + 2 ^ 24) })
  heldResets (if r.teardown && s.flt.stDone then s1 else resetStatus s1 true r.unit 0)

/-- RESET_COMPLETE: a context, core or region reset whose requests have returned. -/
def execResetComplete (s : State) : Out :=
  match s.flt.run with
  | some r => if r.unit ≤ 3 && drained s r then .next (endReset (restartUnit s r) r) else .next s
  | none => .next s

/-- PARTITION_RESET_DRAINED: steps 3 to 5; a TEARDOWN's reset dissolves the partition, and its stream enters DONE (R52). -/
def execPartitionResetDrained (s : State) : Out :=
  match s.flt.run with
  | some r =>
    if r.unit ≠ 4 || !drained s r then .next s
    else
      let p : PartId := Fin.ofNat 32 r.target
      let s1 := partRelease (partClear s p) p
      .next (if r.teardown then endReset (cfgDone (dissolve s1 p)) r else endReset s1 r)
  | none => .next s

/-- FLT_RESET with UNIT 1 to 4. -/
def execResetContext (k : CoreId) (c : CtxId) (s : State) : Out := .next (unitRequest s 1 k.val c.val)
def execResetCore (k : CoreId) (s : State) : Out := .next (unitRequest s 2 k.val 0)
def execResetRegion (r : RegionId) (s : State) : Out := .next (unitRequest s 3 r.val 0)
def execResetPartition (p : PartId) (s : State) : Out := .next (unitRequest s 4 p.val 0)
/-- UNIT 5: never refused. -/
def execResetChip (s : State) : Out := .next (chipReset s 1)
/-- UNIT 6: CYCLE_REQ_N is driven low (R388). It takes over a reset in progress (R381). -/
def powerCycleRequest (s : State) : State :=
  resetStatus (modFlt (modHub s (fun h => { h with cycleReq := true })) (fun f => { f with run := some ⟨6, 0, 0, false, 1, false⟩ })) false 6 0
def execResetPowerCycle (s : State) : Out := .next (powerCycleRequest s)
/-- CHIP_RESET_TIMEOUT: a chip reset that has not come to RUNNING or NO_IMAGE in 2^24 ticks. -/
def execChipResetTimeout (s : State) : Out :=
  if s.hub.booting && 2 ^ 24 ≤ s.hub.bootAge then .next (modHub s (fun h => { h with cycleReq := true })) else .next s

end Sys2Proof.Machine
end

