-- ==== Sys2Proof/Machine/Dies.lean ====
section
/-!
DEFINITION. Loss of a die, die links and clock monitors (14_power_clocks.md, R343 to R345; 16_faults.md, R389 to R394;
17_package.md, R406 to R409, R420). Frames and units do not wait for the flits that carry them (DESIGN CHOICE, log 39).
-/

namespace Sys2Proof.Machine

/-- The die is part of the assembly (Table 0.8). -/
def diePresent (s : State) (d : Nat) : Bool :=
  if d < 8 then true else if d < 16 then (siteMask s).getLsbD (d - 8) else if d < 24 then (linkMask s).getLsbD (d - 16) else true

/-- Both dies of the pair are present. -/
def pairPresent (s : State) (k : Nat) : Bool := diePresent s (pairDies k).1 && diePresent s (pairDies k).2

/-! ### SEVERED dies (R389) -/

/-- A record of a die's failure: one that names no partition, or one for a dependent partition. -/
def recDie (d cls : Nat) (detail : Nat) (p : Option PartId) : FaultRec :=
  { recBlank cls 3 3 with part := partByte p, die := BitVec.ofNat 8 d, detail := BitVec.ofNat 16 detail }

/-- A partition becomes FAULTED, with one record. -/
def faultPart (s : State) (p : PartId) (r : FaultRec) : State :=
  fltEvent (raiseRec (modFlt s (fun f => { f with partFaulted := setBit32 f.partFaulted p.val true })) r) .part

/-- Requests at a stack end with PEER_ERROR: units, and commands queued or in progress. -/
def severStack (s : State) (n : Nat) : State :=
  let t := getStack s n
  let s1 := modStack s n (fun x => { x with units := [], sprQ := [], sprRun := none, buf := [], hfence := x.hfence.map (fun _ => []), pfence := [] })
  let s2 := t.units.foldl failUnit s1
  (sprOutstanding t).foldl (fun a c => sprPeerError a n c.core c.ctx c.thin.isSome c.id c.pc c.task) s2

/-- Operations of the trees of a link die fail, and its ports go down. -/
def severLink (s : State) (d : Nat) : State :=
  let s1 := (s.trees.filter (fun x => ((treeRec s x.part x.tree).bind homeDie) == some d)).foldl (fun a x => treeBreak a x.part x.tree 1) s
  (List.range 8).foldl (fun a q => modPort a (8 * d + q) portKept) s1

/-- Requests into a tile end with an error: messages, registered waits, and the collectives of the partitions with a region there.
The add of a task whose sync object lies there is lost with it. What is on its way out of the tile is lost; the message whose ACK is
among it ends with an error. -/
def severTile (s : State) (t : Nat) : State :=
  let into := fun (f : Frame) => endTile f.dst = some t && endTile f.src != some t && kindOf f.body != 10
  let out := fun (f : Frame) => endTile f.src = some t && endTile f.dst != some t && kindOf f.body != 10
  let s1 := { s with mesh := s.mesh.filter (fun f => !into f && !out f) }
  let s2 := (s.mesh.filter into).foldl (fun a f =>
    match f.body with | .msg id .. => meshSend a ⟨f.dst, f.src, 0, .error id⟩ | _ => noteTaskAdd (waitFail a f) f) s1
  let s2 := (s.mesh.filter out).foldl (fun a f =>
    match f.body with | .ack id => meshSend a ⟨f.src, f.dst, 0, .error id⟩ | _ => noteTaskAdd a f) s2
  severStack (severStack (colsSevered s2 ((liveParts s).filter (fun p => dependsOn s p t))) (2 * t)) (2 * t + 1)

/-- A die becomes SEVERED, for a cause that its records name; their origin is the die, or the lower die of its pair (Table 16.1). A stream
in progress that uses it is rejected (R50). -/
def severDie (s : State) (d cls detail : Nat) (org : Nat := d) : State :=
  if s.flt.severed.getLsbD d then s
  else
    let ps := (liveParts s).filter (fun p => dependsOn s p d)
    let s1 := fltEvent (modFlt s (fun f => { f with severed := setBit32 f.severed d true })) .severed
    let s2 := if d < 4 then severTile s1 d else if d < 16 then severStack s1 (d - 8) else if d < 24 then severLink s1 (d - 16) else s1
    let s3 := ps.foldl (fun a p => faultPart a p (recDie org cls detail (some p))) s2
    match s3.cfg.run with
    | some r => if r.dies.contains d && r.wait != .reset then heldResets (cfgReject s3 { code := 0x18, index := d }) else s3
    | none => s3

/-- Regions held for a die that is UP again are released (R382). -/
def releaseHeld (s : State) : State :=
  (liveParts s).foldl (fun a p =>
    if a.flt.partHeld.getLsbD p.val && !partCrippled a p then (coresOfMask (maskOf a p)).foldl wakeReady (holdRegions a p false) else a) s

/-- A die is UP again; what its links did not carry is lost. -/
def dieUp (s : State) (d : Nat) : State := releaseHeld (modFlt { s with mesh := s.mesh.filter (fun f => !frameCut s f) } (fun f => { f with severed := setBit32 f.severed d false }))

/-! ### Pairs and bundles (R390, R393) -/

def bundleDetail (k b lane : Nat) : Nat := (pairDies k).2 * 2048 + b * 256 + lane
def bundleRec (k b lane cls : Nat) : FaultRec := recDie (pairDies k).1 cls (bundleDetail k b lane) none

/-- The last bundle of a pair is lost (Table 16.7), with what the pair carried. -/
def severPair (s : State) (k b lane : Nat) : State :=
  let d := pairDies k
  let s1 := modPair22 s k (fun p =>
    { p with severed := true, evSevered := true, bundles := p.bundles.map (fun x => { x with tx := .replicate 2 DlTx.start }) })
  let det := bundleDetail k b lane
  let faultAll := fun (a : State) (f : PartId → Bool) => ((liveParts a).filter f).foldl (fun x p => faultPart x p (recDie d.1 0x33 det (some p))) a
  if k < 4 then faultAll s1 (fun p => crosses s1 p d.1 d.2)
  else if k < 12 then severDie s1 d.2 0x33 det d.1
  else if k < 18 then
    let n := (k - 12) / 2
    let s2 := faultAll s1 (fun p => (getPart s1 p).ports.any (fun q => q.port / 8 = n) && (tilesOfMask (maskOf s1 p)).contains d.1)
    if (getPair s2 (12 + 2 * n)).severed && (getPair s2 (13 + 2 * n)).severed then severDie s2 d.2 0x33 det d.1 else s2
  else severDie s1 d.1 0x33 det

/-- The logical lane that a physical lane carries. -/
def logicalLane (x : Bundle) (lane : Nat) : Option Nat :=
  if lane = 32 then x.sp32
  else if lane = 33 then x.sp33
  else if x.sp32 == some lane || x.sp33 == some lane then none else some lane

/-- The class of the record of a retirement, if any. -/
def retireStep (x : Bundle) (lane : Nat) : Bundle × Option Nat :=
  let y := { x with lanes := x.lanes ++ [lane] }
  match logicalLane x lane with
  | none => (y, none)
  | some l =>
    match x.st with
    | .full =>
      if x.sp32.isNone && !x.lanes.contains 32 then ({ y with sp32 := some l }, some 0x30)
      else if x.sp33.isNone && !x.lanes.contains 33 then ({ y with sp33 := some l, sp32 := if lane = 32 then none else x.sp32 }, some 0x30)
      else ({ y with st := .half, half := l < 16 }, some 0x31)
    | .half => if (l < 16) = !x.half then ({ y with st := .out }, some 0x32) else (y, none)
    | _ => (y, none)

/-- A lasting lane is retired (Table 16.8). The traffic of a bundle that goes OUT moves to the pair's other bundles (R393). -/
def retireLane (s : State) (k b lane : Nat) : State :=
  let x := vget (getPair s k).bundles (Fin.ofNat 8 b)
  if x.lanes.contains lane || x.st == .out || x.st == .untrained then s
  else
    let r := retireStep x lane
    let s1 := meshRates (modPair22 s k (fun p =>
      let q := { p with bundles := vset p.bundles (Fin.ofNat 8 b) r.1, evSpared := p.evSpared || r.2 == some 0x30,
                        evHalf := p.evHalf || r.2 == some 0x31, evOut := p.evOut || r.2 == some 0x32 }
      if r.2 == some 0x32 then moveTraffic k b q else q))
    match r.2 with
    | none => s1
    | some c =>
      if c = 0x32 && pairOut (getPair s1 k) k then severPair (raiseRec s1 (bundleRec k b lane 0x33)) k b lane
      else raiseRec s1 (bundleRec k b lane c)

/-- A lane is retired in service, which Tops saves (R394); one in the unused half of a HALF bundle changes nothing. -/
def retireInService (s : State) (k b lane : Nat) : State :=
  let x := vget (getPair s k).bundles (Fin.ofNat 8 b)
  let s1 := retireLane s k b lane
  if x.lanes.contains lane || x.st == .out || x.st == .untrained || (x.st == .half && (retireStep x lane).2.isNone) then s1
  else toTops s1 (.repair (.lane k b lane))

/-! ### Lane events (R373, R392, R420) -/

/-- An event of a lane in the lane table; a lane that becomes lasting is retired. -/
def laneEvent (s : State) (k b lane : Nat) : State :=
  match cetUpdate s.dl.cet ⟨7, k * 8 + b, lane, 0, 0, 0, 0⟩ with
  | none => { s with dl := { s.dl with lost := s.dl.lost + 1 } }
  | some (t, l) =>
    let s1 := { s with dl := { s.dl with cet := t } }
    if l.isSome then retireInService s1 k b lane else s1

/-- The lane's entry is lasting at once. -/
def laneLasting (s : State) (k b lane : Nat) : State :=
  let mark := fun (t : Vector CetEntry 16) => t.map (fun e => if e.valid && e.kind = 7 && e.loc = k * 8 + b && e.addr = lane then { e with lasting := true } else e)
  let s1 := match cetUpdate s.dl.cet ⟨7, k * 8 + b, lane, 0, 0, 0, 0⟩ with
    | none => { s with dl := { s.dl with lost := s.dl.lost + 1 } }
    | some (t, _) => { s with dl := { s.dl with cet := mark t } }
  retireInService s1 k b lane

/-- The receiver of one direction discards a flit and sends a NAK in the other. -/
def dlDiscard (x : Bundle) (dir : Fin 2) : Bundle :=
  { x with rx := vmod x.rx dir (fun q => (q.1, true)), sent := x.sent ++ [(1 - dir, dlNak (vget x.rx dir).1)] }

/-- The receiver of one direction takes a DATA flit, and an IDLE flit with its ACK leaves in the other (DESIGN CHOICE, log 39). -/
def dlTake (x : Bundle) (dir : Fin 2) (seq : Nat) : Bundle :=
  { x with rx := vset x.rx dir ((seq + 1) % 4096, false), sent := x.sent ++ [(1 - dir, dlIdle seq)] }

/-- The lanes whose LCHK fails. A HALF bundle's lane j of its half carries words j and j + 16. -/
def badLanes (x : Bundle) (flit : List Byte) (lchk : List Nat) : List Nat :=
  let words := (List.range 32).filter (fun n => crc4 (leNat ((flit.drop (8 * n)).take 8)) != lchk.getD n 0)
  let phys := fun (l : Nat) => if x.sp32 == some l then 32 else if x.sp33 == some l then 33 else l
  (words.map (fun n => phys (if x.st == .half then n % 16 + (if x.half then 16 else 0) else n))).eraseDups

/-- Die links to a SEVERED die, and a severed pair, carry no traffic (R389, R390). -/
def pairDown (s : State) (k : Nat) : Bool := (getPair s k).severed || dieDown s (pairDies k).1 || dieDown s (pairDies k).2

/-- DL_FLIT_RECEIVE: a flit of 256 payload bytes and 8 header bytes, with its lanes' LCHK, at the receiver of one direction: a DATA flit
in order is taken; any other, and a damaged flit, is discarded with a NAK. What the flit acknowledges leaves the replay buffer of the
other direction's sender, and a NAK makes that sender resend (R407). -/
def execDlFlitReceive (pair : Fin 22) (b : Fin 8) (dir : Fin 2) (flit : List Byte) (lchk : List Nat) (s : State) : Out :=
  let x := vget (getPair s pair.val).bundles b
  if bundlesOf pair.val ≤ b.val || (x.st != .full && x.st != .half) || pairDown s pair.val then .next s
  else
    let hdr := leNat ((flit.drop 256).take 8)
    let typ := (hdr / 64) % 4
    let seq := (hdr / 2 ^ 20) % 4096
    let ack := (hdr / 2 ^ 8) % 4096
    let loc := 8 * pair.val + b.val
    let put := fun (y : Bundle) => modPair22 s pair.val (fun p => { p with bundles := vset p.bundles b y })
    if flit.length ≠ 264 || (crc32 (flit.take 260)).toNat ≠ hdr / 2 ^ 32 then
      let s1 := put (dlDiscard { x with crc := x.crc + 1 } dir)
      match badLanes x flit lchk with
      | [l] => .next (laneEvent s1 pair.val b.val l)
      | _ => .next s1
    else if typ = 1 then
      .next (put (if seq = (vget x.rx dir).1 then dlCovered loc (1 - dir) (dlTake x dir seq) (ack + 1) else dlDiscard x dir))
    else if typ = 2 then .next (put (dlResend (1 - dir) (dlCovered loc (1 - dir) { x with replay := x.replay + 1 } ack)))
    else if typ = 0 then .next (put (dlCovered loc (1 - dir) x (ack + 1)))
    else .next s

/-- A bundle is out of use, whatever its lanes. -/
def bundleOut (s : State) (k b : Nat) : State :=
  let x := vget (getPair s k).bundles (Fin.ofNat 8 b)
  if x.st == .out then s
  else
    let s1 := meshRates (modPair22 s k (fun p => moveTraffic k b { p with bundles := vset p.bundles (Fin.ofNat 8 b) { x with st := .out }, evOut := true }))
    if pairOut (getPair s1 k) k then severPair (raiseRec s1 (bundleRec k b 0 0x33)) k b 0 else raiseRec s1 (bundleRec k b 0 0x32)

/-- DL_LANE_LOCK_LOSS: a lane loses lock, or (none) the forwarded clock fails and every lane is lasting at once, taken in ascending
order. -/
def execDlLaneLockLoss (pair : Fin 22) (b : Fin 8) (lane : Option (Fin 34)) (s : State) : Out :=
  let x := vget (getPair s pair.val).bundles b
  if bundlesOf pair.val ≤ b.val || (x.st != .full && x.st != .half) then .next s
  else match lane with
    | some l => .next (laneLasting s pair.val b.val l.val)
    | none => .next ((List.range 34).foldl (fun a l => laneLasting a pair.val b.val l) s)

/-- BUNDLE_RETRAIN: the bundle stops until its training ends; its traffic moves to the pair's other working bundles, or is held. -/
def execBundleRetrain (pair : Fin 22) (b : Fin 8) (s : State) : Out :=
  if bundlesOf pair.val ≤ b.val then .next s
  else .next (bundleStop s pair.val b.val)

/-- BUNDLE_FULL. -/
def execBundleFull (pair : Fin 22) (b : Fin 8) (s : State) : Out :=
  if bundlesOf pair.val ≤ b.val then .next s
  else .next (modPair22 s pair.val (fun p => { p with bundles := vmod p.bundles b (fun x => { x with again := true }) }))

/-- The pair that a die stands by: a stack's and a tile's own, and both tile pairs of a link die (R390). -/
def dieServed (s : State) (d : Nat) : Bool :=
  let ok := fun (k : Nat) => !(getPair s k).severed && pairWorking (getPair s k) k != 0
  if d < 4 then ok (18 + d) else if d < 16 then ok (4 + (d - 8)) else if d < 24 then ok (12 + 2 * (d - 16)) || ok (13 + 2 * (d - 16)) else true

/-- Pairs that join a die. -/
def pairsOfDie (d : Nat) : List Nat := (List.range 22).filter (fun k => (pairDies k).1 = d || (pairDies k).2 = d)

/-- A die reset ends once the bundles of the die's present pairs have been trained or are OUT (R391). A die whose own pair has no
usable bundle is not UP again (DEDUCED, log 59). A pair without one stays severed until the next start. -/
def dieResetCheck (s0 : State) : State :=
  match s0.flt.run with
  | some r =>
    if r.unit ≠ 7 || ((pairsOfDie r.target).filter (pairPresent s0)).any (fun k => (pairBundles (getPair s0 k) k).any (fun b => b.st == .untrained)) then s0
    else
      let s := (pairsOfDie r.target).foldl (fun a k => modPair22 a k (fun p => { p with lost := p.lost || p.severed })) s0
      if !dieServed s r.target then endReset s r
      else
      let s1 := raiseRec (dieUp s r.target) { recDie r.target 0x35 0 none with reset := 7 }
      let s2 := if r.target < 4 then
          (coresByDie.filter (fun k => tileOfCore k = r.target)).foldl (fun a k => startContexts (modCore (attnAbandon a k) k (fun m => { m with xfers := [], reqs := [] })) k (List.finRange 4)) s1
        else s1
      endReset s2 r
  | none => s0

/-- A die reset trains the pair again: it may serve anew, unless an earlier one has found it without a usable bundle (R391). -/
def pairRevives (s : State) (k : Nat) : Bool :=
  !(getPair s k).lost && (match s.flt.run with | some r => r.unit = 7 && (pairsOfDie r.target).contains k | none => false)

/-- A bundle after its forwarded clock is locked: FULL with all its lanes, on the saved settings of the pair's band if it has them, they
hold and no full training was asked; what was trained is saved (R408). -/
def bundleLocked (x : Bundle) (band : Nat) (holds : Bool) : Bundle :=
  { x with st := .full, half := false, sp32 := none, sp33 := none, lanes := [], saved := holds && !x.again && x.sets.contains band,
           band := band, again := false, sets := if x.sets.contains band then x.sets else band :: x.sets }

/-- The lanes of the fuses and of earlier retirements, in order. -/
def oldLanes (s : State) (k b : Nat) : List Nat :=
  ((s.fuses.lanes.filter (fun f => f.1 = k && f.2.1 = b)).map (fun f => f.2.2) ++ (vget (getPair s k).bundles (Fin.ofNat 8 b)).lanes).eraseDups

/-- They are retired by Table 16.8: at a start with its events and records; in service a bundle takes the same spares and the same half again
(R391, R394), and its pair is severed where no other bundle is left. -/
def retireOld (s : State) (k b : Nat) (old : List Nat) : State :=
  if s.hub.phase == .b then old.foldl (fun a l => retireLane a k b l) s
  else
    let y := old.foldl (fun a l => (retireStep a l).1) (vget (getPair s k).bundles (Fin.ofNat 8 b))
    let s1 := modPair22 s k (fun q => { q with bundles := vset q.bundles (Fin.ofNat 8 b) y })
    if y.st != .out then s1
    else
      let s2 := modPair22 s1 k (moveTraffic k b)
      if pairOut (getPair s2 k) k && !(getPair s2 k).severed then severPair (raiseRec s2 (bundleRec k b 0 0x33)) k b 0 else s2

/-- BUNDLE_TRAIN_COMPLETE: the fused and earlier retired lanes are retired first, then the lanes that failed the test, which are
lasting; then flits start. Without a forwarded clock the bundle goes OUT. Saved settings that fail are followed by full training (R415). -/
def execBundleTrainComplete (pair : Fin 22) (b : Fin 8) (clock : BundleLock) (bad : List Nat) (s : State) : Out :=
  let p := getPair s pair.val
  let x := vget p.bundles b
  if bundlesOf pair.val ≤ b.val || x.st != .untrained then .next s
  else if clock = .none then .next (dieResetCheck (bundleOut s pair.val b.val))
  else
    let s1 := modPair22 s pair.val (fun q =>
      { q with bundles := vset q.bundles b (bundleLocked x p.band.band (clock = .locked)), evRetrained := q.evRetrained || s.hub.ready,
               severed := q.severed && !pairRevives s pair.val })
    let s2 := bad.foldl (fun a l => laneLasting a pair.val b.val l) (retireOld s1 pair.val b.val (oldLanes s pair.val b.val))
    let s3 := modPair22 s2 pair.val (fun q =>
      { q with bundles := vmod q.bundles b (fun y => if bundleWorks y then flitsStart (8 * pair.val + b.val) y else y) })
    .next (dieResetCheck (bandRetrain (meshRates s3) pair.val))

/-! ### Die resets (R391) -/

/-- The die is one that a die reset names: a tile, stack or link die of the assembly. -/
def resettable (s : State) (d : Nat) : Bool := (d < 4 || (8 ≤ d && d < 16) || (16 ≤ d && d < 19)) && diePresent s d

/-- A die reset starts: the die is SEVERED, its PLLs lock again, its bundles are trained again, and a tile's cores are reset. -/
def dieReset (s0 : State) (d : Nat) (tops : Bool) : State :=
  let s := modClk s0 (fun c => { c with backup := setBit32 c.backup d false, bad := c.bad.filter (fun e => e.1 != d) })
  let s1 := severDie (resetStatus (modFlt s (fun f => { f with run := some ⟨7, d, 0, false, 1, tops⟩ })) false 7 0) d 0x35 0
  let s2 := (pairsOfDie d).foldl (fun a k => modPair22 a k (fun p =>
    { p with bundles := p.bundles.map (fun x => { x with st := .untrained, tx := .replicate 2 DlTx.start }) })) s1
  meshRates (if d < 4 then (coresByDie.filter (fun k => tileOfCore k = d)).foldl stopCore s2 else s2)

/-- A request for a die reset. -/
def dieRequest (s : State) (d : Nat) : State :=
  if !resettable s d then resetStatus s true 7 2
  else
    match s.flt.run with
    | some r => if resetContains s r 7 d 0 then resetStatus s false r.unit 0 else resetStatus s true 7 1
    | none => dieReset s d false

def execResetDie (d : Nat) (s : State) : Out := .next (dieRequest s d)

/-! ### Clock monitors (R343 to R345) -/

/-- The monitor code (Table 14.6). -/
def clkCode : MonClk → Nat
  | .sysref => 0
  | .aclk _ => 1
  | .fclk => 2
  | .hclk => 3
  | .mclk => 4
  | .lane _ => 5
  | .dieLink => 6

/-- The nominal frequency, in MHz; for ACLK the level in force. -/
def clkMhz (s : State) : MonClk → Nat
  | .sysref => 100
  | .aclk r => (getRegion s r).level * 50
  | .fclk => 1750
  | .hclk => 1000
  | .mclk => 2000
  | .lane _ => 112000
  | .dieLink => 64000

/-- The window is judged: an ACLK only while it runs and no level change fell into the window; another clock until its die has switched
to the backup oscillator. -/
def clkJudged (s : State) (die : Nat) : MonClk → Bool
  | .aclk r => let g := getRegion s r; g.power == .awake && !g.moved && !g.onBackup
  | _ => !s.clk.backup.getLsbD die

/-- A count outside 75 % to 125 % of the expected one. -/
def clkOff (f count : Nat) : Bool := decide (count * 400 * 4 < 3 * 4096 * f) || decide (5 * 4096 * f < count * 400 * 4)

/-- A clock fails (R344): Taproot takes a non-maskable event for the clock of a die. -/
def clkFail (s : State) (die : Nat) (c : MonClk) : State :=
  match c with
  | .sysref => modClk (chipReset s 5) (fun x => { x with evSysref := true, evHold := true })
  | .aclk r =>
    raiseRec (modClk (modRegion s r (fun g => { g with onBackup := true }))
      (fun x => { x with evRegion := true, failDie := die, failRegion := r.val, failClock := 1, failIsRegion := true })) (recRegion s r 0x23 2 3)
  | _ =>
    if die = dieHub then chipReset s 6
    else
      let s1 := modClk s (fun x =>
        { x with evDie := true, failDie := die, failRegion := 0, failClock := clkCode c, failIsRegion := false, backup := setBit32 x.backup die true,
                 nmis := x.nmis + 1 })
      severDie (raiseRec s1 (recDie die 0x34 (clkCode c) none)) die 0x34 (clkCode c)

/-- One clock's count in a window. A window that is not judged breaks a row of windows. -/
def clkJudge (s : State) (die : Nat) (c : MonClk × Nat) : State :=
  let clear := fun (a : State) =>
    let b := modClk a (fun x => { x with bad := x.bad.filter (· != (die, c.1)) })
    match c.1 with | .aclk r => modRegion b r (fun g => { g with moved := false }) | _ => b
  if !clkJudged s die c.1 then clear s
  else
    let off := clkOff (clkMhz s c.1) c.2
    let was := s.clk.bad.contains (die, c.1)
    let s1 := modClk s (fun x => { x with bad := (if off then [(die, c.1)] else []) ++ x.bad.filter (· != (die, c.1)) })
    if c.2 = 0 || (off && was) then clkFail s1 die c.1 else s1

/-- CLOCK_MONITOR_WINDOW: a die's window ends with the counts of its clocks. -/
def execClockMonitorWindow (die : Nat) (counts : List (MonClk × Nat)) (s : State) : Out :=
  if hubRuns s then .next (counts.foldl (fun a c => clkJudge a die c) s) else .next s

/-- SYSREF_RESTORED: SYSREF has passed for 1,024 ticks, and the device leaves the reset that its loss caused (R345). -/
def execSysrefRestored (s : State) : Out :=
  if s.hub.phase = .sysref then .next (modHub (modClk s (fun c => { c with sysref := true })) (fun h => { h with phase := .start })) else .next s

end Sys2Proof.Machine
end

