-- ==== Sys2Proof/Machine/StreamParse.lean ====
section
/-!
DEFINITION. The bytes of a configuration stream (02_configuration_stream.md, R36 to R44): its header, its records and what
makes a record wrong by itself.
-/

namespace Sys2Proof.Machine

/-! ### Header and records (Table 2.2, R40) -/

structure StreamHdr where
  magic  : List Byte
  major  : Nat
  minor  : Nat
  scope  : Nat
  part   : Nat
  slot   : Nat
  count  : Nat
  body   : Nat
  seq    : Nat
  target : List Byte
  resv   : Bool
  deriving DecidableEq, Repr

def streamHdr (b : List Byte) : StreamHdr where
  magic := b.take 4
  major := blkField b 4 2
  minor := blkField b 6 2
  scope := blkField b 8 1
  part := blkField b 9 1
  slot := blkField b 10 1
  count := blkField b 12 4
  body := blkField b 16 8
  seq := blkField b 24 8
  target := (b.drop 32).take 16
  resv := blkField b 11 1 != 0 || blkField b 48 16 != 0

/-- The body cut into records by their LENGTH fields; none where it cannot be. -/
def cutRecords : Nat → List Byte → Option (List (List Byte))
  | 0, b => if b.isEmpty then some [] else none
  | n + 1, b =>
    let len := blkField b 4 4
    if b.length < 8 || len < 8 || len % 8 != 0 || b.length < len then none
    else (cutRecords n (b.drop len)).map (fun l => b.take len :: l)

/-- The records as the header states them (R40); none is BAD_LENGTH. -/
def streamRecords (len : Nat) (b : List Byte) (h : StreamHdr) : Option (List (List Byte)) :=
  if len != 64 + h.body + 178 || h.body % 8 != 0 || h.count = 0 || 65535 < h.count then none
  else cutRecords h.count ((b.drop 64).take h.body)

def streamDigest (b : List Byte) (h : StreamHdr) : List Byte := (b.drop (64 + h.body)).take 64
def streamSig (b : List Byte) (h : StreamHdr) : List Byte := (b.drop (128 + h.body)).take 114

/-! ### Records (Tables 2.3 and 2.4) -/

def recType (r : List Byte) : Nat := blkField r 0 2
/-- The types of contract 1.0. -/
def knownType (t : Nat) : Bool := 1 ≤ t && t ≤ 0x14
/-- The scopes that may carry a type. -/
def scopeAllows (scope t : Nat) : Bool :=
  if scope = 1 then (0x10 ≤ t && t ≤ 0x12) || t = 0x14
  else if scope = 2 then (1 ≤ t && t ≤ 0x0E) || t = 0x13
  else if scope = 3 then t = 7 || t = 0x0E
  else t = 0x0F

/-- A record's fields. -/
inductive Rec where
  | partition (regions : BitVec 32) (weights : List Nat)
  | route (r : RouteRec)
  | memMap (r : MemMapRec)
  | linkPort (r : LinkPortRec)
  | tree (r : TreeRec)
  | sync (r : SyncRec)
  | env (r : PowerEnv)
  | image (r : ImageRec)
  | hostWin (r : HostWinRec)
  | guestWin (r : GuestWinRec)
  | deadline (r : DeadlineRec)
  | epi (r : EpiTableRec)
  | debug (mode : Nat)
  | arb (r : ArbRec)
  | teardown
  | keyEnrol (slot : Nat) (key : List Byte)
  | keyRevoke (slot : Nat)
  | pin (r : PinClaimRec)
  | buf (r : BufClaimRec)
  | reinstate
  deriving DecidableEq, Repr

/-- The fields of a record, by its type. -/
def parseRec (r : List Byte) : Rec :=
  let f := blkField r
  match recType r with
  | 0x01 => .partition (BitVec.ofNat 32 (f 8 4)) [f 12 1, f 13 1, f 14 1, f 15 1]
  | 0x02 => .route ⟨f 8 1, f 9 1, f 10 1, f 11 1, f 12 8⟩
  | 0x03 => .memMap ⟨f 8 8, f 16 8, f 24 4, f 28 1⟩
  | 0x04 => .linkPort ⟨f 8 1, f 9 1, f 12 4⟩
  | 0x05 => .tree ⟨f 8 1, f 12 4, f 16 4, (List.range (f 9 1)).map (fun e => ⟨f (24 + 8 * e) 1, f (25 + 8 * e) 1, f (26 + 8 * e) 1, f (28 + 8 * e) 4⟩)⟩
  | 0x06 => .sync ⟨f 8 1, f 10 2, f 12 2, f 14 2⟩
  | 0x07 => .env ⟨f 8 2, f 10 2, f 12 2, f 14 2⟩
  | 0x08 => .image ⟨f 8 2, f 10 1, [f 12 4, f 16 4, f 20 4, f 24 4], (r.drop 32).take (f 28 4)⟩
  | 0x09 => .hostWin ⟨f 8 1, f 9 1, f 10 2, f 12 1⟩
  | 0x0A => .guestWin ⟨f 8 1, f 9 1, f 10 1, f 11 1, f 12 4, f 16 8, f 24 8, f 32 2⟩
  | 0x0B => .deadline ⟨f 8 2, f 10 1, f 11 1, f 12 4⟩
  | 0x0C => .epi ⟨f 8 1, f 9 1, (List.range 768).map (fun i => BitVec.ofNat 32 (f (16 + 4 * i) 4))⟩
  | 0x0D => .debug (f 8 4)
  | 0x0E => .arb ⟨f 8 1, [f 9 1, f 10 1, f 11 1, f 12 1], [f 13 1, f 14 1, f 15 1, 1]⟩
  | 0x0F => .teardown
  | 0x10 => .keyEnrol (f 8 1) ((r.drop 16).take 57)
  | 0x11 => .keyRevoke (f 8 1)
  | 0x12 => .pin ⟨f 8 1, f 9 1, f 10 1, f 11 1, f 12 4⟩
  | 0x13 => .buf ⟨f 8 2, f 10 1, f 11 1, f 12 1, f 13 1⟩
  | _ => .reinstate

/-- LENGTH of a record (Table 2.3). -/
def recLength (r : List Byte) : Nat :=
  match recType r with
  | 0x01 | 0x02 => 24
  | 0x03 => 32
  | 0x05 => 24 + 8 * blkField r 9 1
  | 0x08 => 32 + (blkField r 28 4 + 7) / 8 * 8
  | 0x0A => 40
  | 0x0C => 3088
  | 0x0F | 0x14 => 8
  | 0x10 => 80
  | _ => 16

/-- The reserved bytes of a record, as (offset, size). -/
def recReserved (r : List Byte) : List (Nat × Nat) :=
  match recType r with
  | 0x01 => [(16, 8)]
  | 0x02 => [(20, 4)]
  | 0x03 => [(29, 3)]
  | 0x04 => [(10, 2)]
  | 0x05 => [(10, 2), (20, 4)] ++ (List.range (blkField r 9 1)).map (fun e => (27 + 8 * e, 1))
  | 0x06 => [(9, 1)]
  | 0x08 => [(11, 1)]
  | 0x09 => [(13, 3)]
  | 0x0A => [(34, 6)]
  | 0x0C => [(10, 6)]
  | 0x0D => [(12, 4)]
  | 0x10 => [(9, 7), (73, 7)]
  | 0x11 => [(9, 7)]
  | 0x13 => [(14, 2)]
  | _ => []

def inRange (x lo hi : Nat) : Bool := lo ≤ x && x ≤ hi

/-- The partition's regions and how many partition core numbers it has. -/
structure RecScope where
  mask  : BitVec 32
  deriving DecidableEq, Repr

def RecScope.owns (c : RecScope) (r : Nat) : Bool := r < 32 && c.mask.getLsbD r
def RecScope.cores (c : RecScope) : Nat := 4 * regionCount c.mask

/-- A PATH field within its range (R43, R244). -/
def pathOk (r : RouteRec) : Bool :=
  r.path < 4 ^ r.hops &&
  (match walk (startAt r.src 0) (pathHops r.hops r.path) with
   | none => false
   | some l => decide l.Nodup && l.getLast? == some (startAt r.dst 0))

/-- CLASSES of a guest window (Table 2.4). -/
def guestClasses (w : GuestWinRec) : Bool := if w.kind = 2 then w.classes < 16 else w.classes &&& 0xF3 = 0

def treeOk (t : TreeRec) : Bool :=
  t.tree ≤ 7 && t.edges.length ≤ 8 && inRange t.group 1 8192 && t.rank < t.group && (t.edges.isEmpty == decide (t.group = 1)) &&
  t.edges.all (fun e => e.role ≤ 1 && e.primary ≤ 23 && (e.alternate ≤ 23 || e.alternate = 0xFF)) &&
  (t.edges.filter (fun e => e.role = 0)).length ≤ 1 &&
  (let ds := t.edges.flatMap (fun e => e.primary / 8 :: (if e.alternate = 0xFF then [] else [e.alternate / 8]))
   ds.all (fun d => d = ds.headD 0))

def envOk (e : PowerEnv) (regions : Nat) : Bool :=
  e.aclkMax % 50 = 0 && e.aclkMin % 50 = 0 && inRange e.aclkMax 350 1400 && inRange e.aclkMin 350 1400 && e.aclkMin ≤ e.aclkMax &&
  6 * regions ≤ e.watts && inRange e.ramp 1 250

def pinOk (p : PinClaimRec) : Bool :=
  p.pin ≤ 9 &&
  (if p.func = 1 then p.timer ≤ 15 && p.part = 0xFF && inRange p.period 64 (2 ^ 24)
   else p.period = 0 && p.timer = 0xFF && (if p.func = 2 then p.part ≤ 31 else p.func ≤ 4 && p.part = 0xFF))

/-- Every field of a record within its range, for the partition of the header (R43, R44, R122, R244, R272, R332). -/
def fieldsOk (c : RecScope) (len : Nat) : Rec → Bool
  | .partition m w => m != 0 && w.all (fun x => inRange x 1 16)
  | .route r => c.owns r.src && c.owns r.dst && r.src != r.dst && r.classes < 16 && inRange r.hops 1 32 && pathOk r
  | .memMap m =>
    m.va % 2 ^ 21 = 0 && m.pa % 2 ^ 21 = 0 && inRange m.pages 1 32768 && m.va + m.pages * 2 ^ 21 ≤ 2 ^ 48 &&
    m.pa + m.pages * 2 ^ 21 ≤ 2 ^ 39 && m.pa / 2 ^ 36 = (m.pa + m.pages * 2 ^ 21 - 1) / 2 ^ 36 && m.perm < 16 &&
    (m.perm < 8 || m.perm % 4 = 3)
  | .linkPort p => p.port ≤ 23 && [4, 8, 12, 16].contains p.minWidth
  | .tree t => treeOk t
  | .sync y => c.owns y.region && y.first ≤ 2047 && inRange y.count 1 2048 && y.first + y.count ≤ 2048 && (y.owner < c.cores || y.owner = 0xFFFF)
  | .env e => envOk e (regionCount c.mask)
  | .image i => i.core < c.cores && i.ctxMask < 16 && i.entry.all (fun e => e % 8 = 0 && e < 0x40000) && inRange (len - 32) 64 (2 ^ 18) &&
      i.image.length = len - 32
  | .hostWin w => w.channel ≤ 7 && inRange w.weight 1 16 && w.core < c.cores && w.context ≤ 3
  | .guestWin w =>
    w.site ≤ 1 && w.kind ≤ 2 && guestClasses w && w.window ≤ 31 && 64 ≤ w.rate && w.va % 4096 = 0 && w.len % 4096 = 0 && w.len != 0 && w.core < c.cores
  | .deadline d => d.core < c.cores && d.context ≤ 3 && d.slot ≤ 7 && 1 ≤ d.cycles
  | .epi e => inRange e.func 3 9 && e.table ≤ 15
  | .debug m => m ≤ 1
  | .arb a => c.owns a.region && a.wRouter.all (fun x => inRange x 1 16) && a.wRed.all (fun x => inRange x 1 16)
  | .keyEnrol slot _ => slot ≤ 3
  | .keyRevoke slot => slot ≤ 3
  | .pin p => pinOk p
  | .buf b => b.core < c.cores && b.context ≤ 3 && b.slot ≤ 7 && b.first ≤ 47 && inRange b.count 1 48 && b.first + b.count ≤ 48
  | .teardown => true
  | .reinstate => true

/-- A record passes the BAD_RECORD step (R40, R43). -/
def recOk (c : RecScope) (r : List Byte) : Bool :=
  r.length = recLength r && blkField r 2 1 = 1 && blkField r 3 1 = 0 && (recReserved r).all (fun p => blkField r p.1 p.2 = 0) &&
  (recType r != 8 || blkField r 28 4 % 8 = 0) && fieldsOk c r.length (parseRec r)

/-- The records that break a count or placement limit (R42), by index. -/
def limitBreakers (scope : Nat) (ts : List Nat) : List Nat :=
  let idx := fun (t : Nat) => (List.range ts.length).filter (fun i => ts.getD i 0 = t)
  let only := fun (t : Nat) => match (idx t).head? with | none => [] | some i => ((List.range ts.length).filter (· != i)).take 1
  (if scope = 2 && ts.getD 0 0 != 1 then [0] else []) ++ (idx 1).filter (· != 0) ++ ((idx 7).drop 1).take 1 ++ ((idx 0x0D).drop 1).take 1 ++
  only 0x0F ++ only 0x14

end Sys2Proof.Machine
end

