-- ==== Sys2Proof/Machine/StreamCheck.lean ====
section
/-!
DEFINITION. The checks of a configuration stream against the device, in the order of Table 2.7
(02_configuration_stream.md, R45 to R49, R51, R53, R54; 01_structure.md, R3, R15).
-/

namespace Sys2Proof.Machine

/-- A stream cut into its parts. -/
structure Strm where
  hdr    : StreamHdr
  raw    : List (List Byte)
  recs   : List Rec
  digest : List Byte
  deriving DecidableEq, Repr

/-- The records with their indices. -/
def Strm.indexed (x : Strm) : List (Nat × Rec) := (List.range x.recs.length).zip x.recs
def Strm.types (x : Strm) : List Nat := x.raw.map recType

def Strm.maps (x : Strm) : List (Nat × MemMapRec) := x.indexed.filterMap (fun e => match e.2 with | .memMap m => some (e.1, m) | _ => none)
def Strm.ports (x : Strm) : List (Nat × LinkPortRec) := x.indexed.filterMap (fun e => match e.2 with | .linkPort m => some (e.1, m) | _ => none)
def Strm.trees (x : Strm) : List (Nat × TreeRec) := x.indexed.filterMap (fun e => match e.2 with | .tree m => some (e.1, m) | _ => none)
def Strm.routes (x : Strm) : List (Nat × RouteRec) := x.indexed.filterMap (fun e => match e.2 with | .route m => some (e.1, m) | _ => none)
def Strm.guests (x : Strm) : List (Nat × GuestWinRec) := x.indexed.filterMap (fun e => match e.2 with | .guestWin m => some (e.1, m) | _ => none)
def Strm.pins (x : Strm) : List (Nat × PinClaimRec) := x.indexed.filterMap (fun e => match e.2 with | .pin m => some (e.1, m) | _ => none)

/-- REGIONS of the PARTITION record of a CREATE stream, or of the partition that exists. -/
def Strm.mask (s : State) (x : Strm) : BitVec 32 :=
  match x.recs.head? with
  | some (.partition m _) => m
  | _ => if x.hdr.part < 32 && x.hdr.scope != 1 then maskOf s (Fin.ofNat 32 x.hdr.part) else 0

/-! ### Keys (R53, R54) -/

/-- The key table after the stream. -/
def keysAfter (keys : List (List Byte)) (rs : List Rec) : List (List Byte) :=
  rs.foldl (fun a r =>
    match r with
    | .keyEnrol slot k => a.set slot k
    | .keyRevoke slot => a.set slot []
    | _ => a) keys

/-- Every key record counts as a change of the table, also a KEY_REVOKE of an empty slot and
a KEY_ENROL of the key that the slot holds (DESIGN CHOICE, log 87). -/
def changesKeys (x : Strm) : Bool := x.types.any (fun t => t = 0x10 || t = 0x11)

/-- The first enrolment of R53. -/
def firstEnrol (s : State) (x : Strm) : Bool :=
  !s.fuses.enrolled && x.hdr.scope = 1 && x.types == [0x10] &&
  (match x.recs with | [.keyEnrol slot _] => slot = x.hdr.slot && slot ≤ 3 | _ => false)

/-- The key that must have signed the stream. -/
def signerKey (s : State) (x : Strm) : Option (List Byte) :=
  if firstEnrol s x then (match x.recs with | [.keyEnrol _ k] => some k | _ => none)
  else match s.cfg.keys[x.hdr.slot]? with
    | some k => if k.isEmpty then none else some k
    | none => none

/-! ### Claims (R45, Table 2.6) -/

/-- A range of claimed indices of a kind. -/
structure Claim where
  kind : Nat
  lo   : Nat
  n    : Nat
  deriving DecidableEq, Repr

/-- What a record claims for a partition, by kind and index. -/
def claimsOf (p : Nat) : Rec → List Claim
  | .partition m _ => (regionsOfMask m).map (fun r => ⟨1, r.val, 1⟩)
  | .memMap m => [⟨2, m.pa / 2 ^ 21, m.pages⟩, ⟨0x0D, m.va / 2 ^ 21, m.pages⟩]
  | .linkPort q => [⟨3, q.port, 1⟩]
  | .hostWin w => [⟨4, p * 8 + w.channel, 1⟩]
  | .sync y => [⟨5, y.region * 2048 + y.first, y.count⟩]
  | .buf b => [⟨6, b.core * 48 + b.first, b.count⟩, ⟨0x12, b.core * 32 + b.context * 8 + b.slot, 1⟩]
  | .pin q => ⟨7, q.pin, 1⟩ :: (if q.timer = 0xFF then [] else [⟨8, q.timer, 1⟩])
  | .guestWin w => [⟨9, w.site * 2 ^ 64 + w.va / 4096, w.len / 4096⟩, ⟨0x0F, w.site * 32 + w.window, 1⟩]
  | .deadline d => [⟨0x0A, d.core * 32 + d.context * 8 + d.slot, 1⟩]
  | .epi e => [⟨0x0B, e.table, 1⟩]
  | .image i => [⟨0x0C, i.core, 1⟩]
  | .keyEnrol slot _ => [⟨0x0E, slot, 1⟩]
  | .keyRevoke slot => [⟨0x0E, slot, 1⟩]
  | .route r => ((List.range 4).filter (fun c => r.classes.testBit c)).map (fun c => ⟨0x10, (r.src * 32 + r.dst) * 4 + c, 1⟩)
  | .arb a => [⟨0x11, a.region, 1⟩]
  | _ => []

/-- The index that CFG_ERR_DETAIL reports: bits [23:0], and for a guest range the site and the page modulo 2^23. -/
def claimIndex (kind i : Nat) : Nat := if kind = 9 then (i / 2 ^ 64) * 2 ^ 23 + i % 2 ^ 23 else i % 2 ^ 24

/-- The first index that two claims share. -/
def claimMeet (a b : Claim) : Option Nat :=
  let i := max a.lo b.lo
  if a.kind = b.kind && i < a.lo + a.n && i < b.lo + b.n then some i else none

/-- Of the claims of earlier records, the one that meets this claim at the lowest index. -/
def firstMeet (c : Claim) (l : List (Nat × Claim)) : Option (Nat × Nat) :=
  l.foldl (fun best e =>
    match claimMeet c e.2, best with
    | some i, some b => if i < b.2 then some (e.1, i) else best
    | some i, none => some (e.1, i)
    | none, _ => best) none

/-- Ports that two edges of one tree name (R45; log 40). -/
def treeClash (t : TreeRec) : Option Nat :=
  let ps := t.edges.map (fun e => if e.alternate = 0xFF || e.alternate = e.primary then [e.primary] else [e.primary, e.alternate])
  let l := ps.flatten
  l.find? (fun p => 1 < l.count p)

/-- CONFLICT: the first claim, in record order, of something that an earlier claim of the stream took. Of several conflicts the one
of the earliest later record is reported, with that record's first claim and the lowest shared index (DESIGN CHOICE, log 87). -/
def conflictOf (p : Nat) (rs : List (Nat × Rec)) : Option CfgErr :=
  (rs.foldl (fun (a : Option CfgErr × List (Nat × Claim)) r =>
    match a.1 with
    | some _ => a
    | none =>
      match (match r.2 with | .tree t => treeClash t | _ => none) with
      | some q => (some { code := 0x0F, rec0 := BitVec.ofNat 32 r.1, rec1 := BitVec.ofNat 32 r.1, kind := 3, index := q }, a.2)
      | none =>
        (claimsOf p r.2).foldl (fun b c =>
          match b.1 with
          | some _ => b
          | none =>
            match firstMeet c b.2 with
            | some (i, x) => (some { code := 0x0F, rec0 := BitVec.ofNat 32 i, rec1 := BitVec.ofNat 32 r.1, kind := c.kind, index := claimIndex c.kind x }, b.2)
            | none => (none, b.2 ++ [(r.1, c)])) a) (none, [])).1

/-- What applied streams own: owner and claim. -/
def ownedClaims (s : State) : List (Nat × Claim) :=
  (liveParts s).flatMap (fun p =>
    let c := getPart s p
    (claimsOf p.val (.partition c.regions []) ++ (c.maps.flatMap (fun m => claimsOf p.val (.memMap m))).filter (fun x => x.kind = 2) ++
     c.ports.flatMap (fun q => claimsOf p.val (.linkPort q)) ++
     (c.guestWins.flatMap (fun w => claimsOf p.val (.guestWin w))).filter (fun x => x.kind = 0x0F)).map (fun x => (p.val, x))) ++
  (s.cfg.pins.filter (fun x => x.owner = .stream)).flatMap (fun x =>
    (match x.pin with | some n => [(0xFF, ⟨7, n, 1⟩)] | none => []) ++ (match x.timer with | some n => [(0xFF, ⟨8, n, 1⟩)] | none => []))

/-- OWNED: the first claim of something that an applied stream owns. -/
def ownedOf (s : State) (p : Nat) (rs : List (Nat × Rec)) : Option CfgErr :=
  let own := ownedClaims s
  rs.findSome? (fun r => (claimsOf p r.2).findSome? (fun c =>
    (firstMeet c own).map (fun m => { code := 0x10, rec0 := BitVec.ofNat 32 r.1, kind := c.kind, index := claimIndex c.kind m.2, owner := m.1 })))

/-! ### Absence and dependency -/

def dieSevered (s : State) (d : Nat) : Bool := s.flt.severed.getLsbD d
/-- A stack or link die that is gated or severed counts as absent (R33, R389; log 41). -/
def stackAbsent (s : State) (n : Nat) : Bool := 7 < n || !s.clk.enStack.getLsbD n || dieSevered s (dieStack n)
def linkAbsent (s : State) (d : Nat) : Bool := 2 < d || !s.clk.enLink.getLsbD d || dieSevered s (dieLink d)
def regionAbsent (s : State) (r : Nat) : Bool := s.flt.regionBad.getLsbD r || dieSevered s (tileOfRegion r) || !(vget s.clk.enTile (Fin.ofNat 4 (tileOfRegion r))).getLsbD 8

def poolPages (m : MemMapRec) : Nat := if m.perm.testBit 3 then m.pages * 64 else 0
/-- KV pages of the pools of applied streams. -/
def poolInUse (s : State) : Nat := ((liveParts s).map (fun p => (((getPart s p).maps.map poolPages).foldl (· + ·) 0))).foldl (· + ·) 0
/-- Windows of applied streams on a site. -/
def siteWindows (s : State) (g : Nat) : Nat :=
  ((liveParts s).map (fun p => ((getPart s p).guestWins.filter (fun w => w.site = g)).length)).foldl (· + ·) 0

/-- ABSENT_RESOURCE: the first record that uses something absent, or that exceeds the page manager's table or a site's windows
(R3, R225, R376, R411). -/
def absentOf (s : State) (rs : List (Nat × Rec)) : Option Nat :=
  (rs.foldl (fun (a : Option Nat × Nat × Nat × Nat) r =>
    match a with
    | (some i, x) => (some i, x)
    | (none, kv, w0, w1) =>
      match r.2 with
      | .partition m _ => (if (regionsOfMask m).any (fun q => regionAbsent s q.val) then some r.1 else none, kv, w0, w1)
      | .memMap m =>
        let k := kv + poolPages m
        (if stackAbsent s (m.pa / 2 ^ 36) || (m.perm.testBit 3 && 2097152 < k) then some r.1 else none, k, w0, w1)
      | .linkPort p => (if linkAbsent s (p.port / 8) then some r.1 else none, kv, w0, w1)
      | .guestWin w =>
        let x0 := if w.site = 0 then w0 + 1 else w0
        let x1 := if w.site = 1 then w1 + 1 else w1
        (if (getGuest s w.site).st != .admitted || 32 < (if w.site = 0 then x0 else x1) then some r.1 else none, kv, x0, x1)
      | _ => (none, kv, w0, w1))
    (none, poolInUse s, siteWindows s 0, siteWindows s 1)).1

/-- The record maps a staging page (R51). -/
def stagingMap (m : MemMapRec) : Bool := m.pa < 0x1000000000 && 0xFFC000000 < m.pa + m.pages * 2 ^ 21

/-- DEPENDENCY (R15): a stack or link die in no tile of the partition. -/
def dependencyOf (tiles : List Nat) (rs : List (Nat × Rec)) : Option Nat :=
  (rs.find? (fun r =>
    match r.2 with
    | .memMap m => !tiles.contains (tileOfStack (m.pa / 2 ^ 36))
    | .linkPort p => !(tilesOfLink (p.port / 8)).any (fun t => tiles.contains t)
    | _ => false)).map (fun r => r.1)

/-! ### Routes (R49, R244) -/

def regionPairs (m : BitVec 32) : List (Nat × Nat) :=
  let l := (regionsOfMask m).map (fun r => r.val)
  l.flatMap (fun a => (l.filter (· != a)).map (fun b => (a, b)))

/-- ROUTE_MISSING: the first pair of which some class has no record and whose default path is not contained. Of several failing
pairs the one with the lowest SRC, then the lowest DST region is named (DESIGN CHOICE, log 87). -/
def routeMissing (m : BitVec 32) (rs : List RouteRec) : Option (Nat × Nat) :=
  let tiles := tilesOfMask m
  (regionPairs m).find? (fun e =>
    (List.range 4).any (fun c => (routeFor rs e.1 e.2 c).isNone) &&
    !(match walk (startAt e.1 0) (defaultHops e.1 e.2) with | some l => within tiles l | none => false))

/-- ROUTE_CONTAINMENT: the path or one of its translations leaves the grid or the partition's tiles. -/
def routeOutside (tiles : List Nat) (r : RouteRec) : Bool :=
  (List.range 4).any (fun o => !(match walk (startAt r.src o) (pathHops r.hops r.path) with | some l => within tiles l | none => false))

/-! ### The tree's ports -/

/-- TREE_PORT: the first tree that names a port which no LINK_PORT record of the stream claims. -/
def treePortOf (x : Strm) : Option Nat :=
  let ok := fun (p : Nat) => x.ports.any (fun q => q.2.port = p)
  (x.trees.find? (fun t => t.2.edges.any (fun e => !ok e.primary || (e.alternate != 0xFF && !ok e.alternate)))).map (fun t => t.1)

/-- The port is UP at no less than the MIN_WIDTH of the stream's LINK_PORT record. -/
def portReady (s : State) (x : Strm) (port : Nat) : Bool :=
  port != 0xFF && (getPort s port).st == .up && x.ports.all (fun q => q.2.port != port || decide (q.2.minWidth ≤ (getPort s port).width))

/-- PORT_UNTRAINED (R273): the first edge with no usable port, by its tree's record and its primary port. -/
def untrainedOf (s : State) (x : Strm) : Option (Nat × Nat) :=
  x.trees.findSome? (fun t => (t.2.edges.find? (fun e => !portReady s x e.primary && !portReady s x e.alternate)).map (fun e => (t.1, e.primary)))

/-! ### Table 2.7 -/

def errRec (code i : Nat) : CfgErr := { code, rec0 := BitVec.ofNat 32 i }

/-- The first test of a list that holds gives the error. -/
def firstErr : List (Unit → Option CfgErr) → Option CfgErr
  | [] => none
  | f :: fs => match f () with | some e => some e | none => firstErr fs

/-- BAD_MAGIC and BAD_LENGTH, or the stream in its parts. -/
def splitStream (len : Nat) (b : List Byte) : CfgErr ⊕ Strm :=
  let h := streamHdr b
  if h.magic != [0x53, 0x54, 0x43, 0x46] then .inl { code := 0x01 }
  else match streamRecords len b h with
    | none => .inl { code := 0x03 }
    | some raw => .inr ⟨h, raw, raw.map parseRec, streamDigest b h⟩

/-- The checks from BAD_CONTRACT to STALE_SEQUENCE. -/
def verifyErr (s : State) (b : List Byte) (x : Strm) : Option CfgErr :=
  let h := x.hdr
  firstErr [
    fun _ => if h.major != 1 || 0 < h.minor then some { code := 0x02 } else none,
    fun _ => if shake256 64 (b.take (64 + h.body)) != x.digest then some { code := 0x04 } else none,
    fun _ => if (signerKey s x).isNone then some { code := 0x06 } else none,
    fun _ => if !edVerify ((signerKey s x).getD []) ctxCfg x.digest (streamSig b h) then some { code := 0x05 } else none,
    fun _ => if h.target.any (· != 0) && h.target != idPrefix then some { code := 0x07 } else none,
    fun _ => if h.seq ≤ s.cfg.floor.toNat then some { code := 0x08 } else none]

/-- The checks from OUT_OF_SERVICE to BAD_RECORD. -/
def recordErr (s : State) (x : Strm) : Option CfgErr :=
  let h := x.hdr
  let live := h.part < 32 && (getPart s (Fin.ofNat 32 h.part)).live
  let idx := List.range x.raw.length
  let lim := limitBreakers h.scope x.types
  firstErr [
    fun _ => if s.flt.oos && !(h.scope = 1 && x.types.contains 0x14) then some { code := 0x19 } else none,
    fun _ => if !inRange h.scope 1 4 || (if h.scope = 1 then h.part != 0xFF else 31 < h.part) then some { code := 0x09 } else none,
    fun _ => (idx.find? (fun i => let t := x.types.getD i 0; knownType t && !scopeAllows h.scope t)).map (errRec 0x09),
    fun _ => if (h.scope = 2 && live) || (2 < h.scope && !live) then some { code := 0x0C } else none,
    fun _ => (idx.find? (fun i => !knownType (x.types.getD i 0))).map (errRec 0x0A),
    fun _ => if h.resv then some { code := 0x0B } else none,
    fun _ => (idx.find? (fun i => lim.contains i || !recOk ⟨x.mask s⟩ (x.raw.getD i []))).map (errRec 0x0B)]

/-- The checks from ABSENT_RESOURCE to EPOCH_SPENT. -/
def claimErr (s : State) (x : Strm) : Option CfgErr :=
  let h := x.hdr
  let m := x.mask s
  let tiles := tilesOfMask m
  let rr := x.routes.map (fun r => r.2)
  let create := h.scope = 2
  firstErr [
    fun _ => (absentOf s x.indexed).map (errRec 0x0D),
    fun _ => (x.maps.find? (fun r => stagingMap r.2)).map (fun r => errRec 0x16 r.1),
    fun _ => (dependencyOf tiles x.indexed).map (errRec 0x0E),
    fun _ => (x.pins.find? (fun r => 8 ≤ r.2.pin)).map (fun r => errRec 0x14 r.1),
    fun _ => conflictOf h.part x.indexed,
    fun _ => ownedOf s h.part x.indexed,
    fun _ => (treePortOf x).map (errRec 0x13),
    fun _ => if create then (routeMissing m rr).map (fun e => { code := 0x12, index := e.1 * 32 + e.2 }) else none,
    fun _ => (x.routes.find? (fun r => routeOutside tiles r.2)).map (fun r => { code := 0x11, rec0 := BitVec.ofNat 32 r.1, index := r.2.src * 32 + r.2.dst }),
    fun _ => (x.guests.find? (fun r => r.2.kind = 2 && (vget s.sec.cert (Fin.ofNat 2 r.2.site)).isNone)).map (fun r => errRec 0x15 r.1),
    fun _ => if changesKeys x && (keysAfter s.cfg.keys x.recs).all (fun k => k.isEmpty) then some { code := 0x1B } else none,
    fun _ => if changesKeys x && !firstEnrol s x && 64 ≤ s.fuses.epoch then some { code := 0x1D } else none]

/-- PORT_UNTRAINED, at application. -/
def portErr (s : State) (x : Strm) : Option CfgErr :=
  (untrainedOf s x).map (fun e => { code := 0x1C, rec0 := BitVec.ofNat 32 e.1, index := e.2 })

/-- Every check of a fetched stream, in order. -/
def streamErr (s : State) (b : List Byte) (x : Strm) : Option CfgErr :=
  firstErr [fun _ => verifyErr s b x, fun _ => recordErr s x, fun _ => claimErr s x, fun _ => portErr s x]

end Sys2Proof.Machine
end

