-- ==== Sys2Proof/Machine/Apply.lean ====
section
/-!
DEFINITION. The life of a configuration stream (02_configuration_stream.md, R44, R46, R50 to R55; 13_trust.md, R318): its
fetch, its checks, its commit, and the claims of Tops.
-/

namespace Sys2Proof.Machine

/-! ### Guest certificates (R325) -/

/-- Acceptance ends at a site: one record for each partition that holds a KIND 2 window there, which is closed from then on. -/
def endAcceptance (s : State) (g : Nat) : State :=
  let c := vget s.sec.cert (Fin.ofNat 2 g)
  let s1 := modSec s (fun x => { x with cert := vset x.cert (Fin.ofNat 2 g) none, trial := vset x.trial (Fin.ofNat 2 g) none })
  if c.isNone then s1
  else ((liveParts s1).filter (fun p => (getPart s1 p).guestWins.any (fun w => w.site = g && w.kind = 2))).foldl
    (fun a p => raiseRec a (recDie (dieGuest g) 0x3C g (some p))) s1

/-- After a key change: a certificate whose issuer's key is gone or another ends. -/
def issuersChecked (s : State) : State :=
  (List.range 2).foldl (fun a g =>
    match vget a.sec.cert (Fin.ofNat 2 g) with
    | some c => if a.cfg.keys.getD c.issuer [] = c.issuerKey then a else endAcceptance a g
    | none => a) s

/-! ### Fetch (R51, R56, Table 2.9) -/

/-- The CFG block runs: its clock-enable bit is set, which phase D does (R342, R415). -/
def cfgServed (s : State) : Bool := hubRuns s && s.clk.enHub.getLsbD 0

/-- A stream is in progress, or waits for a fetch of Taproot to end (R323). -/
def streamBusy (s : State) : Bool := cfgBusy s || s.sec.waiting.any (fun q => match q with | .stream .. => true | _ => false)

/-- A stream of `len` bytes is served in its turn (R323). -/
def beginStream (s : State) (tops : Bool) (len : Nat) (src : Option Nat) : State :=
  serveWaiting (modSec s (fun x => { x with waiting := x.waiting ++ [.stream tops len src] }))

/-- LOAD: CFG_CMD. -/
def execLoad (s : State) : Out :=
  if !cfgServed s then .next s
  else if streamBusy s then .next (modCfg s (fun c => { c with error := 0x1A }))
  else .next (beginStream s false s.cfg.len.toNat (some (s.cfg.srcHi.toNat * 2 ^ 32 + s.cfg.srcLo.toNat)))

/-- SUBMIT_STREAM: refused with BUSY in the mailbox while a stream is in progress. -/
def execSubmitStream (len : Nat) (s : State) : Out :=
  if !topsRuns s then .next s
  else if streamBusy s then .next (toTops s (.answer 0x1A))
  else .next (beginStream s true len none)

/-- A stream ends without effect. -/
def streamFails (s : State) (e : CfgErr) : State := heldResets (cfgReject s e)

def modRun (s : State) (f : CfgRun → CfgRun) : State := modCfg s (fun c => { c with run := c.run.map f })

/-- STREAM_HEADER_FETCHED: requests for other partitions stop waiting on the stream (R381). -/
def execStreamHeaderFetched (hdr : List Byte) (s : State) : Out :=
  match s.cfg.run with
  | some r =>
    if r.wait = .fetch && r.hdr.isNone && 64 ≤ hdr.length && hdr.length ≤ r.len then
      .next (heldResets (modRun s (fun x => { x with hdr := some ((streamHdr hdr).scope, (streamHdr hdr).part) })))
    else .next s
  | none => .next s

/-- FETCH_FAULT: a read of the stream from the host at an offset fails. -/
def execFetchFault (offset : Nat) (s : State) : Out :=
  match s.cfg.run with
  | some r => if r.wait = .fetch && !r.tops && offset < r.len then .next (streamFails s { code := 0x1F, index := offset / 64 }) else .next s
  | none => .next s

/-- The dies that a stream uses (R50): those that a CREATE stream's partition will depend on, an AMEND stream's tiles, and none for a
TEARDOWN or CHIP stream (DESIGN CHOICE, log 64). -/
def streamDies (s : State) (x : Strm) : List Nat :=
  if x.hdr.scope = 2 || x.hdr.scope = 3 then
    tilesOfMask (x.mask s) ++ x.maps.map (fun m => dieStack (m.2.pa / 2 ^ 36)) ++ x.ports.map (fun p => dieLink (p.2.port / 8)) ++
    x.guests.map (fun w => dieGuest w.2.site)
  else []

/-- The first free epoch: the fuse epoch after a key change. -/
def nextEpoch (s : State) : Nat := if s.fuses.enrolled then s.fuses.epoch + 1 else 0

/-- A stream that passed its checks enters APPLY: a CREATE stream's regions are held in reset; a key change is sealed first. -/
def beginApply (s : State) (x : Strm) : State :=
  let w : CfgWait := if x.hdr.scope = 4 then .teardown else if changesKeys x then .table else .commit
  let s1 := modRun (modCfg s (fun c => { c with st := .apply })) (fun r => { r with wait := w, age := 0, dies := streamDies s x })
  let s2 := if x.hdr.scope = 2 then (regionsOfMask (x.mask s)).foldl (fun a r => modRegion a r (fun g => { g with held := true })) s1 else s1
  if changesKeys x then toTops s2 (.table 1 (sealTable (keysAfter s.cfg.keys x.recs) (nextEpoch s))) else s2

/-- STREAM_FETCH_COMPLETE: the whole stream is in staging and is checked. Its staging reads go to the controller of stack 0 (R180;
DESIGN CHOICE, log 77), which writes nothing before it has left self-refresh (R340). STATE goes from FETCH to APPLY or REJECTED: VERIFY and VALIDATE, which lie within this command, are never shown
(DESIGN CHOICE, log 81). -/
def execStreamFetchComplete (bytes : List Byte) (s : State) : Out :=
  match s.cfg.run with
  | none => .next s
  | some r =>
    if r.wait ≠ .fetch || bytes.length ≠ r.len || (getStack s 0).selfRef then .next s
    else
      let h := streamHdr bytes
      let s0 := (submitUnits (writeUnit s 0 0xFFC000000 bytes) none 0xFFC000000 bytes.length (fun _ => .taproot) none).1
      let s1 := modRun s0 (fun x => { x with bytes := bytes, hdr := some (h.scope, h.part) })
      match splitStream r.len bytes with
      | .inl e => .next (streamFails s1 e)
      | .inr x =>
        match streamErr s1 bytes x with
        | some e => .next (streamFails s1 e)
        | none => .next (heldResets (beginApply s1 x))

/-! ### The commit (R50) -/

/-- What a CREATE stream gives its partition. -/
def partOf (x : Strm) : PartCfg :=
  let c0 : PartCfg := { PartCfg.none with live := true, digest := x.digest }
  x.recs.foldl (fun c r =>
    match r with
    | .partition m w => { c with regions := m, weights := w }
    | .route y => { c with routes := c.routes ++ [y] }
    | .memMap y => { c with maps := c.maps ++ [y] }
    | .linkPort y => { c with ports := c.ports ++ [y] }
    | .tree y => { c with trees := c.trees ++ [y] }
    | .sync y => { c with syncs := c.syncs ++ [y] }
    | .env y => { c with env := some y }
    | .image y => { c with images := c.images ++ [y] }
    | .hostWin y => { c with hostWins := c.hostWins ++ [y] }
    | .guestWin y => { c with guestWins := c.guestWins ++ [y] }
    | .deadline y => { c with deadlines := c.deadlines ++ [y] }
    | .epi y => { c with epiTables := c.epiTables ++ [y] }
    | .debug m => { c with debug := m = 1 }
    | .arb y => { c with arbs := c.arbs ++ [y] }
    | .buf y => { c with bufs := c.bufs ++ [y] }
    | _ => c) c0

/-- A core of a partition that forms: its image or an empty header, its tables, queues empty, counters zero; its memories, tiles
and repairs stay (R59, R63, R122, R326). -/
def coreFormed (c : Core) (img : Option ImageRec) (tabs : List EpiTableRec) : Core :=
  { Core.reset with
    ctx := c.ctx.map (fun x => { Ctx.reset with fltCls := x.fltCls, fltAddr := x.fltAddr, syncSeq := x.syncSeq + 1 })
    nextId := c.nextId
    evFaulted := c.evFaulted
    opbuf := c.opbuf
    imem := pmStore c.imem 0 (match img with | some i => i.image | none => List.replicate 64 0)
    tiles := c.tiles
    accDiff := c.accDiff
    inbDiff := c.inbDiff
    copies := c.copies
    retired := c.retired
    cube := { Core.reset.cube with repairedRow := c.cube.repairedRow, suspect := c.cube.suspect }
    epiRegs := { Core.reset.epiRegs with tables := tabs.map (fun t => (t.table, (t.func, t.coeff))) }
    nsl := { c.nsl with evNoSpare := false, evRepaired := false, evPoisoned := false, evUncorr := false, evCorr := false, corr := 0, uncorr := 0 } }

/-- The tree of a record at the commit (Table 11.6): its edges start on the first of their ports that is usable (R273). -/
def treeFormed (s : State) (p : PartId) (x : Strm) (t : TreeRec) : Tree :=
  ⟨p, t.tree, if t.edges.isEmpty then .ready else .confirming, 0,
   t.edges.map (fun e => { edgeReset with alt := !portReady s x e.primary }), false, [], [], [], 0⟩

/-- The trees of a stream; a second record of a tree ID is not used (log 40). -/
def firstTrees : List TreeRec → List TreeRec
  | [] => []
  | t :: ts => t :: (firstTrees ts).filter (fun u => u.tree != t.tree)

/-- An earlier tenant's reset, of a unit within the regions (R385). -/
def histOf (m : BitVec 32) (p : PartId) (h : ResetHist) : Bool :=
  if h.unit = 1 then m.getLsbD (regionOf (Fin.ofNat 128 (h.target / 4)))
  else if h.unit = 2 then m.getLsbD (regionOf (Fin.ofNat 128 h.target))
  else if h.unit = 3 then m.getLsbD h.target
  else h.target = p.val

/-- The commit of a CREATE stream. Its regions start Asleep; one with a row repair in progress does so at its next idle (R167). -/
def commitCreate (s : State) (x : Strm) : State :=
  let p : PartId := Fin.ofNat 32 x.hdr.part
  let c0 := partOf x
  let c := { c0 with trees := firstTrees c0.trees }
  let m := c.regions
  let rs := regionsOfMask m
  let s1 := modPst (modPart s p (fun _ => c)) p (fun _ => PartStatus.reset)
  let s2 := rs.foldl (fun a r => modRed (modRegion a r (fun g =>
    let awake := (regionCores r).any (copiesRun s)
    { g with owner := some p, held := false, power := if awake then g.power else .asleep, volt := if awake then g.volt else 200, objs := [], waits := [], dozeTicks := 0 })) r
    (fun n => { n with held := [], seen := [], ovf := [], dead := [], rr := (0, 0) })) s1
  let s3 := (coresOfMask m).foldl (fun a k =>
    modCore a k (fun y => coreFormed y (c.images.find? (fun i => i.core = pcnOf m k)) c.epiTables)) s2
  let s4 := { s3 with
    meters := vset s3.meters p (.replicate 12 0)
    trees := s3.trees ++ c.trees.map (treeFormed s3 p x)
    routes := s3.routes ++ partEntries p m c.routes }
  let s5 := modKv s4 (fun k => { k with pages := k.pages.filter (fun e => e.1 / 2 ^ 33 != p.val) })
  let s6 := modFlt s5 (fun f =>
    { f with hist := f.hist.filter (fun h => !histOf m p h), partFaulted := setBit32 f.partFaulted p.val false, partHeld := setBit32 f.partHeld p.val false })
  let s6 := c.guestWins.foldl (fun a w => modGuest a w.site (fun x => { x with budget := vset x.budget (Fin.ofNat 32 w.window) (w.rate : Int) })) s6
  let s7 := modCfg s6 (fun g => { g with slots := tset g.slots p.val x.hdr.slot })
  (coresOfMask m).foldl (fun a k => startContexts a k (List.finRange 4)) s7

/-- The commit of an AMEND stream: its envelope and the weights of the regions it names replace the earlier ones (R45). -/
def commitAmend (s : State) (x : Strm) : State :=
  modPart s (Fin.ofNat 32 x.hdr.part) (fun c0 =>
    let c := x.recs.foldl (fun c r =>
      match r with
      | .env y => { c with env := some y }
      | .arb y => { c with arbs := c.arbs.filter (fun a => a.region != y.region) ++ [y] }
      | _ => c) c0
    { c with amends := c.amends ++ [x.digest] })

/-- A PIN_CLAIM record's claim; what Tops held of it is revoked, with a notice (R46). -/
def claimPin (s : State) (q : PinClaimRec) : State :=
  let timer := if q.timer = 0xFF then none else some q.timer
  let clash := fun (y : PinSt) => y.owner = .tops && (y.pin == some q.pin || (timer.isSome && y.timer == timer))
  let s1 := (s.cfg.pins.filter clash).foldl (fun a y => toTops a (.revoked y.pin y.timer)) s
  modCfg s1 (fun c =>
    { c with pins := c.pins.filter (fun y => !clash y) ++
              [⟨some q.pin, q.func, timer, if q.part = 0xFF then none else some q.part, q.period, .stream, 0, false⟩] })

/-- The commit of a CHIP stream. -/
def commitChip (s : State) (x : Strm) : State :=
  let s1 := (x.pins.map (fun e => e.2)).foldl claimPin s
  let s2 := modCfg s1 (fun c => { c with chipDigest := x.digest, chipSlot := some x.hdr.slot, keys := keysAfter c.keys x.recs })
  let s3 := if x.types.contains 0x14 then modFlt s2 (fun f => { f with oos := false, chipCount := 0, chipAge := 0 }) else s2
  issuersChecked s3

/-- The stream in progress, cut again from its staged bytes. -/
def stagedStream (s : State) : Option Strm :=
  match s.cfg.run with
  | none => none
  | some r => match splitStream r.len r.bytes with | .inl _ => none | .inr x => some x

/-- The commit: the floor rises, and the stream's settings take effect together. -/
def commitStream (s : State) (x : Strm) : State :=
  let s1 := modCfg s (fun c => { c with floor := BitVec.ofNat 64 x.hdr.seq })
  let s2 := if x.hdr.scope = 2 then commitCreate s1 x else if x.hdr.scope = 3 then commitAmend s1 x else commitChip s1 x
  heldResets (cfgDone s2)

/-- STREAM_COMMIT. -/
def execStreamCommit (s : State) : Out :=
  match s.cfg.run, stagedStream s with
  | some r, some x =>
    if r.wait ≠ .commit then .next s
    else match portErr s x with
      | some e => .next (streamFails s e)
      | none => .next (commitStream s x)
  | _, _ => .next s

/-- TEARDOWN_COMMIT: no reset is in progress; the partition reset of R52 starts, and requests that waited on the stream complete with
it (R381). -/
def execTeardownCommit (s : State) : Out :=
  match s.cfg.run, stagedStream s with
  | some r, some x =>
    if r.wait ≠ .teardown || s.flt.run.isSome then .next s
    else
      let s1 := modRun (modCfg s (fun c => { c with floor := BitVec.ofNat 64 x.hdr.seq })) (fun y => { y with wait := .reset })
      .next (heldResets (beginReset s1 ⟨4, x.hdr.part, 0, true, 1, false⟩))
  | _, _ => .next s

/-- TABLE_STORED: the fuse is blown, the stream commits, and the table goes to copy 0; later than 2^20 ticks the stream is rejected
(R318). -/
def execTableStored (s : State) : Out :=
  match s.cfg.run, stagedStream s with
  | some r, some x =>
    if r.wait ≠ .table then .next s
    else if 2 ^ 20 < r.age then .next (streamFails s { code := 0x18, index := 0x18 })
    else
      let e := nextEpoch s
      let t := sealTable (keysAfter s.cfg.keys x.recs) e
      let s1 := modFuses s (fun f => { f with enrolled := true, epoch := e })
      let s2 := commitStream (modSec s1 (fun y => { y with kt := .valid, table := t })) x
      .next (toTops s2 (.table 0 t))
  | _, _ => .next s

/-- TABLE_STORED_TIMEOUT. -/
def execTableStoredTimeout (s : State) : Out :=
  match s.cfg.run with
  | some r => if r.wait = .table && 2 ^ 20 ≤ r.age then .next (streamFails s { code := 0x18, index := 0x18 }) else .next s
  | none => .next s

/-- The stream before its commit, abandoned (R50, R52). A stream that still waits behind a fetch is not abandoned
(DESIGN CHOICE, log 87). -/
def abandonStream (s : State) : State :=
  match s.cfg.run with
  | some r => if r.wait = .reset then s else streamFails s { code := 0x1E }
  | none => s

/-- ABORT: CFG_CMD; ignored after the commit. -/
def execAbort (s : State) : Out := .next (abandonStream s)

/-! ### Claims of Tops (R46, R47) and the heartbeat pins (R44) -/

/-- A claim names the pin or the timer. -/
def pinNames (y : PinSt) (pin timer : Option Nat) : Bool := (pin.isSome && y.pin == pin) || (timer.isSome && y.timer == timer)

/-- CLAIM: refused for a fixed pin and for what an applied stream owns. The answer is 0, or 1 where it is refused (log 42). An earlier
claim of Tops that names the pin or the timer goes whole, both its pin and its timer (DESIGN CHOICE, log 81). -/
def execClaim (pin timer : Option Nat) (s : State) : Out :=
  if !topsRuns s then .next s
  else
    let bad := (pin.any (fun n => 7 < n)) || timer.any (fun n => 15 < n) || (pin.isNone && timer.isNone) ||
      s.cfg.pins.any (fun y => y.owner = .stream && pinNames y pin timer)
    if bad then .next (toTops s (.answer 1))
    else
      .next (toTops (modCfg s (fun c =>
        { c with pins := c.pins.filter (fun y => !pinNames y pin timer) ++ [⟨pin, 0, timer, none, 0, .tops, 0, false⟩] })) (.answer 0))

/-- RELEASE: a claim that Tops holds. -/
def execRelease (pin timer : Option Nat) (s : State) : Out :=
  if !topsRuns s then .next s
  else
    let mine := fun (y : PinSt) => y.owner = .tops && y.pin == pin && y.timer == timer
    if s.cfg.pins.any mine then .next (toTops (modCfg s (fun c => { c with pins := c.pins.filter (fun y => !mine y) })) (.answer 0))
    else .next (toTops s (.answer 1))

def modPin (s : State) (n : Nat) (f : PinSt → PinSt) : State := modCfg s (fun c => { c with pins := updIf (fun y => y.pin == some n) f c.pins })

/-- TRAY_HEARTBEAT: PERIOD ticks have passed since the last pulse began, and the pin goes low. -/
def execTrayHeartbeat (pin : Fin 8) (s : State) : Out :=
  .next (modPin s pin.val (fun y => if y.func = 1 && !y.low && y.period ≤ y.count then { y with low := true, count := 0 } else y))

/-- TRAY_HEARTBEAT_END: the pulse has lasted 16 ticks. -/
def execTrayHeartbeatEnd (pin : Fin 8) (s : State) : Out :=
  .next (modPin s pin.val (fun y => if y.func = 1 && y.low && 16 ≤ y.count then { y with low := false } else y))

end Sys2Proof.Machine
end

