-- ==== Sys2Proof/Machine/Trust.lean ====
section
/-!
DEFINITION. Firmware (13_trust.md, R308 to R325; 16_faults.md, R377, R378): images, the key table's recovery, the requests of
Tops, guest certificates, and the restart of Tops.
-/

namespace Sys2Proof.Machine

/-! ### Images (R312, Tables 13.5 and 13.6) -/

def imgBodyLen (b : List Byte) : Nat := blkField b 16 4
def imgSvn (b : List Byte) : Nat := blkField b 8 4

/-- The header of an image of a kind (1 patch, 2 Tops) is right, but for its magic; `exact` asks that nothing follows it. -/
def imgHeaderOk (kind : Nat) (exact : Bool) (b : List Byte) : Bool :=
  let n := imgBodyLen b
  let entry := blkField b 20 4
  blkField b 4 1 = kind && blkField b 5 1 ≤ 1 && blkField b 6 2 = 0 && blkField b 24 40 = 0 && n % 8 = 0 && 8 ≤ n &&
  (if kind = 1 then imgSvn b ≤ 32 && n ≤ 2 ^ 15 && entry = 0 else imgSvn b ≤ 64 && n ≤ 2 ^ 23 - 242 && entry % 8 = 0 && entry < n) &&
  (if exact then b.length = n + 242 else n + 242 ≤ b.length)

/-- The code of an image's check. -/
def imgCheck (s : State) (kind : Nat) (exact : Bool) (b : List Byte) : Nat :=
  let n := imgBodyLen b
  let d := (b.drop (64 + n)).take 64
  let key := blkField b 5 1
  if b.take 4 != [0x55, 0x49, 0x4D, 0x47] then 1
  else if !imgHeaderOk kind exact b then 2
  else if shake256 64 (b.take (64 + n)) != d then 3
  else if key = 0 && s.fuses.key0Revoked then 4
  else if !edVerify (Config.imageKey key) ctxImg d ((b.drop (128 + n)).take 114) then 5
  else if imgSvn b < (if kind = 1 then s.fuses.patchFloor else s.fuses.topsFloor) then 6
  else 0

def imgOf (slot : Nat) (b : List Byte) : Image :=
  ⟨slot, blkField b 5 1, imgSvn b, blkField b 12 4, (b.drop (64 + imgBodyLen b)).take 64⟩

/-- The body of an image, which is loaded at offset 0 of its memory. -/
def imgBody (b : List Byte) : List Byte := (b.drop 64).take (imgBodyLen b)

/-- The valid slot with the higher SVN, slot A where they are equal; and whether a slot failed. -/
def chooseSlot (s : State) (kind : Nat) (a b : List Byte) : Option Image × Bool :=
  let va := imgCheck s kind false a = 0
  let vb := imgCheck s kind false b = 0
  (if va && (!vb || imgSvn b ≤ imgSvn a) then some (imgOf 0 a) else if vb then some (imgOf 1 b) else none, !va || !vb)

/-! ### The sealed key table (R318, R319) -/

/-- A copy qualifies: MAGIC, TAG and EPOCH. -/
def copyGood (s : State) (b : List Byte) : Bool :=
  b.take 4 = [0x55, 0x4B, 0x45, 0x59] && (b.drop 272).take 32 = tableTag (b.take 272) && blkField b 4 4 = s.fuses.epoch

/-- The keys that a table holds. -/
def tableKeys (b : List Byte) : List (List Byte) :=
  (List.range 4).map (fun i => if (blkField b 8 4).testBit i then (b.drop (16 + 64 * i)).take 57 else [])

def adoptTable (s : State) (b : List Byte) : State :=
  modSec (modCfg s (fun c => { c with keys := tableKeys b })) (fun x => { x with kt := .valid, table := b.take 304 })

/-- Step 5 of the boot chain. -/
def decideTable (s : State) (c0 c1 : List Byte) : State :=
  if !s.fuses.enrolled then modSec (modCfg s (fun c => { c with keys := [[], [], [], []] })) (fun x => { x with kt := .empty, table := [] })
  else
    match [c0, c1].find? (copyGood s) with
    | some b =>
      let s1 := adoptTable s b
      [(0, c0), (1, c1)].foldl (fun a e => if copyGood s e.2 then a else toTops a (.table e.1 (b.take 304))) s1
    | none => modSec (modCfg s (fun c => { c with keys := [[], [], [], []] })) (fun x => { x with kt := .unrecovered, table := [] })

/-- The code of a table that the operator brings. -/
def tableCheck (s : State) (b : List Byte) : Nat :=
  if b.take 4 != [0x55, 0x4B, 0x45, 0x59] then 1
  else if b.length != 304 || 64 < blkField b 4 4 || 16 ≤ blkField b 8 4 || blkField b 12 4 != 0 || (List.range 4).any (fun i =>
    blkField b (73 + 64 * i) 7 != 0 || (!(blkField b 8 4).testBit i && blkField b (16 + 64 * i) 57 != 0)) then 2
  else if (b.drop 272).take 32 != tableTag (b.take 272) then 7
  else if blkField b 4 4 != s.fuses.epoch then 8
  else 0

/-! ### The boot chain (R311) -/

/-- The body of the chosen slot; nothing where none is valid. -/
def bodyOf (i : Option Image) (a b : List Byte) : List Byte :=
  match i with
  | none => []
  | some x => imgBody (if x.slot = 0 then a else b)

/-- Steps 1 to 6, from what the flash holds: the patch is loaded and its RAM locked, the Tops image copied to its code RAM and released
at ENTRY. -/
def bootChain (s : State) (f : Flash) : State :=
  let p := chooseSlot s 1 f.patchA f.patchB
  let t := chooseSlot s 2 f.topsA f.topsB
  let s1 := modSec s (fun x =>
    { x with patch := p.1, topsImg := t.1, chain := f.chain.take 4096, evImg := x.evImg || p.2 || t.2, flashTops := true, flashLife := f.life,
             tops := if t.1.isSome then .running else .noImage,
             patchRam := bodyOf p.1 f.patchA f.patchB, patchLocked := true, codeRam := bodyOf t.1 f.topsA f.topsB,
             entry := t.1.map (fun i => blkField (if i.slot = 0 then f.topsA else f.topsB) 20 4) })
  decideTable s1 f.kt0 f.kt1

/-- At start-up Tops writes a saved life count that exceeds the Tuber domain's (R367). -/
def lifeRestore (s : State) : State :=
  modThm s (fun t => { t with cycles := Vector.ofFn (fun (r : Fin 32) =>
    let c := vget t.cycles r
    { c with count := max c.count (min (s.sec.flashLife.getD r.val 0) (2 ^ 32 - 1)) }) })

/-! ### The commands of SEC (R313, R314, R319) -/

/-- Taproot answers: its boot chain has ended. -/
def taprootUp (s : State) : Bool := hubRuns s && s.sec.tops != .none

/-- COMMIT and REVOKE_KEY0: served in order of arrival. -/
def execCommit (s : State) : Out := if taprootUp s then .next (submitSvc s .commit) else .next s
def execRevokeKey0 (s : State) : Out := if taprootUp s then .next (submitSvc s .revoke) else .next s

/-- IMG_LOAD: SEC_IMG_CMD.LOAD, served in order of arrival; one that is written again before it ends is one command (DESIGN CHOICE,
log 80). -/
def execImgLoad (s : State) : Out :=
  if !taprootUp s then .next s
  else if !s.sec.imgDone then .next s
  else .next (submitSvc (modSec s (fun x => { x with imgDone := false })) .load)

/-- IMG_FETCH_COMPLETE: the image, fetched into Tops code RAM, is checked as a Tops image; its body then stands at offset 0 (log 80). The device goes
on with its start as after phase B. -/
def execImgFetchComplete (bytes : List Byte) (s : State) : Out :=
  match s.sec.imgFetch with
  | none => .next s
  | some f =>
    if s.sec.tops ≠ .noImage || bytes.length ≠ f.2 then .next s
    else
      let c := imgCheck s 2 true bytes
      let s1 := modSec s (fun x => { x with imgDone := true, imgCode := c, imgFetch := none })
      if c = 0 then
        .next (serveWaiting (lifeRestore (modHub (modSec s1 (fun x =>
          { x with tops := .recovery, topsImg := some (imgOf 2 bytes), codeRam := imgBody bytes, entry := some (blkField bytes 20 4) }))
          (fun h => { h with phase := .b }))))
      else .next (serveWaiting (modSec s1 (fun x => { x with evImg := true, codeRam := bytes })))

/-- RECOVER: SEC_KT_CMD.RECOVER, served in order of arrival. -/
def execRecover (s : State) : Out :=
  if !taprootUp s then .next s
  else if !s.sec.ktDone then .next s
  else .next (submitSvc (modSec s (fun x => { x with ktDone := false })) .recover)

/-- KT_FETCH_COMPLETE: a table that passes is adopted and handed to Tops for both copies. -/
def execKtFetchComplete (bytes : List Byte) (s : State) : Out :=
  if s.sec.ktFetch.isNone || s.sec.kt ≠ .unrecovered then .next s
  else
    let c := tableCheck s bytes
    let s1 := modSec s (fun x => { x with ktDone := true, ktCode := c, ktFetch := none })
    if c = 0 then
      let s2 := modSec (adoptTable s1 bytes) (fun x => { x with evRecovered := true })
      .next (serveWaiting (toTops (toTops s2 (.table 0 bytes)) (.table 1 bytes)))
    else .next (serveWaiting s1)

/-! ### Reports (R322) -/

/-- The function accepts requests. -/
def fnLive (s : State) : Fn → Bool
  | .pf => true
  | .vf p => (getPart s p).live

/-- DOE_REPORT. -/
def execDoeReport (fn : Fn) (req : ReportReq) (s : State) : Out :=
  if !taprootUp s then .next (respond s .retry)
  else if !fnLive s fn then .next (respond s .unsupported)
  else .next (submitSvc s (.doe fn 1 req.scope req.pad req.nonce))

/-- DOE_CHAIN. -/
def execDoeChain (req : ChainReq) (s : State) : Out :=
  if !taprootUp s then .next (respond s .retry)
  else if !fnLive s req.fn then .next (respond s .unsupported)
  else .next (submitSvc s (.doe req.fn 2 req.head.scope req.head.pad []))

/-- REPORT: for an MCTP requester. -/
def execReport (req : ReportReq) (s : State) : Out :=
  if topsRuns s then .next (submitSvc s (.mctp false 1 req.scope req.pad req.nonce)) else .next s

/-! ### Requests of Tops (R310, R333, R380) -/

/-- The answer to a request: 0, or 1 where it is refused without effect. -/
def topsAnswer (s : State) (ok : Bool) : State := toTops s (.answer (if ok then 0 else 1))

/-- POWER_CAP: a value out of range is ignored. -/
def execPowerCap (v : Nat) (s : State) : Out :=
  if topsRuns s then .next (topsAnswer (setCap s v) (500 ≤ v && v ≤ 2500)) else .next s

/-- A RESET request of Tops: units 1 to 5. -/
def topsReset (s : State) (unit target ctx : Nat) : State :=
  if unit = 5 then chipReset s 2
  else if 1 ≤ unit && unit ≤ 4 then
    let s1 := unitRequest s unit target ctx true
    topsAnswer s1 (s1.flt.stCode = 0)
  else topsAnswer s false

/-- RESET_REQUEST. -/
def execResetRequest (unit target ctx : Nat) (s : State) : Out :=
  if topsRuns s then .next (topsReset s unit target ctx) else .next s

/-! ### Tops itself (R309, R377, R378) -/

/-- A reset that Tops requested and that waits on a stream is abandoned (R377 step 2). FLT_RESET_STATUS reads DONE where no other request
waits (log 76). -/
def dropTopsResets (s : State) : State :=
  let l := s.flt.held.filter (fun r => !r.tops)
  modFlt s (fun f => { f with held := l, stDone := f.stDone || (l.isEmpty && f.held.any (fun r => r.tops) && f.run.isNone) })

/-- Tops is restarted from its verified copy, and its requests in progress are abandoned; the fourth restart of a window is a chip
reset, before which the record of its cause is written (R377). -/
def restartTops (s : State) : State :=
  let fresh := s.flt.topsCount = 0 || 2 ^ 24 ≤ s.flt.topsAge
  let n := if fresh then 1 else min 4 (s.flt.topsCount + 1)
  let s1 := modFlt s (fun f => { f with topsCount := n, topsAge := if fresh then 0 else f.topsAge })
  if 4 ≤ n then chipReset (writeAll s1) 8
  else
    let s2 := modSec s1 (fun x =>
      { x with tops := .restarting, evRestart := true, waiting := x.waiting.filter (fun q => match q with | .mctp .. => false | .stream tops _ _ => !tops | _ => true) })
    let s3 := modCfg (dropTopsResets s2) (fun c => { c with pins := c.pins.filter (fun y => y.owner != .tops) })
    match s3.cfg.run with
    | some r => if r.tops then abandonStream s3 else s3
    | none => s3

/-- The restarted Tops runs again: the state its image gives it. -/
def topsBack (s : State) : State :=
  if s.sec.tops = .restarting then modSec s (fun x => { x with tops := if x.topsImg.any (fun i => i.slot = 2) then .recovery else .running }) else s

/-- Bytes are written into Tops data RAM. -/
def writeTopsData (s : State) (off : Nat) (b : List Byte) : State := modSec s (fun x => { x with dataRam := memWriteBytes x.dataRam off b })

/-- A record that names the hub. -/
def recHub (cls detail : Nat) (addr : Nat) : FaultRec := { recDie dieHub cls detail none with address := BitVec.ofNat 64 addr }

/-- HEARTBEAT_CHECK: at every tick that is a multiple of 2^16. -/
def execHeartbeatCheck (s : State) : Out :=
  if s.tick % 2 ^ 16 ≠ 0 || !taprootUp s then .next s
  else
    let s1 := modFlt s (fun f => { f with lastBeat := f.heartbeat })
    if topsRuns s && s.flt.heartbeat = s.flt.lastBeat then .next (restartTops (raiseRec s1 (recHub 0x42 0 0))) else .next s1

/-- The check bits that a 64-byte block of a hub memory holds with its bytes (R158, R308). A block whose stored bytes and check bits differ
so that R159 corrects it reads as it was; the event of one that does not decode is HUB_MEM_UNCORRECTABLE (log 85). -/
def hubCheckBits (block : List Byte) : BitVec 72 := checkBits block

/-- HUB_MEM_UNCORRECTABLE: a block of a hub memory (Table 13.1) does not decode. Without an image no Tops runs that could be
restarted. -/
def execHubMemUncorrectable (m : HubMem) (s : State) : Out :=
  if !taprootUp s then .next s
  else match m with
    | .rom | .patch | .data => .next (chipReset s 4)
    | .topsCode => .next (chipReset (writeAll (raiseRec s (recHub 0x43 1 0))) 7)
    | .topsData => .next ((if s.sec.tops = .noImage then id else restartTops) (raiseRec s (recHub 0x43 0 0)))

/-! ### Guest certificates (R324, R325) -/

/-- The fields that step 1 and step 2 check. -/
def certGood (s : State) (b : List Byte) : Bool :=
  let d := (b.drop 104).take 64
  let t := (b.drop 24).take 16
  let key := s.cfg.keys.getD (blkField b 6 1) []
  b.length = 282 && b.take 4 = [0x55, 0x47, 0x53, 0x54] && blkField b 4 2 = 1 && blkField b 7 1 = 1 && blkField b 97 7 = 0 &&
  (t.all (· == 0) || t = idPrefix) && blkField b 6 1 ≤ 3 && !key.isEmpty && shake256 64 (b.take 104) = d &&
  edVerify key ctxGcrt d ((b.drop 168).take 114)

def setTrial (s : State) (g : Fin 2) (t : Option (GuestCert × List Byte × Nat)) : State := modSec s (fun x => { x with trial := vset x.trial g t })
def certReject (s : State) (g : Fin 2) : State := modSec (setTrial s g none) (fun x => { x with evReject := true })

/-- GUEST_CERT_OFFER: the certificate is checked and a challenge from the entropy source is sent. -/
def execGuestCertOffer (g : Fin 2) (cert : List Byte) (s : State) : Out :=
  if !taprootUp s || (getGuest s g.val).st ≠ .admitted then .next s
  else if !certGood s cert then .next (certReject s g)
  else
    let c : GuestCert := ⟨blkField cert 6 1, true, (cert.drop 8).take 16, (cert.drop 40).take 57, s.cfg.keys.getD (blkField cert 6 1) []⟩
    let ch := (List.range 32).map (fun i => Config.entropyByte (s.freeCtr + i))
    .next (setTrial (modGuest { s with freeCtr := s.freeCtr + 32 } g.val (fun x => { x with side := x.side ++ [ch] })) g (some (c, ch, 0)))

/-- GUEST_CHALLENGE_RESPONSE: within 2^16 ticks, the guest's signature over the challenge and its ID. -/
def execGuestChallengeResponse (g : Fin 2) (sig : List Byte) (s : State) : Out :=
  match vget s.sec.trial g with
  | none => .next s
  | some (c, ch, age) =>
    if age ≤ 2 ^ 16 && s.cfg.keys.getD c.issuer [] = c.issuerKey && edVerify c.pub ctxGst (shake256 64 (ch ++ c.id)) sig then
      .next (modSec (setTrial s g none) (fun x => { x with cert := vset x.cert g (some c), evAccept := true }))
    else .next (certReject s g)

/-- GUEST_CHALLENGE_TIMEOUT. -/
def execGuestChallengeTimeout (g : Fin 2) (s : State) : Out :=
  match vget s.sec.trial g with
  | some (_, _, age) => if 2 ^ 16 ≤ age then .next (certReject s g) else .next s
  | none => .next s

end Sys2Proof.Machine
end

