-- ==== Sys2Proof/Machine/Bringup.lean ====
section
/-!
DEFINITION. Supplies, PERST_N, the phases of bring-up, field-repair records and the Tuber tick (17_package.md, R400, R401,
R404, R405, R411, R414 to R416; 16_faults.md, R376, R386 to R388; 15_thermal.md, R362, R363).
-/

namespace Sys2Proof.Machine

/-! ### Supplies (R400, R404, R362, R388) -/

def stackHard (t : Stack) : Stack :=
  { Stack.reset with hard := t.hard, repaired := t.hard, pprUsed := t.hard.foldl (fun u e => tset u e.1 (tget 0 u e.1 + 1)) [] }

/-- The correctable-error tables lie in the Tuber domain (R329): a power cycle alone clears them (R175, R205). -/
def regionStandby (g : Region) : Region := { Region.reset with cet := g.cet, cetLost := g.cetLost }
def stackStandby (t : Stack) : Stack := { stackHard t with cet := t.cet }

/-- Every rail but the Tuber rail is off: what is left is the Tuber domain (R329), the fuses, what Tops keeps in flash and what has
left the device. PERST_N is low until the board releases it (R404). -/
def powerOff (s : State) (ph : Phase) : State :=
  { State.reset with
    regions := s.regions.map regionStandby
    stks := s.stks.map stackStandby
    irqs := s.irqs
    resps := s.resps
    hostWrites := s.hostWrites
    ports := s.ports.map (fun x => { LinkPort.reset with sets := x.sets })
    flt := fltKept s.flt
    fuses := s.fuses
    cfg := { Cfg.reset with floor := s.cfg.floor }
    sec := { Sec.reset with out := s.sec.out }
    pwr := pwrKept s.pwr
    clk := { Clk.reset with code := s.clk.code }
    thm := thmKept s.thm
    pairs := s.pairs.map pairKept
    dl := s.dl
    hub := { Hub.reset with phase := ph, vaux := s.hub.vaux, vin := s.hub.vin, perst := true, cycleReq := s.hub.cycleReq,
                            needCycle := s.hub.needCycle, lowVin := s.hub.lowVin, powered := false, booting := false }
    tick := s.tick
    freeCtr := s.freeCtr
    pending := s.pending }

/-- What a power cycle clears of the Tuber domain: the correctable-error tables and the sequence floor (R41, R175, R205, R420). -/
def cycleClear (s : State) : State :=
  { s with regions := State.reset.regions, stks := s.stks.map stackHard, cfg := Cfg.reset, dl := State.reset.dl }

/-- VAUX_UP: the Tuber domain leaves reset on the fused trim. -/
def execVauxUp (s : State) : Out :=
  if s.hub.vaux then .next s
  else .next (modClk (modHub s (fun h => { h with vaux := true, phase := .noVin })) (fun c => { c with code := Config.trimCode }))

/-- VAUX_LOSS: the Tuber domain is cleared with its latches, masks, counts and pins. -/
def execVauxLoss (s : State) : Out :=
  if !s.hub.vaux then .next s
  else
    let a := cycleClear (powerOff s .noVaux)
    .next { a with
      flt := Flt.reset
      thm := Thm.reset
      pwr := { Pwr.reset with pin := s.pwr.pin }
      hub := { a.hub with vaux := false, vin := false, cycleReq := false, needCycle := false, lowVin := false }
      tick := 0 }

/-- VIN_UP: VIN reaches 11.4 V. The shutdown latch clears if VIN had been below 6 V (R362). The rails start unless a latch or R400 keeps the device off. -/
def execVinUp (s : State) : Out :=
  if s.hub.vin then .next s
  else
    let latch := s.thm.latch && !s.hub.lowVin
    let ok := s.hub.vaux && !s.hub.needCycle && !latch
    .next (modHub (modThm s (fun t => { t with latch := latch })) (fun h =>
      { h with vin := true, lowVin := false, powered := ok, phase := if ok then .perst else h.phase }))

/-- VIN_FAIL: VIN below 9.5 V for 10 µs. -/
def execVinFail (s : State) : Out :=
  if !s.hub.vin then .next s
  else .next (modHub (powerOff s (if s.hub.vaux then .noVin else .noVaux)) (fun h => { h with vin := false, needCycle := true }))

/-- VIN_BELOW_6V: for 100 ms; CYCLE_REQ_N is released, and a power cycle's clearing is done. -/
def execVinBelow6v (s : State) : Out :=
  let a := cycleClear (powerOff s (if s.hub.vaux then .noVin else .noVaux))
  .next { a with
    hub := { a.hub with vin := false, cycleReq := false, needCycle := false, lowVin := true } }

/-- SHUTDOWN_RAILS_OFF: after a trip the rails are off until the latch clears. -/
def execShutdownRailsOff (s : State) : Out :=
  if s.thm.latch && s.hub.powered then .next (powerOff s .noVin) else .next s

/-- PERST_ASSERT: PERST_N low for 10 µs is a chip reset with cause 9. -/
def execPerstAssert (s : State) : Out :=
  let s1 := modHub s (fun h => { h with perst := true })
  if s.hub.powered then .next (chipReset s1 9) else .next s1

/-- PERST_RELEASE: bring-up begins with phase A. -/
def execPerstRelease (s : State) : Out :=
  let s1 := modHub s (fun h => { h with perst := false })
  if s.hub.powered && s.hub.phase == .perst then .next (modHub s1 (fun h => { h with phase := .start, booting := true, bootAge := 0 }))
  else .next s1

/-! ### Phases A to C (R415) -/

/-- PHASE_A: rails and PLLs are up and SYSREF has passed for 1,024 ticks. -/
def execPhaseA (s : State) : Out :=
  if s.hub.powered && s.hub.phase == .start then .next (modHub (modClk s (fun c => { c with sysref := true })) (fun h => { h with phase := .a }))
  else .next s

/-- What the completion of a chip reset does (R386, R387, R419). -/
def chipResetDone (s : State) : State :=
  let s1 := if s.hub.afterReset then mgmtEvent s .chipReset else s
  let s2 :=
    if s.flt.chipCounted && s.flt.chipCount = 3 && !s.flt.oos then
      mgmtEvent (raiseRec (fltEvent (modFlt s1 (fun f => { f with oos := true })) .oos) (recHub 0x45 0 0)) .outOfService
    else s1
  modFlt (modHub s2 (fun h => { h with booting := false, afterReset := false })) (fun f => { f with chipCounted := false })

/-- The saved settings of links count only under this device's identity prefix; without any the start is one of full training (R415). -/
def settingsRead (s : State) (owner : List Byte) : State :=
  if owner = idPrefix then modHub s (fun h => { h with fullStart := false })
  else modHub { s with pairs := s.pairs.map (fun p => { p with bundles := p.bundles.map (fun x => { x with sets := [] }) }),
                       ports := s.ports.map (fun x => { x with sets := [] }) } (fun h => { h with fullStart := true })

/-- PHASE_B: the boot chain. `link` is what the PCI Express link trained to (Table 12.10); `romBad` says that the ROM check finds an uncorrectable block (R388); `addr` is SMB_ADDR. -/
def execPhaseB (flash : Flash) (romBad : Bool) (addr : BitVec 2) (link : PcieLink) (s : State) : Out :=
  if s.hub.phase ≠ .a then .next s
  else if romBad then .next (modHub s (fun h => { h with cycleReq := true }))
  else
    let s0 := modHst s (fun h => { h with width := link.width.val, speed := link.speed.val, flit := link.flit })
    let b := bootChain s0 flash
    let s1 := modClk (settingsRead (if b.sec.tops = .running then lifeRestore b else b) flash.owner) (fun c => { c with enHub := c.enHub ||| 2 })
    .next (chipResetDone (modHub s1 (fun h => { h with smbAddr := addr, phase := if s1.sec.tops = .noImage then .noImage else .b })))

/-- A bundle of the pair has not been trained yet. -/
def pairUntrained (s : State) (k : Nat) : Bool := (pairBundles (getPair s k) k).any (fun b => b.st == .untrained)

/-- PHASE_C: every bundle of every present pair has been trained or is OUT. Tops saves and clears the record of a shutdown
(R363). -/
def execPhaseC (s : State) : Out :=
  if s.hub.phase ≠ .b || (List.range 22).any (fun k => pairPresent s k && pairUntrained s k) then .next s
  else
    let links := (List.range 3).foldl (fun (m : Nat) d =>
      if diePresent s (dieLink d) && dieServed s (dieLink d) && !s.flt.severed.getLsbD (dieLink d) then m + 2 ^ d else m) 0
    let s1 := modClk s (fun c => { c with enLink := BitVec.ofNat 3 links })
    let s2 := if s.thm.tripValid then modThm (toTops s1 (.trip s.thm.tripSensor s.thm.tripTemp)) (fun t => { t with tripValid := false, tripSensor := 0, tripTemp := 0 }) else s1
    .next (modHub s2 (fun h => { h with phase := .c, fieldWait := true, fieldAge := 0 }))

/-! ### The fuse map and field-repair records (R414) -/

/-- The fuse map: the cores presented, their repaired rows; SRAM and near-slice redirections start afresh. -/
def applyFuses (s : State) : State :=
  let s1 := { s with near := s.near.map (fun n => { n with moved := [], used := [], copies := [] }) }
  let s2 := (List.finRange 32).foldl (fun a r =>
    let l := vget s.fuses.cores r
    modRegion a r (fun g => { g with fusePhys := Vector.ofFn (fun (i : Fin 4) => l.getD i.val 0) })) s1
  let s3 := (List.finRange 128).foldl (fun a k =>
    let f := tget 9 s.fuses.cubeRows ((regionOf k).val * 5 + (vget (getRegion a (regionOf k)).fusePhys (Fin.ofNat 4 (localOf k))).val)
    modCore a k (fun c => { c with retired := [], copies := [], cube := { c.cube with repairedRow := if f < 9 then some f else none, suspect := false } })) s2
  modHub s3 (fun h => { h with applied := .replicate 32 0 })

/-- The cores that a region presents: those of the fuse map, in local order. -/
def presented (s : State) (r : RegionId) : List (Fin 5) := (vget (getRegion s r).fusePhys 0 :: [vget (getRegion s r).fusePhys 1, vget (getRegion s r).fusePhys 2, vget (getRegion s r).fusePhys 3]).take (vget s.fuses.cores r).length

/-- The logical core that presents a physical core. -/
def logicalOf (s : State) (r k : Nat) : Option CoreId :=
  if r < 32 then ((presented s (Fin.ofNat 32 r)).findIdx? (fun x => x.val = k)).map (fun l => coreOf r l) else none

/-- The record is applied to a region. -/
def countApplied (s : State) (r : Nat) : State := modHub s (fun h => { h with applied := vmod h.applied (Fin.ofNat 32 r) (· + 1) })

/-- A skipped record of a core (types 1 and 2) marks it (R101). -/
def skipCore (s : State) (r k : Nat) : State × Bool :=
  match logicalOf s r k with
  | some c => (modCore s c (fun m => { m with cube := { m.cube with suspect := true } }), false)
  | none => (s, false)

/-- One record: the state after it, and whether it was applied. -/
def applyRecord (s : State) : FieldRec → State × Bool
  | .coreOut r k =>
    match logicalOf s r k with
    | none => (s, false)
    | some c =>
      if (presented s (Fin.ofNat 32 r)).any (fun x => x.val = 4) then skipCore s r k
      else
        let f := tget 9 s.fuses.cubeRows (r * 5 + 4)
        (countApplied (modCore (modRegion s (Fin.ofNat 32 r) (fun g => { g with fusePhys := vset g.fusePhys (Fin.ofNat 4 (localOf c)) 4 })) c
          (fun m => { m with cube := { m.cube with repairedRow := if f < 9 then some f else none, suspect := false } })) r, true)
  | .cubeRow r k row =>
    match logicalOf s r k with
    | none => (s, false)
    | some c =>
      if 8 < row || (getCore s c).cube.repairedRow.isSome then skipCore s r k
      else (countApplied (modCore s c (fun m => { m with cube := { m.cube with repairedRow := some row } })) r, true)
  | .nearRow r k layer bank row =>
    match logicalOf s r k with
    | none => (s, false)
    | some c =>
      let b := layer * 16 + bank
      let n := getNear s c
      if 3 < layer || 15 < bank || 8191 < row || n.moved.any (fun e => e.1 = b * 8192 + row) then (s, false)
      else match freeSpare n b with
        | none => (s, false)
        | some sp => (countApplied (modNear s c (fun x => { x with moved := tset x.moved (b * 8192 + row) sp, used := (b * 64 + sp) :: x.used })) r, true)
  | .sramRow r k kind row =>
    match logicalOf s r k with
    | none => (s, false)
    | some c =>
      let m := getCore s c
      let rows := if kind = 1 then 6144 else if kind = 2 then 512 else 256
      if kind = 0 || 4 < kind || rows ≤ row || sramSpares kind ≤ sramUsed m kind || m.retired.any (fun x => x.kind = kind && x.row = row) then (s, false)
      else (countApplied (modCore s c (fun x => { x with retired := x.retired ++ [⟨kind, row, sramUsed m kind⟩] })) r, true)
  | .stackPpr n ch bank row =>
    let b := ch * 64 + bank
    let t := getStack s n
    if 7 < n || !diePresent s (dieStack n) || 31 < ch || 63 < bank || 16383 < row then (s, false)
    else if t.hard.contains (b, row) then (s, true)
    else if t.repaired.contains (b, row) then (modStack s n (fun x => { x with hard := x.hard ++ [(b, row)] }), true)
    else if 2 ≤ tget 0 t.pprUsed b then (s, false)
    else (modStack s n (fun x => { x with hard := x.hard ++ [(b, row)], repaired := x.repaired ++ [(b, row)], pprUsed := tset x.pprUsed b (tget 0 x.pprUsed b + 1) }), true)
  | .lane pair b l =>
    let x := vget (getPair s pair).bundles (Fin.ofNat 8 b)
    if 21 < pair || bundlesOf pair ≤ b || 33 < l || !pairPresent s pair then (s, false)
    else if x.lanes.contains l then (s, true)
    else if x.st == .out then (s, false)
    else (retireLane s pair b l, true)
  | .sensorMask id =>
    let d := siteOfSensor id
    let die := if d < 192 then 0 else if d < 216 then dieStack ((d - 192) / 3) else if d < 224 then dieStack (d - 216) else if d < 233 then dieLink ((d - 224) / 3) else 0
    if 300 < id || !diePresent s die then (s, false)
    else if (getSensor s id).masked then (s, true)
    else (modThm (maskSensor s id true) (fun t => { t with evMasked := true }), true)
  | .other => (s, false)

/-- The records in order, with the status written into each: 0 applied, 1 skipped. -/
def applyRecords (s : State) (l : List FieldRec) : State × List Nat :=
  l.foldl (fun (a : State × List Nat) r => let x := applyRecord a.1 r; (x.1, a.2 ++ [if x.2 then 0 else 1])) (s, [])

/-- The 16 bytes of a record (R414, Table 17.12). Bytes 4 to 7 of STACK_PPR hold, from bit 0, a stack of 3 bits, a channel of 5, a bank
of 6 and the row (DESIGN CHOICE, log 66). -/
def fieldRecOf (b : List Byte) : FieldRec :=
  let r := blkField b 2 1
  let k := blkField b 3 1
  match blkField b 0 1 with
  | 1 => .coreOut r k
  | 2 => .cubeRow r k (blkField b 4 1)
  | 3 => .nearRow r k (blkField b 4 1) (blkField b 5 1) (blkField b 6 2)
  | 4 => .sramRow r k (blkField b 4 1) (blkField b 5 2)
  | 5 => let x := blkField b 4 4; .stackPpr (x % 8) (x / 2 ^ 3 % 32) (x / 2 ^ 8 % 64) (x / 2 ^ 14)
  | 6 => .lane (blkField b 4 1) (blkField b 5 1) (blkField b 6 1)
  | 7 => .sensorMask (blkField b 4 2)
  | _ => .other

/-- The last 64 KiB of Tops data RAM: the records from its start on, its count word in its last four bytes (DESIGN CHOICE, log 66). -/
def fieldArea : Nat := 2 ^ 23 - 2 ^ 16
def fieldCountAt : Nat := 2 ^ 23 - 4

/-- The records that bytes hold, 16 bytes each. -/
def fieldRecords (b : List Byte) : List (List Byte) := (List.range (b.length / 16)).map (fun i => (b.drop (16 * i)).take 16)

/-- A record with the status that Taproot writes into byte 1. -/
def withStatus (b : List Byte) (st : Nat) : List Byte := b.take 1 ++ BitVec.ofNat 8 st :: b.drop 2

/-- FIELD_REPAIR_COUNT_WORD: Tops has written the records, 16 bytes each, and then their count. -/
def execFieldRepairCountWord (recs : List Byte) (s : State) : Out :=
  if s.hub.phase ≠ .c || !s.hub.fieldWait then .next s
  else
    let l := fieldRecords recs
    let s1 := writeTopsData (writeTopsData s fieldArea recs) fieldCountAt (leBytes 4 l.length)
    let r := applyRecords (applyFuses s1) (l.map fieldRecOf)
    let s2 := writeTopsData (modHub r.1 (fun h => { h with fieldWait := false })) fieldArea (l.zipWith withStatus r.2).flatten
    .next (toTops s2 (.fields r.2))

/-- FIELD_REPAIR_TIMEOUT: no count word within 2^20 ticks. -/
def execFieldRepairTimeout (s : State) : Out :=
  if s.hub.phase ≠ .c || !s.hub.fieldWait || s.hub.fieldAge < 2 ^ 20 then .next s
  else .next (modHub (applyFuses s) (fun h => { h with fieldWait := false }))

/-! ### Phases D to G -/

/-- The tile has a working hub pair and is not severed. -/
def tileUp (s : State) (t : Nat) : Bool := dieServed s (dieTile t) && !s.flt.severed.getLsbD (dieTile t)

/-- A region without four good cores is bad (R376). -/
def markBad (s : State) (r : RegionId) : State :=
  if 4 ≤ (vget s.fuses.cores r).length then s
  else raiseRec (modFlt s (fun f => { f with regionBad := setBit32 f.regionBad r true })) (recRegion s r 0x27 2 3)

/-- The cores of a tile with a core block: those that a good region presents. -/
def tileCores (s : State) (t : Nat) : BitVec 32 :=
  BitVec.ofNat 32 (((List.finRange 128).filter (fun k => tileOfCore k = t && !s.flt.regionBad.getLsbD (regionOf k))).foldl (fun (a : Nat) k => a + 2 ^ coreInTile k) 0)

/-- PHASE_D: bad regions are marked, with records by die and region; the other hub units and the tiles with a working hub pair are enabled. -/
def execPhaseD (s : State) : Out :=
  if s.hub.phase ≠ .c || s.hub.fieldWait then .next s
  else
    let s1 := regionsByDie.foldl markBad s
    .next (modHub (modClk s1 (fun c =>
      { c with enHub := 0xFF, enTile := Vector.ofFn (fun (t : Fin 4) => if tileUp s1 t.val then 0x1FF else 0),
               enCores := Vector.ofFn (fun (t : Fin 4) => if tileUp s1 t.val then tileCores s1 t.val else 0) })) (fun h => { h with phase := .d }))

/-- The MARCH of phase E over every row of every present stack: it leaves the pattern there (DESIGN CHOICE, log 78). -/
def phaseMarch (s : State) : State :=
  (List.range 8).foldl (fun a n =>
    if (siteMask s).getLsbD n then modStack a n (fun t =>
      { t with mem := (tgAll 4 (Config.marchPattern % 7) (BitVec.allOnes 32) 0 16383 t).mem,
               acts := t.acts + BitVec.ofNat 64 (tgActs 4 (BitVec.allOnes 32) 0 16383) }) else a) s

/-- PHASE_E: `stacks` are the stacks that trained. At a full-training start that follows a power cycle the MARCH has run (R415).
Phase F begins: ports of enabled link dies and fitted guest sites train. -/
def execPhaseE (stks : BitVec 8) (s : State) : Out :=
  if s.hub.phase ≠ .d then .next s
  else
    let on := (List.range 8).foldl (fun (m : Nat) n =>
      if stks.getLsbD n && (siteMask s).getLsbD n && dieServed s (dieStack n) && !s.flt.severed.getLsbD (dieStack n) then m + 2 ^ n else m) 0
    let s0 := if s.hub.cold && s.hub.fullStart then phaseMarch s else s
    let s1 := modClk s0 (fun c => { c with enStack := BitVec.ofNat 8 on })
    let s2 := (List.range 24).foldl (fun a p => if s.clk.enLink.getLsbD (p / 8) then trainStart a p else a) s1
    let s3 := (List.range 2).foldl (fun a g => if s.fuses.fitted.getLsbD g then modGuest a g (fun x => { x with st := .training, rail := true }) else a) s2
    .next (modHub s3 (fun h => { h with phase := .e, cold := false }))

/-- PHASE_F: every port and guest site has been trained or has failed. -/
def execPhaseF (s : State) : Out :=
  if s.hub.phase ≠ .e || s.ports.toList.any (fun x => x.st == .training) || s.guests.toList.any (fun x => x.st == .training) then .next s
  else .next (modHub s (fun h => { h with phase := .f }))

/-- PHASE_G: READY is driven high. -/
def execPhaseG (s : State) : Out :=
  if s.hub.phase ≠ .f then .next s else .next (modHub s (fun h => { h with phase := .g, ready := true }))

/-! ### The Tuber tick (R165, R186, R270, R318, R325, R338, R340, R386, R388, R414, R420) -/

def ageEntry (e : CetEntry) : CetEntry := if e.valid then { e with age := min (2 ^ 20) (e.age + 1) } else e
def ageTable (t : Vector CetEntry 16) : Vector CetEntry 16 := t.map ageEntry

/-- The ages of a tick. -/
def tickAges (s : State) : State :=
  { s with
    tick := s.tick + 1
    stks := Vector.ofFn (fun (n : Fin 8) =>
      let t := vget s.stks n
      { t with cet := ageTable t.cet, idleTicks := if stackUnused s n.val then min 1024 (t.idleTicks + 1) else 0 })
    regions := Vector.ofFn (fun (r : Fin 32) =>
      let g := vget s.regions r
      { g with cet := ageTable g.cet, dozeTicks := if g.power == .dozing && regionIdle s r then g.dozeTicks + 1 else 0 })
    dl := { s.dl with cet := ageTable s.dl.cet }
    ports := s.ports.map (fun x => { x with repAge := min (2 ^ 16) (x.repAge + 1) })
    flt := { s.flt with chipAge := min (2 ^ 28) (s.flt.chipAge + 1), topsAge := min (2 ^ 24) (s.flt.topsAge + 1) }
    cfg := { s.cfg with
      run := s.cfg.run.map (fun r => { r with age := r.age + 1 })
      pins := s.cfg.pins.map (fun y => if y.func = 1 then { y with count := y.count + 1 } else y) }
    sec := { s.sec with trial := s.sec.trial.map (fun t => t.map (fun x => (x.1, x.2.1, x.2.2 + 1))) }
    hub := { s.hub with
      bootAge := if s.hub.booting && (hubRuns s || s.hub.phase == .sysref) then s.hub.bootAge + 1 else s.hub.bootAge
      fieldAge := if s.hub.fieldWait then s.hub.fieldAge + 1 else 0 } }

/-- TUBER_TICK: the Tuber domain runs while VAUX is present. -/
def execTuberTick (s : State) : Out := if s.hub.vaux then .next (topsBack (tickAges s)) else .next s

end Sys2Proof.Machine
end

