-- ==== Sys2Proof/Machine/Guest.lean ====
section
/-!
DEFINITION. Guest sites and Husk (17_package.md, R410 to R412): admission, the checks of a guest's frames, their effect, and
the rate budgets.
-/

namespace Sys2Proof.Machine

/-! ### Admission (R411) -/

/-- A guest site goes DOWN; its frames that have not passed Husk, and its reads, are lost with the link. -/
def guestDown (s : State) (g : Nat) : State :=
  modGuest s g (fun x =>
    { x with st := .down, evDown := true, rate := 0, modules := 0, x8 := 0, held := [], dma := [], heldCyc := x.heldCyc + heldPart s x })

/-- The guest rail, in mV: at its fused voltage of 0.70 V, 0.75 V or 0.80 V while it is on (Tables 17.9, 17.11). -/
def guestRailMv (s : State) (g : Nat) : Nat :=
  if (getGuest s g).rail then 700 + 50 * (vget s.fuses.guestRail (Fin.ofNat 2 g)).val else 0

/-- A link in service is lost: acceptance ends and the guest die is SEVERED. The record of its loss carries the class of a severed pair
and the hub as the other die: Table 16.2 has no code for a guest's link (DEDUCED, log 45). -/
def guestLost (s : State) (g : Nat) : State := severDie (endAcceptance (guestDown s g) g) (dieGuest g) 0x33 (dieHub * 2048)

/-- An IDENT block: 64 bytes, zero from byte 7 on. -/
def identOk (b : List Byte) : Bool := b.length = 64 && (b.drop 7).all (· == 0)

/-- GUEST_IDENT: the block arrives over the sideband of a trained link with its rate, one of the six of Table 17.9 from code 1 on, its
modules in use, 1 to 4 from code 0 on, and the modules at ×8. -/
def execGuestIdent (g : Fin 2) (ident : List Byte) (rate : Fin 6) (modules : Fin 4) (x8 : BitVec 4) (s : State) : Out :=
  let x := getGuest s g.val
  if x.st != .training || !x.rail then .next s
  else if !identOk ident then .next (guestDown s g.val)
  else
    .next (dieUp (modGuest s g.val (fun y =>
      { y with st := .admitted, evAdmitted := true, ident := ident.take 7, rate := rate.val + 1, modules := modules.val + 1, x8 := x8 })) (dieGuest g.val))

/-- GUEST_TRAIN_TIMEOUT: a step of admission fails or exceeds its limit. -/
def execGuestTrainTimeout (g : Fin 2) (s : State) : Out :=
  if (getGuest s g.val).st == .training then .next (guestDown s g.val) else .next s

/-- GUEST_LINK_DOWN: an admitted guest's link goes down. -/
def execGuestLinkDown (g : Fin 2) (s : State) : Out :=
  if (getGuest s g.val).st == .admitted then .next (guestLost s g.val) else .next s

/-- A fitted site is admitted anew, from step 2; the retraining ends acceptance (R325). -/
def guestRetrain (s : State) (g : Nat) : State :=
  if !s.fuses.fitted.getLsbD g || (getGuest s g).st == .absent then s
  else endAcceptance (modGuest s g (fun x => { x with st := .training, rate := 0, modules := 0, x8 := 0 })) g

/-- GUEST_RETRAIN: GST_Ss_CTL.RETRAIN. -/
def execGuestRetrain (g : Fin 2) (s : State) : Out := .next (guestRetrain s g.val)

/-- GUEST_POWER_FAULT: the guest rail above 40 W is switched off. -/
def execGuestPowerFault (g : Fin 2) (s : State) : Out :=
  let x := getGuest s g.val
  if !x.rail then .next s
  else
    let s1 := modGuest s g.val (fun y => { y with rail := false, evPower := true })
    .next (if x.st == .admitted then guestLost s1 g.val else guestDown s1 g.val)

/-! ### Husk's checks (R412) -/

/-- A frame as Table 17.10 gives it: 64 bytes to 4 KiB of payload, in units of 64 bytes. -/
def frameOk (f : GuestFrame) : Bool := f.data.length % 64 = 0 && 64 ≤ f.data.length && f.data.length ≤ 4096 && f.window < 256 && f.cls < 256

/-- The window that a number names at a site: an applied record, with its partition. A KIND 2 window is closed while no
certificate is accepted (R325). -/
def huskWindow (s : State) (g w : Nat) : Option (PartId × GuestWinRec) :=
  (liveParts s).findSome? (fun p =>
    ((getPart s p).guestWins.find? (fun x => x.site = g && x.window = w && (x.kind ≠ 2 || (vget s.sec.cert (Fin.ofNat 2 g)).isSome))).map (fun x => (p, x)))

def memoryKind (k : Nat) : Bool := k = 3 || k = 5

/-- The windows' KINDs that allow a frame's kind. No window allows a kind that goes to a guest (0x02, 0x04, 0x06, 0x0F) or one that is
not used. -/
def kindAllows (frame win : Nat) : Bool :=
  if frame = 1 then win = 0 || win = 2 else if memoryKind frame then win = 1 || win = 2 else (frame = 7 || frame = 8) && win = 2

/-- The class of a frame is one of its window's; a message is of class CTRL, REQ or RSP, and SYNC_ADD needs SYNC (log 44). -/
def classAllows (f : GuestFrame) (w : GuestWinRec) : Bool :=
  f.cls < 4 && w.classes.testBit f.cls && (f.kind != 8 || w.classes.testBit 1) && !((f.kind = 1 || f.kind = 7) && f.cls = 1)

/-- The sync object that a frame names, for the window's core (R72; log 46). -/
def guestObj (s : State) (p : PartId) (w : GuestWinRec) (h : Nat) : Option (RegionId × Nat) :=
  match handleObj (maskOf s p) h with
  | some (r, o) => if syncAllowed (getPart s p) w.core r o then some (r, o) else none
  | none => none

/-- The context that a message names: of the window's core for MBOX_SEND, of any core for MESH_MSG. -/
def guestDst (s : State) (p : PartId) (w : GuestWinRec) (f : GuestFrame) : Option (BitVec 16) :=
  if f.kind = 1 then some (BitVec.ofNat 16 (w.core * 4 + f.dst.toNat % 4))
  else match endOfId s p f.dst with | some (.ctx _ _) => some f.dst | _ => none

/-- What the first two checks find: the window, or the cause of the ERROR frame. -/
def huskCheck (s : State) (g : Nat) (f : GuestFrame) : Except Nat (PartId × GuestWinRec) :=
  match huskWindow s g f.window with
  | none => .error 1
  | some (p, w) =>
    if memoryKind f.kind && w.len < f.addr + f.data.length then .error 2
    else if !kindAllows f.kind w.kind then .error 3
    else if !classAllows f w then .error 4
    else if f.kind = 7 && (guestDst s p w f).isNone then .error 2
    else if f.kind = 8 && (guestObj s p w f.addr).isNone then .error 2
    else .ok (p, w)

/-- A frame is dropped as a violation. -/
def huskDrop (s : State) (g : Nat) (f : GuestFrame) (cause : Nat) : State :=
  modGuest (toGuest s g (guestErr cause f.tag)) g (fun x =>
    { x with viol := x.viol + 1, evViol := true, vioWindow := f.window, vioKind := f.kind, vioCause := cause })

/-! ### What a frame does -/

/-- A message enters the hub's buffer for its receiver and goes out. -/
def guestMessage (s : State) (g : Nat) (p : PartId) (dst : BitVec 16) (f : GuestFrame) : State :=
  let m : GuestMsg := ⟨(getGuest s g).nextId, p, dst, f.tag, f.cls, f.data, false⟩
  guestForward (modGuest s g (fun x => { x with nextId := x.nextId + 1, msgs := x.msgs ++ [m] })) g m

/-- The ranges of one memory access, as (place in it, stack physical address, length); none where a page is unmapped or lacks
the permission. -/
def dmaRanges (c : PartCfg) (write : Bool) : Nat → Nat → Nat → Nat → Option (List (Nat × Nat × Nat))
  | 0, _, _, n => if n = 0 then some [] else none
  | fuel + 1, off, va, n =>
    if n = 0 then some []
    else
      match mapOf c va with
      | none => none
      | some m =>
        if !m.perm.testBit (if write then 1 else 0) then none
        else
          let t := min n (m.va + m.pages * 0x200000 - va)
          (dmaRanges c write fuel (off + t) (va + t) (n - t)).map (fun l => (off, physOf m va, t) :: l)

/-- A memory access is translated and its units go to the stack controllers. -/
def guestAccess (s : State) (g : Nat) (p : PartId) (w : GuestWinRec) (f : GuestFrame) : State :=
  let read := f.kind = 3
  match dmaRanges (getPart s p) (!read) 3 0 (w.va + f.addr) f.data.length with
  | none => toGuest s g (guestErr 6 f.tag)
  | some l =>
    let id := (getGuest s g).nextId
    let d : GuestDma := ⟨id, p, f.window, f.tag, read, if read then List.replicate f.data.length 0 else [], 0, false⟩
    let s1 := modGuest s g (fun x => { x with nextId := x.nextId + 1, dma := x.dma ++ [d] })
    let r := l.foldl (fun (a : State × Nat) q =>
      let u := submitUnits a.1 (some p) q.2.1 q.2.2 (fun o => .guest g id (q.1 + o)) (if read then none else some ((f.data.drop q.1).take q.2.2))
      (u.1, a.2 + u.2)) (s1, 0)
    modGuest r.1 g (fun x => { x with dma := updIf (fun y => y.id = id) (fun y => { y with waits := r.2 }) x.dma })

/-- A frame that has passed: its payload is charged and counted, and it has its effect. -/
def huskPass (s : State) (g : Nat) (p : PartId) (w : GuestWinRec) (f : GuestFrame) : State :=
  let n := f.data.length
  let s1 := modGuest s g (fun x =>
    { x with budget := vmod x.budget (Fin.ofNat 32 w.window) (· - (n : Int)), inBytes := x.inBytes + BitVec.ofNat 64 n })
  if memoryKind f.kind then guestAccess s1 g p w f
  else if f.kind = 8 then
    match guestObj s1 p w f.addr with
    | some (r, o) => meshSend s1 ⟨.guest g, .sync r, 1, .syncAdd o (f.tag.setWidth 32)⟩
    | none => s1
  else
    match guestDst s1 p w f with
    | some d => guestMessage s1 g p d f
    | none => s1

/-- A frame at Husk; none where its window's budget holds it. A partition under reset absorbs it (R383). -/
def huskFrame (s : State) (g : Nat) (f : GuestFrame) : Option State :=
  match huskCheck s g f with
  | .error c => some (huskDrop s g f c)
  | .ok (p, w) =>
    if partResetting s p then some (toGuest s g (guestErr 5 f.tag))
    else if vget (getGuest s g).budget (Fin.ofNat 32 w.window) ≤ 0 then none
    else some (huskPass s g p w f)

/-- A frame as its bytes give it (Table 17.10): the header, little-endian fields, then its payload units. -/
def guestFrameOf (b : List Byte) : GuestFrame :=
  let n := 64 * (leNat ((b.drop 3).take 1) + 1)
  ⟨leNat (b.take 1), leNat ((b.drop 1).take 1), leNat ((b.drop 2).take 1), BitVec.ofNat 16 (leNat ((b.drop 4).take 2)),
   BitVec.ofNat 16 (leNat ((b.drop 6).take 2)), leNat ((b.drop 8).take 8), (b.drop 16).take n⟩

/-- The 16-byte header of a frame. -/
def guestHeader (f : GuestFrame) : List Byte :=
  [BitVec.ofNat 8 f.kind, BitVec.ofNat 8 f.window, BitVec.ofNat 8 f.cls, BitVec.ofNat 8 (f.data.length / 64 - 1)] ++ leBytes 2 f.tag.toNat ++
    leBytes 2 f.dst.toNat ++ leBytes 8 f.addr

/-- The frames that wait at a site, in order, until one is held. -/
def huskRun (s : State) (g : Nat) : List GuestFrame → State
  | [] => modGuest s g (fun x => { x with held := [] })
  | f :: fs =>
    match huskFrame s g f with
    | some a => huskRun a g fs
    | none => modGuest s g (fun x => { x with held := f :: fs, heldNew := x.heldNew || x.held.isEmpty })

/-- A frame of a guest arrives at an admitted site: it waits behind a frame that is held. -/
def guestFrame (s : State) (g : Nat) (f : GuestFrame) : State :=
  if !hubRuns s || (getGuest s g).st != .admitted || !frameOk f then s else huskRun s g ((getGuest s g).held ++ [f])

/-- Any bytes of a guest: a frame of a kind that no window allows is dropped as a violation. -/
def guestBytes (s : State) (g : Nat) (b : List Byte) : State := guestFrame s g (guestFrameOf b)

def execMboxSend (g : Fin 2) (w cls : Nat) (tag dst : BitVec 16) (data : List Byte) (s : State) : Out :=
  .next (guestFrame s g.val ⟨1, w, cls, tag, dst, 0, data⟩)
def execMeshMsg (g : Fin 2) (w cls : Nat) (tag dst : BitVec 16) (data : List Byte) (s : State) : Out :=
  .next (guestFrame s g.val ⟨7, w, cls, tag, dst, 0, data⟩)
def execDmaWr (g : Fin 2) (w cls : Nat) (tag : BitVec 16) (addr : Nat) (data : List Byte) (s : State) : Out :=
  .next (guestFrame s g.val ⟨5, w, cls, tag, 0, addr, data⟩)
/-- DMA_RD: of `units` + 1 units of 64 bytes, which count as its payload. -/
def execDmaRd (g : Fin 2) (w cls : Nat) (tag : BitVec 16) (addr : Nat) (units : Fin 64) (s : State) : Out :=
  .next (guestFrame s g.val ⟨3, w, cls, tag, 0, addr, List.replicate (64 * (units.val + 1)) 0⟩)
def execGuestSyncAdd (g : Fin 2) (w cls : Nat) (tag : BitVec 16) (addr : Nat) (data : List Byte) (s : State) : Out :=
  .next (guestFrame s g.val ⟨8, w, cls, tag, 0, addr, data⟩)

/-- DMA_RD_DATA: the `i`-th access of a site, a read whose units have returned, is answered at its partition's grant. -/
def execDmaRdData (g : Fin 2) (i : Nat) (s : State) : Out :=
  match (getGuest s g.val).dma[i]? with
  | none => .next s
  | some d =>
    if !d.read || d.waits ≠ 0 then .next s
    else
      match guestTurn s g.val d.part with
      | none => .next s
      | some s1 =>
        .next (toGuest (modGuest s1 g.val (fun x => { x with dma := x.dma.eraseIdx i })) g.val
          (if d.bad then guestErr 6 d.tag else ⟨4, d.window, 3, d.tag, 0, 0, d.data⟩))

/-- HUSK_BUDGET_REFILL: at a multiple of 1,024 FCLK cycles each applied window's budget becomes min(budget + RATE, RATE), and
held frames go on. A frame held since the refill before has been held for 1,024 cycles. -/
def execHuskBudgetRefill (g : Fin 2) (s : State) : Out :=
  let ws := (liveParts s).flatMap (fun p => (getPart s p).guestWins.filter (fun w => w.site = g.val))
  let s1 := modGuest s g.val (fun x =>
    { x with budget := ws.foldl (fun b w => vmod b (Fin.ofNat 32 w.window) (fun v => min (v + (w.rate : Int)) (w.rate : Int))) x.budget })
  let x := getGuest s1 g.val
  let s2 := modGuest s1 g.val (fun x =>
    { x with heldCyc := x.heldCyc + (if x.held.isEmpty then 0 else if x.heldNew then heldPart s x else 1024), heldNew := false })
  .next (huskRun (if x.heldNew && !x.held.isEmpty then (drawFree s2).1 else s2) g.val x.held)

end Sys2Proof.Machine
end

