-- ==== Sys2Proof/Machine/RegsCore.lean ====
section
/-!
DEFINITION. What the registers of a core's block and of a region's block read as (01_structure.md, R31 to R33; 03_cores.md,
R81; 04_cube_array.md, R103; 05_accumulation.md, R127; 06_streams.md, R154; 07_near_slices.md, R174, R175; 09_attention.md,
R233; 10_mesh_sync_reduction.md, R261, R262; 16_faults.md, R396). A block is a table of offsets, as the spec prints it.
-/

namespace Sys2Proof.Machine

/-- A register: a word, or the low or the high half of a 64-bit counter (R6). -/
inductive RegV where
  | word (n : Nat)
  | lo (c : BitVec 64)
  | hi (c : BitVec 64)
  deriving DecidableEq, Repr

/-- The registers of a block by their offset; an offset that is not listed is reserved. -/
abbrev RegTab := List (Nat × RegV)

def regAt (t : RegTab) (off : Nat) : Option RegV := (t.find? (fun e => e.1 = off)).map (fun e => e.2)

/-- A field of a register: `v` at bit `lo`. -/
def fld (v lo : Nat) : Nat := v * 2 ^ lo
/-- A flag at a bit. -/
def flg (b : Bool) (lo : Nat) : Nat := if b then 2 ^ lo else 0
/-- Event bits, bit 0 first. -/
def evBits : List Bool → Nat
  | [] => 0
  | b :: bs => b.toNat + 2 * evBits bs
def wd (off n : Nat) : RegTab := [(off, .word n)]
/-- A counter at two consecutive offsets. -/
def cnt (off : Nat) (c : BitVec 64) : RegTab := [(off, .lo c), (off + 4, .hi c)]
/-- What a count of cycles, or of what moves between two commands, has gained since it was cleared: the model has no clock, so
the number is free (log 53). -/
def elapsed (s : State) : BitVec 64 := Config.freeWord s.freeCtr
/-- A table of `n` registers at `step`. -/
def regRow (off step n : Nat) (f : Nat → Nat) : RegTab := (List.range n).map (fun i => (off + i * step, .word (f i)))

/-! ### CORE (Tables 3.17, 3.18) -/

def ctxCode : CtxState → Nat
  | .halted => 0
  | .ready => 1
  | .running => 2
  | .blocked => 3
  | .faulted => 4

/-- Wait codes (Table 3.4); SPR_ISSUE and COL_ISSUE wait with code 6 (R190, R277). -/
def waitCode : Wait → Nat
  | .none => 0
  | .recv .. => 1
  | .sync => 2
  | .strmWait _ | .strmSwap _ | .strmGo _ => 3
  | .tensor _ => 4
  | .queue => 5
  | .send _ | .hpost _ | .sprIssue | .colIssue _ => 6
  | .fence | .sprFence => 7
  | .task => 8
  | .yield => 9

def ctxStateWord (s : State) (k : CoreId) (c : CtxId) : Nat :=
  let x := getCtx s k c
  let st := ctxShown s k c
  let w := if st == .blocked then waitCode x.wait else if st == .ready && x.wait == .yield then 9 else 0
  fld (ctxCode st) 29 + flg x.handler 28 + flg x.task.isSome 27 + fld w 23 + x.pc.toNat

/-- KiB of a context's inbox quarter in use; a KiB in part use counts (DESIGN CHOICE, log 74). -/
def quarterKib (s : State) (k : CoreId) (c : CtxId) : Nat := (quarterUsed s k c true + quarterUsed s k c false + 1023) / 1024

def coreIdWord (s : State) (k : CoreId) : Nat :=
  match partOfCore s k with
  | some p => fld p.val 24 + fld (pcnOf (maskOf s p) k) 16 + k.val
  | none => fld 0xFF 24 + fld 0xFF 16 + k.val

def coreStatusWord (s : State) (k : CoreId) : Nat :=
  flg (getCore s k).hdrFault 7 + flg (imageOf s k).isSome 6 + flg (debugMode s k) 5 +
  (match runningCtx s k with | some c => 2 ^ c.val | none => 0)

def ctxTab (s : State) (k : CoreId) (c : CtxId) : RegTab :=
  let x := getCtx s k c
  let o := 0x10 + c.val * 0x10
  wd o (ctxStateWord s k c) ++ wd (o + 4) (fld x.fltCls.toNat 24 + x.fltAddr.toNat) ++ cnt (o + 8) x.ret

def coreTab (s : State) (k : CoreId) : RegTab :=
  let m := getCore s k
  wd 0x00 (coreIdWord s k) ++ wd 0x04 (coreStatusWord s k) ++ wd 0x08 m.evFaulted.toNat ++
  (List.finRange 4).flatMap (ctxTab s k) ++ cnt 0x50 (m.idle + elapsed s) ++ cnt 0x58 m.switches ++
  wd 0x60 (fld (quarterKib s k 3) 24 + fld (quarterKib s k 2) 16 + fld (quarterKib s k 1) 8 + quarterKib s k 0)

/-! ### CUBE (Tables 4.8, 4.9) -/

def cubeTab (m : Core) : RegTab :=
  let x := m.cube
  wd 0x00 (fld (if x.repairedRow.isSome then 19 else 18) 24 + flg x.repairedRow.isSome 23 + fld (x.repairedRow.getD 0xF) 19 +
    fld 16 11 + fld 8 6 + fld 4 2) ++
  wd 0x04 (flg x.suspect 7 + flg x.chkOff 6 + flg (m.passes.any (fun p => p.replay)) 5) ++
  wd 0x08 (evBits [x.evParity, x.evTransient, x.evPersist]) ++
  wd 0x0C (fld x.lastKind 28 + fld x.lastRow 24 + fld x.lastCol 20 + fld x.lastCtx 18 + fld x.lastAcc 15 + flg x.lastLasting 14) ++
  cnt 0x10 x.passes ++ cnt 0x18 x.unchk ++ cnt 0x20 x.trans ++ cnt 0x28 x.busy

/-! ### EPI (Tables 5.8, 5.9) -/

def epiTab (m : Core) : RegTab :=
  let x := m.epiRegs
  let fn := fun t => (tget (0xFF, []) x.tables t).1
  wd 0x00 (match m.epi with | some e => 2 ^ 7 + fld e.op.ctx.val 5 + fld e.acc 2 | none => 0) ++
  wd 0x04 (evBits [x.evSat, x.evNanLost, x.evRange]) ++
  regRow 0x08 4 4 (fun n => fld (fn (4 * n + 3)) 24 + fld (fn (4 * n + 2)) 16 + fld (fn (4 * n + 1)) 8 + fn (4 * n)) ++
  cnt 0x18 x.ops ++ cnt 0x20 x.sat ++ cnt 0x28 x.drop

/-! ### STRM (Tables 6.10, 6.11) -/

/-- STRM_SLOTcs. CODE and CAUSE read 0 while the transfer is active (the note to Table 6.11), and phases count from 0. Without a current
transfer only RT can read 1 (DESIGN CHOICE, log 71). -/
def strmSlotWord (s : State) (k : CoreId) (i : Nat) : Nat :=
  let c : CtxId := Fin.ofNat 4 (i / 8)
  flg (slotDeadline s k c (i % 8)).isSome 18 +
  (match currentXfer s k c (i % 8) with
   | none => 0
   | some x => (if xferActive x then 0 else fld x.code 28 + fld x.cause 20) + flg (xferActive x) 19 + flg x.rbit 17 + fld (sideCode x.side1) 15 +
       fld (sideCode x.side0) 13 + (x.phase - 1) % 2 ^ 13)

def strmTab (s : State) (k : CoreId) : RegTab :=
  let m := getCore s k
  let x := m.strm
  wd 0x00 (fld (activeCount s k) 28 + fld (inFlight m) 20) ++
  wd 0x04 (evBits [x.evBadDesc, x.evAbort, x.evCancel, x.evDlMiss]) ++
  regRow 0x10 4 4 (fun c => (getCtx s k (Fin.ofNat 4 c)).dlMiss.toNat) ++
  cnt 0x20 x.chgStk ++ cnt 0x28 x.chgHst ++ cnt 0x30 x.chgNsl ++ cnt 0x38 x.chgMsh ++ cnt 0x40 x.use ++
  regRow 0x100 4 32 (strmSlotWord s k)

/-! ### NSL (Tables 7.6, 7.7) -/

/-- The fewest unused spare rows in any bank of a near slice. -/
def nearSparesMin (n : Near) : Nat :=
  (n.used.map (fun u => 64 - (n.used.filter (fun v => v / 64 = u / 64)).length)).foldl min 64

/-- The region's near slices are in self-refresh (Tables 14.4, 14.5). -/
def nslSelfRefresh (g : Region) : Bool := g.power == .asleep || (g.power == .waking && g.wakeFrom == .asleep)

def nslTab (s : State) (k : CoreId) : RegTab :=
  let n := (getCore s k).nsl
  let g := getRegion s (regionOf k)
  wd 0x00 (fld g.band 30 + flg (nslSelfRefresh g) 29 + flg (!(getNear s k).copies.isEmpty) 28 + fld (nearSparesMin (getNear s k)) 20) ++
  wd 0x04 (evBits [n.evCorr, n.evUncorr, n.evPoisoned, n.evRepaired, n.evNoSpare]) ++
  wd 0x08 (fld n.layer.toNat 14 + fld n.bank.toNat 10 + fld n.block.toNat 5) ++
  wd 0x0C (fld n.sr.toNat 24 + fld n.scWeight 17 + fld n.scFirst 11 + fld n.outcome 8 + flg n.done 0) ++
  regRow 0x10 4 16 (fun i => (vget n.tdata (Fin.ofNat 16 i)).toNat) ++
  regRow 0x50 4 3 (fun i => (vget n.tchk (Fin.ofNat 3 i)).toNat) ++
  cnt 0x60 n.corr ++ cnt 0x68 n.uncorr ++ wd 0x70 n.repairs.toNat

/-! ### ATT (Tables 9.15, 9.16) -/

def attTab (m : Core) : RegTab :=
  let x := m.att
  wd 0x00 (match m.attn with
    | some a => 2 ^ 31 + fld a.op.ctx.val 29 + flg (atThin a.block) 28 + fld (atMode a.block) 26 + a.blk % 2 ^ 24
    | none => 0) ++
  wd 0x04 (evBits [x.evDropped, x.evSat, x.evFault, x.evNanRow, x.evEmptyRow]) ++
  cnt 0x08 x.cmds ++ cnt 0x10 x.blocks ++ cnt 0x18 x.thin

/-- A register of a core's 64 KiB block (Table 1.10). -/
def coreBlockReg (s : State) (k : CoreId) (off : Nat) : Option RegV :=
  let o := off % 0x2000
  match off / 0x2000 with
  | 0 => regAt (coreTab s k) o
  | 1 => regAt (cubeTab (getCore s k)) o
  | 2 => regAt (epiTab (getCore s k)) o
  | 3 => regAt (strmTab s k) o
  | 4 => regAt (nslTab s k) o
  | 5 => regAt (attTab (getCore s k)) o
  | _ => none

/-! ### A region's block (R261, R262, R175, R396, R29) -/

/-- An applied stream of the region's partition claims the object. -/
def objClaimed (s : State) (r : RegionId) (n : Nat) : Bool :=
  match partOfRegion s r with
  | none => false
  | some p => (getPart s p).syncs.any (fun q => q.region = r.val && q.first ≤ n && n < q.first + q.count)

/-- SYNC_OBJn at its place 0 to 3; zero for an object that no applied stream claims. -/
def objWord (s : State) (r : RegionId) (n i : Nat) : Nat :=
  let x := getObj s r n
  if !objClaimed s r n then 0
  else match i with
    | 0 => x.count.toNat
    | 1 => x.target.toNat
    | 2 => fld (stateCode x.state) 30 + flg x.notify.isSome 29 + flg true 28 +
        (match x.notify with | some q => fld (q.dst.toNat % 512) 16 + q.tag.toNat | none => 0)
    | _ => x.record.toNat

def syncReg (s : State) (r : RegionId) (off : Nat) : Option RegV :=
  let g := getRegion s r
  if off < 0x8000 then some (.word (objWord s r (off / 16) (off % 16 / 4)))
  else regAt (wd 0x8000 g.waits.length ++ cnt 0x8008 g.syncOps) off

def redNodeTab (s : State) (r : RegionId) : RegTab :=
  let n := vget s.red r
  let own := match partOfRegion s r with
    | some p => fld p.val 24 + fld (rankOfRegion (maskOf s p) r) 16
    | none => fld 0xFF 24 + fld 0xFF 16
  let trees := evBits ((List.range 8).map (fun t => n.held.any (fun c => c.tree = t)))
  wd 0x00 (own + fld trees 8) ++ wd 0x04 (flg n.evMismatch 0) ++ cnt 0x08 n.ops ++ cnt 0x10 n.bytes

/-- The words of an entry of a correctable-error table (Table 7.8). -/
def cetWords (e : CetEntry) : List Nat :=
  [flg e.valid 31 + flg e.lasting 30 + fld e.kind 27 + fld e.loc 25 + fld e.action 22 + fld e.count 8, e.addr,
   fld e.sr.toNat 24 + fld e.scW 17 + fld e.scF 11, e.age]

/-- The fewest unused spare rows of an SRAM kind among the region's cores. -/
def regionSpares (s : State) (r : RegionId) (kind : Nat) : Nat :=
  ((regionCores r).map (fun k => sramSpares kind - sramUsed (getCore s k) kind)).foldl min (sramSpares kind)

def regionFltTab (s : State) (r : RegionId) : RegTab :=
  let g := getRegion s r
  regRow 0x8000 4 8 (fun n => blkField g.lastRec (4 * n) 4) ++
  wd 0x8024 (fld (regionSpares s r 1) 24 + fld (regionSpares s r 2) 16 + fld (regionSpares s r 3) 8 + regionSpares s r 4) ++
  regRow 0x8100 4 64 (fun i => (cetWords (vget g.cet (Fin.ofNat 16 (i / 4)))).getD (i % 4) 0) ++
  wd 0x8200 g.cetLost.toNat ++ cnt 0xC000 (g.aclk + elapsed s)

/-- A register of a region's 128 KiB block. -/
def regionBlockReg (s : State) (r : RegionId) (off : Nat) : Option RegV :=
  if off < 0x10000 then syncReg s r off
  else if off < 0x18000 then regAt (redNodeTab s r) (off - 0x10000)
  else regAt (regionFltTab s r) (off - 0x10000)

end Sys2Proof.Machine
end

