-- ==== Sys2Proof/Machine/RegsChip.lean ====
section
/-!
DEFINITION. What the registers of the chip-level blocks read as, each block as a table of offsets (00_scope.md, R12;
02_configuration_stream.md, R56; 08_stack_memory_sprouts.md, R205; 09_attention.md, R234; 10_mesh_sync_reduction.md, R260,
R262; 11_chip_links.md, R287; 12_host.md, R307; 13_trust.md, R327; 14_power_clocks.md, R347, R348;
15_thermal.md, R368; 16_faults.md, R395; 17_package.md, R420, R421).
-/

namespace Sys2Proof.Machine

/-! ### Capabilities (Tables 0.6 to 0.8) -/

def ports (s : State) : Nat := 8 * popc ((linkMask s).setWidth 64)

def capTab (s : State) : RegTab :=
  [(0x00, .word (capId s)), (0x04, .word capContract),
   (0x08, .word (fld 16 24 + fld 8 16 + fld 2 12 + fld 2 8 + fld 4 4 + 5)),
   (0x0C, .word (fld 4 28 + fld 8 24 + fld 8 20 + fld 256 8)),
   (0x10, .word (fld 6144 16 + 512)), (0x14, .word (fld 256 16 + 256)), (0x18, .word (fld 1024 16 + 512)),
   (0x1C, .word (fld (siteMask s).toNat 24 + fld 64 12 + fld 32 4)),
   (0x20, .word (fld (linkMask s).toNat 24 + fld (ports s) 16 + fld 16 8 + 224)),
   (0x24, .word (fld 32 24 + fld 8 16 + 2048)), (0x28, .word (fld 1400 16 + 1750)), (0x2C, .word (fld 1000 16 + 1000)),
   (0x30, .word (fld 2 4 + 4))]

/-- A register of the 256-byte capability block: offsets past 0x30 are RSVD and read zero. -/
def capReg (s : State) (off : Nat) : Option RegV := if off < 0x100 then some ((regAt (capTab s) off).getD (.word 0)) else none

/-! ### CFG (Tables 2.8, 2.9) -/

def cfgStCode : CfgSt → Nat
  | .idle => 0
  | .fetch => 1
  | .verify => 2
  | .validate => 3
  | .apply => 4
  | .done => 5
  | .rejected => 6

/-- The digest that CFG_DIGEST_SEL selects. -/
def cfgDigest (s : State) : List Byte :=
  if s.cfg.sel = 0xFF then s.cfg.chipDigest
  else if s.cfg.sel < 32 then (getPart s (Fin.ofNat 32 s.cfg.sel)).digest
  else []

def cfgTab (s : State) : RegTab :=
  let c := s.cfg
  wd 0x00 0 ++ wd 0x04 (fld (cfgStCode c.st) 28 + c.error) ++ wd 0x08 c.srcLo.toNat ++ wd 0x0C c.srcHi.toNat ++ wd 0x10 c.len.toNat ++
  wd 0x14 c.rec0.toNat ++ wd 0x18 c.rec1.toNat ++ wd 0x1C (fld c.kind 24 + c.index % 2 ^ 24) ++ wd 0x20 c.owner ++
  wd 0x24 (evBits [c.evDone, c.evRejected]) ++ cnt 0x28 c.floor ++
  wd 0x30 (evBits ((List.finRange 32).map (fun p => (getPart s p).live))) ++
  wd 0x34 (fld s.fuses.epoch 8 + keySlots c.keys) ++ wd 0x38 c.sel ++
  regRow 0x40 4 16 (fun n => blkField (cfgDigest s) (4 * n) 4)

/-! ### SEC (Tables 13.14, 13.15) -/

def topsCode : TopsSt → Nat
  | .none => 0
  | .running => 1
  | .restarting => 2
  | .noImage => 3
  | .recovery => 4

def ktCode : KtSt → Nat
  | .empty => 0
  | .valid => 1
  | .unrecovered => 2

def imgSlot (i : Option Image) : Nat := match i with | some x => x.slot | none => 3
def imageSvn (i : Option Image) : Nat := match i with | some x => x.svn | none => 0

def secGuestWord (s : State) (g : Nat) : Nat :=
  let site : Fin 2 := Fin.ofNat 2 g
  flg ((getGuest s g).st == .admitted) 30 +
  (match vget s.sec.cert site with
   | some c => 2 ^ 31 + fld c.issuer 28 + flg c.mesh 27 + blkField c.id 0 2
   | none => 0)

def secTab (s : State) : RegTab :=
  let x := s.sec
  wd 0x00 (fld (topsCode x.tops) 29 + fld (imgSlot x.topsImg) 27 + fld (imgSlot x.patch) 25 + fld (ktCode x.kt) 23 +
    flg s.fuses.enrolled 22 + flg s.fuses.key0Revoked 21 + flg x.flashTops 20) ++
  wd 0x04 (evBits [x.evRestart, x.evImg, x.evRecovered, x.evAccept, x.evReject]) ++
  wd 0x08 (imgBuild x.patch) ++ wd 0x0C (imgBuild x.topsImg) ++
  wd 0x10 (fld (imageSvn x.patch) 24 + fld (imageSvn x.topsImg) 16 + fld s.fuses.patchFloor 8 + s.fuses.topsFloor) ++
  wd 0x14 0 ++ wd 0x18 x.imgLo.toNat ++ wd 0x1C x.imgHi.toNat ++ wd 0x20 x.imgLen.toNat ++
  wd 0x24 (flg x.imgDone 31 + fld x.imgCode 16) ++ wd 0x28 x.ktLo.toNat ++ wd 0x2C x.ktHi.toNat ++
  wd 0x30 (flg x.ktDone 31 + fld x.ktCode 16) ++ regRow 0x34 4 2 (secGuestWord s) ++ cnt 0x40 x.reports ++
  regRow 0x80 4 15 (fun n => blkField idPub (4 * n) 4) ++
  regRow 0x100 4 76 (fun n => if x.kt == .valid then blkField x.table (4 * n) 4 else 0)

/-! ### PWR and CLK (Tables 14.8 to 14.10) -/

def pwrStatusWord (s : State) : Nat := flg (brakeOn s) 31 + flg s.pwr.hold 30 + flg s.pwr.capLimit 29 + flg s.pwr.vinLow 28

def partEnvWord (s : State) (p : Nat) : Nat :=
  let q : PartId := Fin.ofNat 32 p
  if (getPart s q).live then fld (envOf s q).watts 16 + fld ((envOf s q).aclkMax / 50) 8 + (envOf s q).aclkMin / 50 else 0

def partUseWord (s : State) (p : Nat) : Nat :=
  let q : PartId := Fin.ofNat 32 p
  if (getPart s q).live then fld (partWatts s q % 65536) 16 + fld (envOf s q).ramp 8 else 0

def pwrTab (s : State) : RegTab :=
  let w := s.pwr
  wd 0x00 (pwrStatusWord s) ++ wd 0x04 (evBits [w.evBrake, w.evEnvFloor, w.evCapLimit, w.evCapFloor, w.evVinLow]) ++
  wd 0x08 w.cap ++ wd 0x0C w.ramp ++ wd 0x10 (fld (w.pkg / 10 % 65536) 16) ++ wd 0x14 (fld (w.mv % 65536) 16 + w.amps % 65536) ++ wd 0x18 (fld w.doze 16 + w.sleep) ++
  regRow 0x100 8 32 (partEnvWord s) ++ regRow 0x104 8 32 (partUseWord s)

def clkTab (s : State) : RegTab :=
  let c := s.clk
  let backup := c.backup != 0 || s.regions.toList.any (fun g => g.onBackup)
  wd 0x00 (flg c.sysref 31 + flg c.trimmed 30 + flg backup 29) ++
  wd 0x04 (evBits [c.evSysref, c.evDie, c.evRegion, c.evHold]) ++ wd 0x08 (fld (c.code % 1024) 22 + c.count % 2 ^ 17) ++
  wd 0x0C (fld c.failDie 27 + fld c.failRegion 22 + fld c.failClock 18 + flg c.failIsRegion 17) ++
  wd 0x10 c.enHub.toNat ++ wd 0x14 (fld c.enLink.toNat 8 + c.enStack.toNat) ++
  regRow 0x20 4 4 (fun t => (vget c.enTile (Fin.ofNat 4 t)).toNat) ++ regRow 0x30 4 4 (fun t => (vget c.enCores (Fin.ofNat 4 t)).toNat)

def pstateCode : PState → Nat
  | .awake => 0
  | .dozing => 1
  | .asleep => 2
  | .waking => 3

/-- The region at a place within a tile (R19). -/
def regionAt (t n : Nat) : RegionId := Fin.ofNat 32 (((t / 2) * 2 + n / 4) * 8 + (t % 2) * 4 + n % 4)

def pwrRegTab (s : State) (t n : Nat) : RegTab :=
  let g := getRegion s (regionAt t n)
  let o := 0x80000 + n * 0x10
  wd o (fld (pstateCode g.power) 30 + fld g.level 25 + fld g.ceil 20 + fld g.limit 17 + fld (g.volt % 512) 8 + (partByte g.owner).toNat) ++
  wd (o + 4) (g.watts % 65536) ++ cnt (o + 8) g.wakes

/-! ### THM (Tables 15.8, 15.9) -/

/-- The sensors are not read yet, so temperatures stand at their reset value. -/
def unread (s : State) : Bool := !s.thm.seen

/-- The 12 bits of a temperature in 0.125 K; of one that is not known, free once sensors are read. -/
def temp12 (s : State) (t : Option Int) : Nat :=
  match t with
  | some x => (BitVec.ofInt 12 x).toNat
  | none => if unread s then 0 else freeField s 12

def thmStatusWord (s : State) : Nat :=
  let t := s.thm
  flg t.emergency 31 + flg (t.ceil.toList.any (fun c => decide (c < 28)) && !unread s || t.stack.toList.any (fun x => x != 0)) 30 +
  flg t.inletDerate 29 + flg t.flowLow 28 + (t.sensors.toList.filter (fun x => x.masked)).length

def sensorWord (s : State) : Nat :=
  let x := getSensor s s.thm.sel
  if 301 ≤ s.thm.sel then fld (freeField s 6) 26 + freeField s 12
  else flg x.valid 31 + flg x.masked 30 + flg x.fast 29 + flg (getSite s (siteOfSensor s.thm.sel)).differ 28 + fld (if x.ror = 2 then 2 else if (getSite s (siteOfSensor s.thm.sel)).adv then 1 else 0) 26 +
    (BitVec.ofInt 12 x.temp).toNat

def thmTab (s : State) : RegTab :=
  let t := s.thm
  wd 0x00 (thmStatusWord s) ++
  wd 0x04 (evBits [t.evThrottle, t.evStack, t.evAdvisory, t.evEmergency, t.evMasked, t.evFlowLow, t.evFlowStop, t.evInletCold,
    t.evInletInvalid, t.evNoRef]) ++
  wd 0x08 (if t.tripValid then 2 ^ 31 + fld t.tripSensor 22 + (BitVec.ofInt 12 t.tripTemp).toNat else 0) ++
  wd 0x0C (flg (siteVal s siteInlet).isSome 31 + temp12 s (siteVal s siteInlet)) ++
  wd 0x10 (flg t.flowOn 31 + flg t.stopped 30 + t.flow % 65536) ++ wd 0x14 (fld t.ppl 16 + t.flowMin) ++ wd 0x18 t.sel ++
  wd 0x1C (sensorWord s) ++ wd 0x20 0 ++ wd 0x24 50000 ++
  regRow 0x100 8 32 (fun r => fld (vget t.ceil (Fin.ofNat 32 r)) 27 + fld (vget t.cause (Fin.ofNat 32 r)) 24 +
    fld (temp12 s (logicTemp s r)) 12 + temp12 s (dramTemp s r)) ++
  regRow 0x104 8 32 (fun r => (vget t.cycles (Fin.ofNat 32 r)).count) ++
  regRow 0x200 4 8 (fun n => fld (vget t.stack (Fin.ofNat 8 n)) 30 + temp12 s (stackTemp s n)) ++
  regRow 0x220 4 3 (fun d => fld (vget t.linkBand (Fin.ofNat 3 d)).band 30 + flg (t.linkHot.getLsbD d) 29 + temp12 s (linkTemp s d)) ++
  wd 0x230 (temp12 s (siteVal s siteHub))

/-! ### FLT (Tables 16.10, 16.11) -/

def fltStatusWord (s : State) : Nat :=
  let f := s.flt
  flg f.oos 31 + flg f.run.isSome 30 + fld (match f.run with | some r => r.unit | none => 0) 27 + flg (findRec s f.logSel).isSome 26

def fltTab (s : State) : RegTab :=
  let f := s.flt
  let rec_ := match findRec s f.logSel with | some r => recBytes r | none => []
  wd 0x00 (fltStatusWord s) ++ wd 0x04 (evBits [f.evRecord, f.evWrap, f.evPart, f.evSevered, f.evOos]) ++
  wd 0x08 f.head.toNat ++ wd 0x0C f.logSel.toNat ++ regRow 0x10 4 8 (fun n => blkField rec_ (4 * n) 4) ++ wd 0x30 0 ++
  wd 0x34 (flg f.stDone 31 + fld f.stUnit 28 + fld f.stCode 25) ++ wd 0x38 f.heartbeat.toNat ++
  wd 0x3C (fld f.chipCause 28 + fld f.chipCount 26) ++ wd 0x40 f.chipAge ++ wd 0x44 (fld f.topsCount 28 + f.topsAge) ++
  wd 0x48 f.regionBad.toNat ++ wd 0x4C f.severed.toNat ++
  regRow 0x100 4 32 (fun p => flg (f.partFaulted.getLsbD p) 31 + flg (f.partUnserviced.getLsbD p) 30 + flg (f.partHeld.getLsbD p) 29)

/-! ### HST and MET (Tables 12.9, 12.10) -/

def ringCtlWord (r : Ring) : Nat := flg r.enable 31 + flg r.arm 30 + flg (ringPhase r) 29 + r.log2

def noticeRingTab (s : State) (r : Nat) : RegTab :=
  let x := vget s.hst.rings (Fin.ofNat 8 r)
  let o := 0x100 + r * 0x20
  wd o x.ring.baseLo.toNat ++ wd (o + 4) x.ring.baseHi.toNat ++ wd (o + 8) (ringCtlWord x.ring) ++ wd (o + 0xC) x.ring.tail.toNat ++
  wd (o + 0x10) x.ring.head.toNat ++ wd (o + 0x14) x.mask.toNat

def hstTab (s : State) : RegTab :=
  let h := s.hst
  wd 0x00 (fld h.width 27 + fld h.speed 24 + flg h.flit 23) ++
  wd 0x04 (evBits [h.evDrop, h.evPoison, h.evRefused, h.evOutCheck, h.evNotice, h.evRingFault]) ++
  wd 0x08 (flg h.barEver 1 + flg h.barOn 0) ++ wd 0x0C h.barGib ++ cnt 0x10 h.drops ++ (List.range 8).flatMap (noticeRingTab s)

def chanTab (s : State) (p : PartId) (c : Nat) : RegTab :=
  let x := getCh s p c
  let o := 0x200 + c * 0x40
  let prog := (x.ring.held.filter (fun e => e.prog)).length
  let st := if (chanRec s p c).isNone then 0 else if x.stopped then 2 else 1
  wd o (fld st 30) ++ wd (o + 4) 0 ++ wd (o + 8) x.accepted.toNat ++ wd (o + 0xC) x.d ++ wd (o + 0x10) (chFree x) ++
  wd (o + 0x14) x.ring.issued.toNat ++ wd (o + 0x18) x.ring.baseLo.toNat ++ wd (o + 0x1C) x.ring.baseHi.toNat ++
  wd (o + 0x20) (ringCtlWord x.ring) ++ wd (o + 0x24) x.ring.tail.toNat ++ wd (o + 0x28) x.ring.head.toNat ++
  wd (o + 0x2C) (fld prog 24 + fld (devHeld x.ring) 16) ++ wd (o + 0x30) x.errs.toNat

def statusTab (s : State) (p : PartId) : RegTab :=
  let x := getPst s p
  wd 0x100 (fld p.val 24 + fld (regionCount (maskOf s p)) 16 + fld (evBits ((List.range 8).map (fun c => (chanRec s p c).isSome))) 8 +
    flg (partResetting s p) 7 + flg (getPart s p).debug 6) ++
  wd 0x104 (evBits [x.evAbsorbed, x.evReset, x.evFault, x.evNotice, x.evFence, x.evRingFault]) ++
  wd 0x108 (flg x.noticeOn 31 + x.noticeCh) ++ wd 0x10C (flg x.fence 31) ++ (List.range 8).flatMap (chanTab s p) ++
  (List.finRange 12).flatMap (fun i => cnt (0x400 + i.val * 8) (vget (vget s.meters p) i)) ++ wd 0x480 0 ++ wd 0x484 x.snaps.toNat ++
  (List.finRange 12).flatMap (fun i => cnt (0x500 + i.val * 8) (vget x.snap i))

/-- Every register of the block reads zero. -/
def zeroed : RegV → RegV
  | .word _ => .word 0
  | .lo _ => .lo 0
  | .hi _ => .hi 0

/-- A register of the status block of partition `p` (R307). -/
def statusReg (s : State) (p : PartId) (off : Nat) : Option RegV :=
  if off < 0x100 then capReg s off
  else if (getPart s p).live then regAt (statusTab s p) off
  else (regAt (statusTab s p) off).map zeroed

/-! ### LNK and COL (Tables 11.10, 11.11) -/

def portCode : PortSt → Nat
  | .off => 0
  | .training => 1
  | .up => 2
  | .failed => 3

/-- LNK_Pq_LANES.ACTIVE: the lanes of the quads in use. -/
def activeLanes (x : LinkPort) : Nat := evBits ((List.range 16).map (fun n => x.quads.getLsbD (n / 4)))

def lnkTab (s : State) (port : Nat) : RegTab :=
  let x := getPort s port
  let own := match portRec s port with | some q => q.1.val | none => 0xFF
  wd 0x00 (fld (portCode x.st) 29 + fld x.width 24 + fld x.quads.toNat 20 + fld (x.peer % 32) 15 + flg x.reversed 14 + fld x.band 12 +
    flg x.saved 11 + fld x.cause 8 + own) ++
  wd 0x04 0 ++ wd 0x08 (evBits [x.evReplay, x.evUncorr, x.evRetrained, x.evNarrowed, x.evFailed]) ++
  wd 0x0C (fld x.polarity.toNat 16 + activeLanes x) ++ regRow 0x10 4 4 (fun n => blkField x.ident (4 * n) 4) ++
  cnt 0x20 x.replays ++ cnt 0x28 x.fecCorr ++ cnt 0x30 x.uncorr ++ cnt 0x38 x.txData ++ wd 0x40 x.retrains.toNat

def treeCode : TreeSt → Nat
  | .confirming => 1
  | .ready => 2
  | .broken => 3

/-- The selected tree, where its engine is on the link die. -/
def selTree (s : State) (d : Nat) : Option (TreeRec × Tree) :=
  let x := vget s.links (Fin.ofNat 3 d)
  let p : PartId := Fin.ofNat 32 x.selPart
  match treeRec s p x.selTree, findTree s p x.selTree with
  | some r, some t => if homeDie r == some d then some (r, t) else none
  | _, _ => none

/-- Operations in progress at a link die: those whose results are not all delivered. -/
def colActive (s : State) (d : Nat) : Nat :=
  (s.trees.map (fun t => match treeRec s t.part t.tree with
    | some r => if homeDie r == some d then (t.ops.filter (fun o => !opDone o r.group)).length else 0
    | none => 0)).foldl (· + ·) 0

def colTab (s : State) (d : Nat) : RegTab :=
  let x := vget s.links (Fin.ofNat 3 d)
  let t := selTree s d
  wd 0x00 (fld (min 255 (colActive s d)) 24) ++ wd 0x04 (evBits [x.evBroken, x.evOpFail, x.evSwitch, x.evNoticeTx, x.evNoticeRx]) ++
  wd 0x08 (fld x.selPart 8 + x.selTree) ++
  wd 0x0C (match t with
    | some (r, t) => fld (treeCode t.st) 30 + fld t.cause 27 + flg (!(r.edges.any (fun e => e.role = 0))) 26 + fld r.rank 13 + (r.group - 1)
    | none => 0) ++
  wd 0x10 (match t with
    | some (r, t) => fld (evBits ((List.range 8).map (fun e => (getEdge t e).confirmed))) 24 +
        fld (evBits ((List.range 8).map (fun e => (getEdge t e).alt))) 16 + fld r.edges.length 12
    | none => 0) ++
  wd 0x14 (match t with | some (_, t) => t.count.toNat | none => 0) ++ wd 0x18 x.notice.toNat ++ cnt 0x20 x.bytes ++ cnt 0x28 x.resend

def linkReg (s : State) (d off : Nat) : Option RegV :=
  if off < 0x800 then regAt (lnkTab s (d * 8 + off / 0x100)) (off % 0x100)
  else if 0x80000 ≤ off then regAt (colTab s d) (off - 0x80000)
  else none

/-! ### Tiles (R260, R262, R348) -/

/-- MESH_RT_DATA for the key that MESH_RT_SEL selects. -/
def routeData (s : State) (t : Nat) (sel : W32) : Nat :=
  let n := sel.toNat
  let k := coreOf (regionAt t (n / 2 ^ 27 / 4)).val (n / 2 ^ 27 % 4)
  match s.routes.find? (fun e => e.router = k.val && e.src = n / 2 ^ 22 % 32 && e.dst = n / 2 ^ 17 % 32 && e.cls = n / 2 ^ 15 % 4 &&
    e.off = n / 2 ^ 13 % 4) with
  | some e => 2 ^ 31 + fld e.port 28
  | none => 0

def meshTab (s : State) (t : Nat) : RegTab :=
  let m := vget s.meshTiles (Fin.ofNat 4 t)
  wd 0x00 (fld m.hRate 24 + fld m.vRate 16) ++ wd 0x04 (evBits [m.evRefuse, m.evDeg, m.evMis]) ++ wd 0x08 m.sel.toNat ++
  wd 0x0C (routeData s t m.sel) ++ cnt 0x10 m.flits ++ cnt 0x18 m.refuses ++ wd 0x20 m.misroutes.toNat ++
  wd 0x40000 (evBits ((List.range 8).map (fun n => !(vget s.red (regionAt t n)).held.isEmpty))) ++
  (List.range 8).flatMap (pwrRegTab s t)

/-! ### STK and SPR (Tables 8.10, 8.11) -/

def pprMin (t : Stack) : Nat := (t.pprUsed.map (fun e => 2 - e.2)).foldl min 2

def stackCetWords (e : CetEntry) : List Nat :=
  [flg e.valid 31 + flg e.lasting 30 + fld (chOfBlock e.addr) 25 + fld e.action 22 + fld e.count 8, e.addr,
   fld e.sr.toNat 24 + fld e.scW 17 + fld e.scF 11, e.age]

/-- SPR_LIMIT.CONC (R199). -/
def sprConc (s : State) (n : Nat) : Nat := if brakeOn s then 4 else if vget s.thm.stack (Fin.ofNat 8 n) != 0 then 16 else 32

def stackTab (s : State) (n : Nat) : RegTab :=
  let t := getStack s n
  wd 0x00 (fld t.band 30 + flg t.selfRef 29 + flg (!t.copies.isEmpty) 28 + flg t.tg.run.isSome 27 + fld (n / 2) 24 + fld (pprMin t) 22) ++
  wd 0x04 (evBits [t.evCorr, t.evUncorr, t.evPoisoned, t.evRepaired, t.evNoSpare, t.evTgDone]) ++
  wd 0x08 t.repairs.toNat ++ wd 0x0C t.cetLost.toNat ++ cnt 0x10 t.corr ++ cnt 0x18 t.uncorr ++ cnt 0x20 t.hits ++ cnt 0x28 t.acts ++
  wd 0x40 (fld t.tg.pattern 8) ++ wd 0x44 t.tg.chmask.toNat ++ wd 0x48 (fld t.tg.last 16 + t.tg.first) ++ wd 0x4C t.tg.seed.toNat ++
  wd 0x50 (evBits [t.tg.done, t.tg.refused]) ++ wd 0x54 t.tg.failmask.toNat ++ cnt 0x58 t.tg.errs ++
  wd 0x60 (fld t.tg.firstCh 27 + t.tg.firstBlk) ++
  regRow 0x100 4 64 (fun i => (stackCetWords (vget t.cet (Fin.ofNat 16 (i / 4)))).getD (i % 4) 0)

/-- The Sprouts in a row step while a command runs: the model has no row steps, so the number is free (log 16). -/
def sprActive (s : State) (t : Stack) : Nat := if t.sprRun.isSome then min 32 (freeField s 6) else 0

def sproutTab (s : State) (n : Nat) : RegTab :=
  let t := getStack s n
  wd 0x00 (fld t.sprQ.length 24 + fld (match t.sprRun with | some r => r.cmd.part.val | none => 0xFF) 16 + flg t.sprRun.isSome 15 +
    flg t.hfence.isSome 14 + fld (sprActive s t) 8) ++
  wd 0x04 (evBits [t.evThrottled, t.evParity, t.evFault, t.evHfence]) ++ wd 0x08 (fld (sprConc s n) 26 + fld (if vget s.thm.stack (Fin.ofNat 8 n) = 2 then 4 else 8) 20 + fld 512 8) ++
  wd 0x0C 0 ++ cnt 0x10 t.cmds ++ cnt 0x18 t.macs ++ cnt 0x20 (t.waitCyc + elapsed s) ++ cnt 0x28 (t.yields + elapsed s)

def stackReg (s : State) (n off : Nat) : Option RegV :=
  if off < 0x40000 then regAt (stackTab s n) off else regAt (sproutTab s n) (off - 0x40000)

/-! ### KVP (Tables 9.17, 9.18) -/

def kvpTab (s : State) : RegTab :=
  let k := s.kvp
  let waiting := (k.reqs.filter (fun r => r.copy.isNone)).length
  wd 0x00 0x200000 ++ wd 0x04 (fld (min 255 waiting) 24 + fld (k.reqs.filter (fun r => r.copy.isSome)).length 16) ++
  wd 0x08 (evBits [k.evRefused, k.evLeaseWait, k.evCopyPoison]) ++ wd 0x10 k.selPart ++ wd 0x14 k.selLo.toNat ++ wd 0x18 k.selHi.toNat ++
  wd 0x1C k.state.toNat ++ wd 0x20 k.counts.toNat ++ cnt 0x28 k.copies ++ cnt 0x30 k.leases ++
  regRow 0x100 4 32 (fun p => kvFree s (Fin.ofNat 32 p))

/-! ### GST (Tables 17.19, 17.20) -/

def guestCode : GuestSt → Nat
  | .absent => 0
  | .training => 1
  | .admitted => 2
  | .down => 3

/-- The applied windows of a site. -/
def guestWindows (s : State) (g : Nat) : Nat :=
  ((liveParts s).map (fun p => ((getPart s p).guestWins.filter (fun w => w.site = g)).length)).foldl (· + ·) 0

def gstTab (s : State) (g : Nat) : RegTab :=
  let x := getGuest s g
  let id := fun i => (x.ident.getD i 0).toNat
  wd 0x00 (fld (guestCode x.st) 30 + fld x.rate 27 + fld x.modules 24 + fld x.x8.toNat 20 + flg (s.fuses.fitted.getLsbD g) 19 +
    fld (guestWindows s g) 13) ++
  wd 0x04 0 ++ wd 0x08 (evBits [x.evAdmitted, x.evDown, x.evViol, x.evPower]) ++
  wd 0x0C (fld x.vioWindow 24 + fld x.vioKind 16 + fld x.vioCause 8) ++
  wd 0x10 (fld (id 3) 24 + fld (id 2) 16 + fld (id 1) 8 + id 0) ++ wd 0x14 (fld (id 4) 24 + fld (id 5) 16 + fld (id 6) 8) ++
  cnt 0x20 x.inBytes ++ cnt 0x28 x.outBytes ++ cnt 0x30 x.viol ++ cnt 0x38 (x.heldCyc + heldPart s x)

def gstReg (s : State) (off : Nat) : Option RegV :=
  if off < 0x2000 then regAt (gstTab s (off / 0x1000)) (off % 0x1000) else none

/-! ### DL (Tables 17.17, 17.18) -/

def bunCode : BunSt → Nat
  | .full => 0
  | .half => 1
  | .out => 2
  | .untrained => 3

def bundleTab (s : State) (k b : Nat) : RegTab :=
  let x := vget (getPair s k).bundles (Fin.ofNat 8 b)
  let o := 0x40 + b * 0x20
  wd o (fld (bunCode x.st) 30 + flg x.half 29 + flg x.saved 28 + fld x.band 26 + fld (x.sp32.getD 0x3F) 20 + fld (x.sp33.getD 0x3F) 14) ++
  wd (o + 4) 0 ++ cnt (o + 8) x.crc ++ cnt (o + 0x10) x.replay

def pairTab (s : State) (k : Nat) : RegTab :=
  let p := getPair s k
  wd 0x00 (flg p.severed 31 + fld (pairWorking p k) 20 + fld (bundlesOf k) 16) ++
  wd 0x04 (evBits [p.evRetrained, p.evSpared, p.evHalf, p.evOut, p.evSevered]) ++ (List.range (bundlesOf k)).flatMap (bundleTab s k)

def dlCetTab (s : State) : RegTab :=
  (List.range 16).flatMap (fun n =>
    let e := vget s.dl.cet (Fin.ofNat 16 n)
    wd (n * 0x10) (flg e.valid 31 + flg e.lasting 30 + fld e.count 8) ++
    wd (n * 0x10 + 4) (fld (e.loc / 8) 16 + fld (e.loc % 8) 8 + e.addr) ++ wd (n * 0x10 + 8) e.age) ++
  wd 0x100 s.dl.lost.toNat

def dlReg (s : State) (off : Nat) : Option RegV :=
  if off < 22 * 0x400 then regAt (pairTab s (off / 0x400)) (off % 0x400)
  else if 0x10000 ≤ off then regAt (dlCetTab s) (off - 0x10000)
  else none

end Sys2Proof.Machine
end

