-- ==== Sys2Proof/Machine/Regs.lean ====
section
/-!
DEFINITION. The management address map (01_structure.md, R31 to R33; 14_power_clocks.md, R342) and what a write of a register
does by its access code (00_scope.md, R4). A field that has a command of its own is written by the same operation as that
command.
-/

namespace Sys2Proof.Machine

/-! ### The map (Tables 1.9 and 1.10) -/

/-- Where an offset of BAR0 lies. -/
inductive Place where
  | cap (off : Nat)
  | cfg (off : Nat)
  | sec (off : Nat)
  | pwr (off : Nat)
  | clk (off : Nat)
  | thm (off : Nat)
  | flt (off : Nat)
  | hst (off : Nat)
  | status (p : PartId) (off : Nat)
  | link (d : Fin 3) (off : Nat)
  | tile (t : Fin 4) (off : Nat)
  | region (r : RegionId) (off : Nat)
  | core (k : CoreId) (off : Nat)
  | stack (n : Fin 8) (off : Nat)
  | kvp (off : Nat)
  | gst (off : Nat)
  | dl (off : Nat)
  deriving DecidableEq, Repr

def tilePlace (t : Fin 4) (o : Nat) : Place :=
  if o < 0x100000 then .tile t o
  else if o < 0x200000 then .region (regionAt t.val ((o - 0x100000) / 0x20000)) (o % 0x20000)
  else
    let j := (o - 0x200000) / 0x10000
    .core (coreOf (regionAt t.val (j / 4)).val (j % 4)) (o % 0x10000)

/-- The place of a BAR0 offset of the physical function; none in a reserved range. -/
def placeOf (off : Nat) : Option Place :=
  let m := off / 0x100000
  let o := off % 0x100000
  if 64 ≤ m then none
  else if 0x10 ≤ m && m < 0x20 then some (tilePlace (Fin.ofNat 4 (m / 4)) (off % 0x400000))
  else if 0x20 ≤ m && m < 0x28 then some (.stack (Fin.ofNat 8 m) o)
  else match m with
    | 0 => if 0x1000 ≤ o && o < 0x1100 then some (.cap (o - 0x1000)) else none
    | 1 => some (.cfg o)
    | 2 => some (.sec o)
    | 3 => if o < 0x80000 then some (.pwr o) else some (.clk (o - 0x80000))
    | 4 => some (.thm o)
    | 5 => some (.flt o)
    | 6 | 7 =>
      let x := off - 0x600000
      if 0x80000 ≤ x && x < 0x100000 then some (.status (Fin.ofNat 32 ((x - 0x80000) / 0x4000)) (x % 0x4000)) else some (.hst x)
    | 8 | 9 | 10 => some (.link (Fin.ofNat 3 (m - 8)) o)
    | 0x30 => some (.kvp o)
    | 0x31 => some (.gst o)
    | 0x32 => some (.dl o)
    | _ => none

/-- The unit at a place has its clock enabled (R342) and its die is not severed (R389). -/
def placeOn (s : State) : Place → Bool
  | .cap _ | .pwr _ | .clk _ => true
  | .cfg _ => s.clk.enHub.getLsbD 0
  | .sec _ => s.clk.enHub.getLsbD 1
  | .thm _ => s.clk.enHub.getLsbD 2
  | .flt _ => s.clk.enHub.getLsbD 3
  | .hst _ | .status .. => s.clk.enHub.getLsbD 4
  | .kvp _ => s.clk.enHub.getLsbD 5
  | .gst _ => s.clk.enHub.getLsbD 6
  | .dl _ => s.clk.enHub.getLsbD 7
  | .link d _ => s.clk.enLink.getLsbD d.val && !dieDown s (dieLink d.val)
  | .stack n _ => s.clk.enStack.getLsbD n.val && !dieDown s (dieStack n.val)
  | .tile t _ => (vget s.clk.enTile t).getLsbD 8 && !dieDown s t.val
  | .region r _ =>
    let t := tileOfRegion r.val
    (vget s.clk.enTile (Fin.ofNat 4 t)).getLsbD (regionInTile r.val) && !dieDown s t
  | .core k _ =>
    let t := tileOfCore k
    (vget s.clk.enCores (Fin.ofNat 4 t)).getLsbD (coreInTile k) && !dieDown s t

def placeReg (s : State) : Place → Option RegV
  | .cap o => capReg s o
  | .cfg o => regAt (cfgTab s) o
  | .sec o => regAt (secTab s) o
  | .pwr o => regAt (pwrTab s) o
  | .clk o => regAt (clkTab s) o
  | .thm o => regAt (thmTab s) o
  | .flt o => regAt (fltTab s) o
  | .hst o => regAt (hstTab s) o
  | .status p o => statusReg s p o
  | .link d o => linkReg s d.val o
  | .tile t o => regAt (meshTab s t.val) o
  | .region r o => regionBlockReg s r o
  | .core k o => coreBlockReg s k o
  | .stack n o => stackReg s n.val o
  | .kvp o => regAt (kvpTab s) o
  | .gst o => gstReg s o
  | .dl o => dlReg s o

/-- The place that a function's offset names: a virtual function reaches only its status block (R290). -/
def fnPlace (fn : Fn) (off : Nat) : Option Place :=
  match fn with
  | .pf => placeOf off
  | .vf p => if off < 0x4000 then some (.status p off) else none

/-- The register at an offset; none where an access ends with a bus error (R33). -/
def regRead (s : State) (fn : Fn) (off : Nat) : Option RegV :=
  match fnPlace fn off with
  | some q => if placeOn s q then placeReg s q else none
  | none => none

/-! ### Clearing events: RW1C (Table 0.5) -/

/-- A bit stays unless 1 is written to it. -/
def keep (b : Bool) (v : W32) (i : Nat) : Bool := b && !v.getLsbD i

def clearCore (m : Core) (o : Nat) (v : W32) : Option Core :=
  match o with
  | 0x0008 => some { m with evFaulted := m.evFaulted &&& ~~~ v.setWidth 4 }
  | 0x2008 =>
    let x := m.cube
    some { m with cube := { x with evParity := keep x.evParity v 0, evTransient := keep x.evTransient v 1, evPersist := keep x.evPersist v 2 } }
  | 0x4004 =>
    let x := m.epiRegs
    some { m with epiRegs := { x with evSat := keep x.evSat v 0, evNanLost := keep x.evNanLost v 1, evRange := keep x.evRange v 2 } }
  | 0x6004 =>
    let x := m.strm
    some { m with strm := { x with evBadDesc := keep x.evBadDesc v 0, evAbort := keep x.evAbort v 1, evCancel := keep x.evCancel v 2,
                                   evDlMiss := keep x.evDlMiss v 3 } }
  | 0x8004 =>
    let x := m.nsl
    some { m with nsl := { x with evCorr := keep x.evCorr v 0, evUncorr := keep x.evUncorr v 1, evPoisoned := keep x.evPoisoned v 2,
                                  evRepaired := keep x.evRepaired v 3, evNoSpare := keep x.evNoSpare v 4 } }
  | 0xA004 =>
    let x := m.att
    some { m with att := { x with evDropped := keep x.evDropped v 0, evSat := keep x.evSat v 1, evFault := keep x.evFault v 2,
                                  evNanRow := keep x.evNanRow v 3, evEmptyRow := keep x.evEmptyRow v 4 } }
  | _ => none

def clearStack (t : Stack) (o : Nat) (v : W32) : Option Stack :=
  match o with
  | 0x00004 => some { t with evCorr := keep t.evCorr v 0, evUncorr := keep t.evUncorr v 1, evPoisoned := keep t.evPoisoned v 2,
                             evRepaired := keep t.evRepaired v 3, evNoSpare := keep t.evNoSpare v 4, evTgDone := keep t.evTgDone v 5 }
  | 0x40004 => some { t with evThrottled := keep t.evThrottled v 0, evParity := keep t.evParity v 1, evFault := keep t.evFault v 2,
                             evHfence := keep t.evHfence v 3 }
  | _ => none

def clearThm (x : Thm) (v : W32) : Thm :=
  { x with evThrottle := keep x.evThrottle v 0, evStack := keep x.evStack v 1, evAdvisory := keep x.evAdvisory v 2,
           evEmergency := keep x.evEmergency v 3, evMasked := keep x.evMasked v 4, evFlowLow := keep x.evFlowLow v 5,
           evFlowStop := keep x.evFlowStop v 6, evInletCold := keep x.evInletCold v 7, evInletInvalid := keep x.evInletInvalid v 8,
           evNoRef := keep x.evNoRef v 9 }

/-- FLT_EVENT; clearing LOG_WRAP restarts its count of records (Table 16.11). -/
def clearFlt (f : Flt) (v : W32) : Flt :=
  { f with evRecord := keep f.evRecord v 0, evWrap := keep f.evWrap v 1, evPart := keep f.evPart v 2, evSevered := keep f.evSevered v 3,
           evOos := keep f.evOos v 4, sinceWrap := if v.getLsbD 1 then 0 else f.sinceWrap }

/-- What clearing the bits of `v` in the RW1C register at a place leaves; none where the place holds no such register. -/
def clearAt (s : State) (v : W32) : Place → Option State
  | .cfg 0x24 => some (modCfg s (fun c => { c with evDone := keep c.evDone v 0, evRejected := keep c.evRejected v 1 }))
  | .sec 0x04 => some (modSec s (fun x =>
      { x with evRestart := keep x.evRestart v 0, evImg := keep x.evImg v 1, evRecovered := keep x.evRecovered v 2,
               evAccept := keep x.evAccept v 3, evReject := keep x.evReject v 4 }))
  | .pwr 0x04 => some (modPwr s (fun w =>
      { w with evBrake := keep w.evBrake v 0, evEnvFloor := keep w.evEnvFloor v 1, evCapLimit := keep w.evCapLimit v 2,
               evCapFloor := keep w.evCapFloor v 3, evVinLow := keep w.evVinLow v 4 }))
  | .clk 0x04 => some (modClk s (fun c =>
      { c with evSysref := keep c.evSysref v 0, evDie := keep c.evDie v 1, evRegion := keep c.evRegion v 2, evHold := keep c.evHold v 3 }))
  | .thm 0x04 => some (modThm s (fun x => clearThm x v))
  | .flt o =>
    if o = 0x04 then some (modFlt s (fun f => clearFlt f v))
    else if 0x100 ≤ o && o < 0x180 then
      some (if v.getLsbD 30 then modFlt s (fun f => { f with partUnserviced := setBit32 f.partUnserviced ((o - 0x100) / 4) false }) else s)
    else none
  | .hst 0x04 => some (modHst s (fun h =>
      { h with evDrop := keep h.evDrop v 0, evPoison := keep h.evPoison v 1, evRefused := keep h.evRefused v 2,
               evOutCheck := keep h.evOutCheck v 3, evNotice := keep h.evNotice v 4, evRingFault := keep h.evRingFault v 5 }))
  | .status p 0x104 => some (if (getPart s p).live then modPst s p (fun x =>
      { x with evAbsorbed := keep x.evAbsorbed v 0, evReset := keep x.evReset v 1, evFault := keep x.evFault v 2,
               evNotice := keep x.evNotice v 3, evFence := keep x.evFence v 4, evRingFault := keep x.evRingFault v 5 }) else s)
  | .link d o =>
    if o = 0x80004 then some (modLink s d.val (fun x =>
      { x with evBroken := keep x.evBroken v 0, evOpFail := keep x.evOpFail v 1, evSwitch := keep x.evSwitch v 2,
               evNoticeTx := keep x.evNoticeTx v 3, evNoticeRx := keep x.evNoticeRx v 4 }))
    else if o < 0x800 && o % 0x100 = 0x08 then some (modPort s (d.val * 8 + o / 0x100) (fun x =>
      { x with evReplay := keep x.evReplay v 0, evUncorr := keep x.evUncorr v 1, evRetrained := keep x.evRetrained v 2,
               evNarrowed := keep x.evNarrowed v 3, evFailed := keep x.evFailed v 4 }))
    else none
  | .tile t 0x04 => some (modMeshTile s t.val (fun m =>
      { m with evRefuse := keep m.evRefuse v 0, evDeg := keep m.evDeg v 1, evMis := keep m.evMis v 2 }))
  | .region r 0x10004 => some { s with red := vmod s.red r (fun n => { n with evMismatch := keep n.evMismatch v 0 }) }
  | .core k o => (clearCore (getCore s k) o v).map (setCore s k)
  | .stack n o => (clearStack (getStack s n.val) o v).map (fun t => modStack s n.val (fun _ => t))
  | .kvp 0x08 => some (modKv s (fun k =>
      { k with evRefused := keep k.evRefused v 0, evLeaseWait := keep k.evLeaseWait v 1, evCopyPoison := keep k.evCopyPoison v 2 }))
  | .gst o =>
    if o = 0x08 || o = 0x1008 then some (modGuest s (o / 0x1000) (fun x =>
      { x with evAdmitted := keep x.evAdmitted v 0, evDown := keep x.evDown v 1, evViol := keep x.evViol v 2, evPower := keep x.evPower v 3 }))
    else none
  | .dl o =>
    if o < 22 * 0x400 && o % 0x400 = 0x04 then some (modPair22 s (o / 0x400) (fun p =>
      { p with evRetrained := keep p.evRetrained v 0, evSpared := keep p.evSpared v 1, evHalf := keep p.evHalf v 2,
               evOut := keep p.evOut v 3, evSevered := keep p.evSevered v 4 }))
    else none
  | _ => none

/-! ### Writing RW and WO fields -/

/-- What a command leaves of the state. -/
def ran (s : State) (o : Out) : State := match o with | .next t => t | _ => s

/-- A field of a written word. -/
def wBits (v : W32) (lo n : Nat) : Nat := v.toNat / 2 ^ lo % 2 ^ n

/-- A write of a CFG register. CFG_SRC_LO keeps bits [2:0] as written, which the spec only says must be zero (DESIGN CHOICE, log 81). -/
def writeCfg (s : State) (o : Nat) (v : W32) : State :=
  match o with
  | 0x00 => if wBits v 0 4 = 1 then ran s (execLoad s) else if wBits v 0 4 = 2 then abandonStream s else s
  | 0x08 => modCfg s (fun c => { c with srcLo := v })
  | 0x0C => modCfg s (fun c => { c with srcHi := v })
  | 0x10 => modCfg s (fun c => { c with len := v })
  | 0x38 => modCfg s (fun c => { c with sel := wBits v 0 8 })
  | _ => s

/-- SEC_SVN_CMD with both bits set commits and then revokes. -/
def writeSec (s : State) (o : Nat) (v : W32) : State :=
  match o with
  | 0x14 =>
    let s1 := if v.getLsbD 0 then ran s (execCommit s) else s
    if v.getLsbD 1 then ran s1 (execRevokeKey0 s1) else s1
  | 0x18 => modSec s (fun x => { x with imgLo := v })
  | 0x1C => modSec s (fun x => { x with imgHi := v })
  | 0x20 => modSec s (fun x => { x with imgLen := v })
  | 0x24 => if v.getLsbD 0 then ran s (execImgLoad s) else s
  | 0x28 => modSec s (fun x => { x with ktLo := v })
  | 0x2C => modSec s (fun x => { x with ktHi := v })
  | 0x30 => if v.getLsbD 0 then ran s (execRecover s) else s
  | _ => s

def writePwr (s : State) (o : Nat) (v : W32) : State :=
  match o with
  | 0x08 => setCap s (wBits v 0 12)
  | 0x0C => setRamp s (wBits v 0 8)
  | 0x18 => modPwr s (fun w => { w with doze := wBits v 16 16, sleep := wBits v 0 16 })
  | _ => s

/-- Pulses, and the time without one, count from when the flow input comes into use (R361). -/
def flowFrom (was : Bool) (s : State) : State := if !was && flowUsed s then modThm s (fun t => { t with pulses := [], flowSince := s.tick }) else s

def writeThm (s : State) (o : Nat) (v : W32) : State :=
  match o with
  | 0x10 => flowFrom (flowUsed s) (modThm s (fun t => { t with flowOn := v.getLsbD 31 }))
  | 0x14 => flowFrom (flowUsed s) (modThm s (fun t => { t with ppl := wBits v 16 16, flowMin := wBits v 0 16 }))
  | 0x18 => modThm s (fun t => { t with sel := wBits v 0 9 })
  | 0x20 => if v.getLsbD 31 then ran s (execThmUnmask (wBits v 0 9) s) else s
  | _ => s

/-- FLT_RESET: the request of its UNIT (Table 16.3). -/
def writeReset (s : State) (v : W32) : State :=
  match wBits v 29 3 with
  | 1 => unitRequest s 1 (wBits v 22 7) (wBits v 20 2)
  | 2 => unitRequest s 2 (wBits v 22 7) 0
  | 3 => unitRequest s 3 (wBits v 15 5) 0
  | 4 => unitRequest s 4 (wBits v 10 5) 0
  | 5 => chipReset s 1
  | 6 => powerCycleRequest s
  | 7 => dieRequest s (wBits v 5 5)
  | _ => s

def writeFlt (s : State) (o : Nat) (v : W32) : State :=
  match o with
  | 0x0C => modFlt s (fun f => { f with logSel := v })
  | 0x30 => writeReset s v
  | _ => s

/-- A register of a ring at its place 0 to 4: BASE_LO, BASE_HI, CTL, TAIL, HEAD. -/
def writeRing (s : State) (t : RingId) (i : Nat) (v : W32) : State :=
  match i with
  | 0 => modRing s t (fun r => { r with baseLo := v &&& 0xFFFFF000 })
  | 1 => modRing s t (fun r => { r with baseHi := v })
  | 2 => modRing s t (fun r => ringCtl r (v.getLsbD 31) (v.getLsbD 30) (wBits v 0 5))
  | 4 => ran s (execRingHeadWrite t v s)
  | _ => s

def writeHst (s : State) (o : Nat) (v : W32) : State :=
  if o = 0x08 then modHst s (fun h => { h with barOn := v.getLsbD 0, barEver := h.barEver || v.getLsbD 0 })
  else if o = 0x0C then modHst s (fun h => { h with barGib := wBits v 0 9 })
  else if 0x100 ≤ o && o < 0x200 then
    let r : Fin 8 := Fin.ofNat 8 ((o - 0x100) / 0x20)
    if o % 0x20 = 0x14 then modHst s (fun h => { h with rings := vmod h.rings r (fun x => { x with mask := v.setWidth 3 }) })
    else writeRing s (.nr r) (o % 0x20 / 4) v
  else s

def writeStatus (s : State) (p : PartId) (o : Nat) (v : W32) : State :=
  if !(getPart s p).live then s
  else if o = 0x108 then modPst s p (fun x => { x with noticeOn := v.getLsbD 31, noticeCh := wBits v 0 3 })
  else if o = 0x10C then (if v.getLsbD 0 then ran s (execPartSprfence p s) else s)
  else if o = 0x480 then (if v.getLsbD 0 then ran s (execSnap p s) else s)
  else if 0x200 ≤ o && o < 0x400 then
    let c : Fin 8 := Fin.ofNat 8 ((o - 0x200) / 0x40)
    let i := o % 0x40
    if i = 0x04 then (if v.getLsbD 0 then ran s (execRestart p c s) else s)
    else if 0x18 ≤ i && i ≤ 0x28 then writeRing s (.ch p c) ((i - 0x18) / 4) v
    else s
  else s

/-- LNK_Pq_CTL: FULL takes effect before RETRAIN. -/
def writeLink (s : State) (d : Fin 3) (o : Nat) (v : W32) : State :=
  if o = 0x80008 then modLink s d.val (fun x => { x with selPart := wBits v 8 5, selTree := wBits v 0 3 })
  else if o < 0x800 && o % 0x100 = 0x04 then
    let p : Fin 24 := Fin.ofNat 24 (d.val * 8 + o / 0x100)
    let s1 := if v.getLsbD 1 then ran s (execLnkFull p s) else s
    if v.getLsbD 0 then ran s1 (execLnkRetrain p s1) else s1
  else s

/-- NSL_TCTL, NSL_TDATAn and NSL_TCHKn. -/
def writeCore (s : State) (k : CoreId) (o : Nat) (v : W32) : State :=
  if o = 0x8008 then
    let cmd := wBits v 0 3
    if 1 ≤ cmd && cmd ≤ 3 then testCommand s k cmd (wBits v 14 2) (wBits v 10 4) (wBits v 5 5)
    else modNsl s k (fun n => { n with layer := BitVec.ofNat 2 (wBits v 14 2), bank := BitVec.ofNat 4 (wBits v 10 4),
                                       block := BitVec.ofNat 5 (wBits v 5 5) })
  else if 0x8010 ≤ o && o < 0x8050 then modNsl s k (fun n => { n with tdata := vset n.tdata (Fin.ofNat 16 ((o - 0x8010) / 4)) v })
  else if o = 0x8058 then modNsl s k (fun n => { n with tchk := vset n.tchk 2 (v &&& 0xFF) })
  else if 0x8050 ≤ o && o < 0x8058 then modNsl s k (fun n => { n with tchk := vset n.tchk (Fin.ofNat 3 ((o - 0x8050) / 4)) v })
  else s

def writeStack (s : State) (n : Fin 8) (o : Nat) (v : W32) : State :=
  let tg := fun (f : TgRegs → TgRegs) => modStack s n.val (fun t => { t with tg := f t.tg })
  match o with
  | 0x40 => if wBits v 0 3 = 0 then tg (fun g => { g with pattern := wBits v 8 4 }) else tgCommand s n.val (wBits v 0 3) (wBits v 8 4)
  | 0x44 => tg (fun g => { g with chmask := v })
  | 0x48 => tg (fun g => { g with last := wBits v 16 14, first := wBits v 0 14 })
  | 0x4C => tg (fun g => { g with seed := v })
  | 0x4000C => if v.getLsbD 0 then ran s (execSprHfence n s) else s
  | _ => s

def writeKvp (s : State) (o : Nat) (v : W32) : State :=
  match o with
  | 0x10 => ran s (execKvpSelect .part v s)
  | 0x14 => ran s (execKvpSelect .vaLo v s)
  | 0x18 => ran s (execKvpSelect .vaHi v s)
  | _ => s

/-- DL_Pk_Bb_CTL: FULL takes effect before RETRAIN. -/
def writeDl (s : State) (o : Nat) (v : W32) : State :=
  if o < 22 * 0x400 && 0x40 ≤ o % 0x400 && o % 0x20 = 0x04 then
    let k : Fin 22 := Fin.ofNat 22 (o / 0x400)
    let b : Fin 8 := Fin.ofNat 8 ((o % 0x400 - 0x40) / 0x20)
    let s1 := if v.getLsbD 1 then ran s (execBundleFull k b s) else s
    if v.getLsbD 0 then ran s1 (execBundleRetrain k b s1) else s1
  else s

/-- A 32-bit write at a place: RW1C bits clear, RW and WO fields take effect, RO and RSVD ones are ignored. -/
def writeAt (s : State) (v : W32) (q : Place) : State :=
  match clearAt s v q with
  | some t => t
  | none =>
    match q with
    | .cfg o => writeCfg s o v
    | .sec o => writeSec s o v
    | .pwr o => writePwr s o v
    | .thm o => writeThm s o v
    | .flt o => writeFlt s o v
    | .hst o => writeHst s o v
    | .status p o => writeStatus s p o v
    | .link d o => writeLink s d o v
    | .tile t o => if o = 0x08 then modMeshTile s t.val (fun m => { m with sel := v &&& 0xFFFFE000 }) else s
    | .core k o => writeCore s k o v
    | .stack n o => writeStack s n o v
    | .kvp o => writeKvp s o v
    | .gst o => if (o = 0x04 || o = 0x1004) && v.getLsbD 0 then guestRetrain s (o / 0x1000) else s
    | .dl o => writeDl s o v
    | _ => s

end Sys2Proof.Machine
end

