-- ==== Sys2Proof/Machine/Access.lean ====
section
/-!
DEFINITION. Accesses of the host to management registers (00_scope.md, R4 to R6; 01_structure.md, R33; 12_host.md, R289), the
wake of a region (14_power_clocks.md, R338, R339) and configuration requests (17_package.md, R416).
-/

namespace Sys2Proof.Machine

/-- What names the shadow of a counter's high half (R6): the function and the offset of the high half. -/
def shadowKey (fn : Fn) (off : Nat) : Nat :=
  match fn with
  | .pf => off
  | .vf p => 2 ^ 33 * (p.val + 1) + off

/-- An access ends with a bus error: a record names the function and the offset (R5, Table 16.2). -/
def busError (s : State) (fn : Fn) (off : Nat) : State :=
  let f := match fn with | .pf => 0 | .vf p => p.val + 1
  respond (raiseRec s { recBlank 0x3D 3 3 with detail := BitVec.ofNat 16 f, address := BitVec.ofNat 64 off }) .busError

/-- The access is a naturally aligned one of 32 or 64 bits, and every register it names exists (R5, R33). -/
def accessOk (s : State) (a : RegAcc) : Bool :=
  (a.size = 4 && a.off % 4 = 0 && (regRead s a.fn a.off).isSome) ||
  (a.size = 8 && a.off % 8 = 0 && (regRead s a.fn a.off).isSome && (regRead s a.fn (a.off + 4)).isSome)

/-- A 32-bit read: the low half of a counter shadows the high half; the next read of the high half returns the shadow. With no shadow
waiting it returns the high half as it stands (DESIGN CHOICE, log 81). -/
def read32 (s : State) (fn : Fn) (off : Nat) : State × W32 :=
  match regRead s fn off with
  | none => (s, 0)
  | some (.word n) => (s, BitVec.ofNat 32 n)
  | some (.lo c) =>
    (modHub s (fun h => { h with shadow := tset h.shadow (shadowKey fn (off + 4)) (c.extractLsb' 32 32) }), c.extractLsb' 0 32)
  | some (.hi c) =>
    match s.hub.shadow.find? (fun e => e.1 = shadowKey fn off) with
    | some e => (modHub s (fun h => { h with shadow := h.shadow.filter (fun x => x.1 != shadowKey fn off) }), e.2)
    | none => (s, c.extractLsb' 32 32)

/-- The word that a register shows now. -/
def regNow (s : State) (fn : Fn) (off : Nat) : Nat :=
  match regRead s fn off with
  | some (.word n) => n % 2 ^ 32
  | some (.lo c) => c.toNat % 2 ^ 32
  | some (.hi c) => c.toNat / 2 ^ 32
  | none => 0

/-- A served read answers its value; the free values it may hold are not drawn again (log 16). -/
def serveRead (s : State) (a : RegAcc) : State :=
  let s' := { s with freeCtr := s.freeCtr + 1 }
  if a.size = 8 then respond s' (.value (BitVec.ofNat 64 (regNow s a.fn (a.off + 4) * 2 ^ 32 + regNow s a.fn a.off)))
  else
    let r := read32 s a.fn a.off
    respond { r.1 with freeCtr := s.freeCtr + 1 } (.value (r.2.setWidth 64))

def write32 (s : State) (fn : Fn) (off : Nat) (v : W32) : State :=
  match fnPlace fn off with
  | some q => writeAt s v q
  | none => s

/-- A served write; one of 64 bits writes the lower register first. -/
def serveWrite (s : State) (a : RegAcc) (v : BitVec 64) : State :=
  let s1 := write32 s a.fn a.off (v.extractLsb' 0 32)
  if a.size = 8 then write32 s1 a.fn (a.off + 4) (v.extractLsb' 32 32) else s1

def serveAcc (s : State) (a : RegAcc) : State :=
  if !accessOk s a then busError s a.fn a.off
  else match a.write with
    | none => serveRead s a
    | some v => serveWrite s a v

/-- The core whose block an access names. -/
def accCore (a : RegAcc) : Option CoreId :=
  match fnPlace a.fn a.off with
  | some (.core k _) => some k
  | _ => none

/-- An access of a function: none is served before phase B ends, nor on a virtual function without its partition (R289). One
to a core block of a region that is not Awake wakes it and completes after the wake (R338). -/
def access (s : State) (a : RegAcc) : State :=
  if !taprootUp s || !fnLive s a.fn then respond s .unsupported
  else if !accessOk s a then busError s a.fn a.off
  else
    match accCore a with
    | some k =>
      if (getRegion s (regionOf k)).power == .awake then serveAcc s a
      else modHub (wakeRegion s (regionOf k)) (fun h => { h with waitAcc := h.waitAcc ++ [a] })
    | none => serveAcc s a

/-- REGISTER_READ. -/
def execRegisterRead (fn : Fn) (off size : Nat) (s : State) : Out := .next (access s ⟨fn, off, size, none⟩)

/-- COUNTER_LOW_READ: a 32-bit read of the low half of a counter. -/
def execCounterLowRead (fn : Fn) (off : Nat) (s : State) : Out :=
  match regRead s fn off with
  | some (.lo _) => .next (access s ⟨fn, off, 4, none⟩)
  | _ => .next s

/-- REGISTER_WRITE. -/
def execRegisterWrite (fn : Fn) (off size : Nat) (val : BitVec 64) (s : State) : Out := .next (access s ⟨fn, off, size, some val⟩)

/-- RW1C_CLEAR: `val` is written to an event register; the bits of `hw` are set by hardware in the same cycle and stay. -/
def execRw1cClear (fn : Fn) (off : Nat) (val hw : BitVec 32) (s : State) : Out :=
  match (fnPlace fn off).bind (clearAt s 0) with
  | some _ => .next (access s ⟨fn, off, 4, some ((val &&& ~~~ hw).setWidth 64)⟩)
  | none => .next s

/-- CONFIG_REQUEST: retried until phase B ends, then served. What configuration space holds is the PCI Express specification's:
the data of a read are free, and a write that masks or unmasks a vector of MSI-X names it (log 48). -/
def execConfigRequest (fn : Fn) (acc : ConfigAcc) (s : State) : Out :=
  if !hubRuns s then .next s
  else if !taprootUp s then .next (respond s .retry)
  else if !fnLive s fn then .next (respond s .unsupported)
  else
    match acc with
    | .read => let r := drawFree s; .next (respond r.1 (.value (r.2 &&& 0xFFFFFFFF)))
    | .write => .next (respond s (.bytes 0 []))
    | .mask v on => .next (respond (maskVector s fn v on) (.bytes 0 []))

/-! ### Accesses of Tops (13_trust.md, R309, R310) -/

/-- FLT_HEARTBEAT, in BAR0 (Table 16.10). -/
def heartbeatAddr : Nat := 0x500038

/-- The BAR0 place lies in a unit whose registers Tops reads and writes: CLK, THM, the link dies and the die links. -/
def telemetryPlace : Place → Bool
  | .clk _ | .thm _ | .link .. | .dl _ => true
  | _ => false

/-- The register at the BAR0 address is one that Tops may reach: aligned (R5), existing, and in a unit of Table 13.2, or FLT_HEARTBEAT,
which Tops writes (R377). -/
def telemetryReg (s : State) (write : Bool) (addr : Nat) : Bool :=
  addr % 4 = 0 && (regRead s .pf addr).isSome && ((fnPlace .pf addr).any telemetryPlace || (write && addr = heartbeatAddr))

/-- The bytes of Tops code RAM and of Tops data RAM (Table 13.1). -/
def topsRamBytes : Nat := 2 ^ 23

/-- Table 13.2: what Tops may do in a unit, at an offset of it or, for a register of BAR0, at its address there. -/
def topsMay (s : State) (u : HubUnit) (write : Bool) (off addr : Nat) : Bool :=
  match u with
  | .fuses | .cfg | .memories => false
  | .sec => !write && off % 4 = 0 && (off = 0 || off = 8 || off = 0xC || (0x80 ≤ off && off ≤ 0xB8))
  | .telemetry => telemetryReg s write addr
  | .flash => s.sec.flashTops
  | .topsCode => !write && off + 4 ≤ topsRamBytes
  | .topsData => off + 4 ≤ topsRamBytes
  | .mailbox => true

/-- What a read of Tops returns: the register's value, with the shadow of R6, the word of Tops code RAM or of Tops data RAM, or a free
value where the memory is outside the model (the flash). -/
def topsRead (s : State) (u : HubUnit) (off addr : Nat) : State × W32 :=
  let s' := { s with freeCtr := s.freeCtr + 1 }
  match u with
  | .sec => (s', BitVec.ofNat 32 (regNow s .pf (0x200000 + off)))
  | .telemetry => let r := read32 s .pf addr; ({ r.1 with freeCtr := s.freeCtr + 1 }, r.2)
  | .topsCode => (s, BitVec.ofNat 32 (leNat ((s.sec.codeRam.drop off).take 4)))
  | .topsData => (s, BitVec.ofNat 32 (memReadNat s.sec.dataRam off 4))
  | _ => let r := drawFree s; (r.1, r.2.setWidth 32)


/-- TOPS_BUS_ACCESS: an access that Table 13.2 does not allow ends with a bus error and a record. A write of FLT_HEARTBEAT adds 1 to
it (R377); another write of a register that Tops may write is done. A request code in the mailbox that Table 13.3 does not list is
refused without effect; the listed requests are commands of their own (R310). -/
def execTopsBusAccess (u : HubUnit) (write : Option (BitVec 32)) (off addr : Nat) (s : State) : Out :=
  if !topsRuns s then .next s
  else if !topsMay s u write.isSome off addr then .next (toTops (raiseRec s (recHub 0x41 0 addr)) .busError)
  else
    match write, u with
    | none, _ => let r := topsRead s u off addr; .next (toTops r.1 (.word r.2))
    | some val, .telemetry =>
      if addr = heartbeatAddr then .next (modFlt s (fun f => { f with heartbeat := f.heartbeat + 1 }))
      else
        match fnPlace .pf addr with
        | some q => .next (writeAt s val q)
        | none => .next s
    | some val, .topsData => .next (writeTopsData s off (leBytes 4 val.toNat))
    | some val, .mailbox => .next (if 1 ≤ val.toNat && val.toNat ≤ 7 then s else topsAnswer s false)
    | some _, _ => .next s

/-! ### The end of a wake (R339) -/

/-- The notices that a core kept while its region slept go out. -/
def sendNotices (s : State) (k : CoreId) : State :=
  let l := (getCore s k).notices
  l.foldl (fun a n => sendMsg a k n.ctx n.dst n.tag n.cls n.payload) (modCore s k (fun m => { m with notices := [] }))

/-- The accesses that waited for the region are served, in order. -/
def serveWaits (s : State) (r : RegionId) : State :=
  let mine := fun (a : RegAcc) => match accCore a with | some k => regionOf k == r | none => false
  (s.hub.waitAcc.filter mine).foldl serveAcc (modHub s (fun h => { h with waitAcc := h.waitAcc.filter (fun a => !mine a) }))

/-- WAKE_COMPLETE: the region is Awake at 350 MHz. -/
def execWakeComplete (r : RegionId) (s : State) : Out :=
  if (getRegion s r).power == .waking && !ownerHeld (getRegion s r) then
    let s1 := modRegion s r (fun g => { g with power := .awake, level := 7, volt := Config.levelVolt r.val 7, moved := true, dozeTicks := 0 })
    .next (serveWaits (testWake ((regionCores r).foldl sendNotices s1) r) r)
  else .next s

end Sys2Proof.Machine
end

