-- ==== Sys2Proof/Machine/Mgmt.lean ====
section
/-!
DEFINITION. The management bus (17_package.md, R417 to R419). Where the spec names a DMTF command and not its bytes, the
response follows the DMTF specification (PRESUMED, log 47).
-/

namespace Sys2Proof.Machine

/-- The 7-bit address of the device on the bus. -/
def mgmtAddr (s : State) : Nat := 0x60 + s.hub.smbAddr.toNat

/-- The device acknowledges an address on the bus: its own, while Tops is RUNNING or in RECOVERY. -/
def mgmtAcks (s : State) (addr : Nat) : Bool := topsRuns s && decide (addr = mgmtAddr s)

/-- The packet error code of SMBus over the bytes of a transfer, addresses with their read or write bit among them: the CRC-8 with
polynomial x^8 + x^2 + x + 1, the most significant bit first (PRESUMED, log 47). -/
def smbPec (b : List Byte) : Byte :=
  b.foldl (fun c x => (List.range 8).foldl (fun (a : Byte) _ => if a.getLsbD 7 then (a <<< 1) ^^^ 0x07 else a <<< 1) (c ^^^ x)) 0

/-- A message that has arrived is taken when its address is acknowledged and its code agrees. -/
def smbTakes (s : State) (addr : Nat) (b : List Byte) (pec : Byte) : Bool :=
  mgmtAcks s addr && smbPec (BitVec.ofNat 8 (2 * addr) :: b) = pec

/-- The device answers only while Tops is RUNNING or in RECOVERY; otherwise it does not acknowledge its address (R417). -/
def mgmtAnswer (s : State) (b : List Byte) : Out :=
  .next (if topsRuns s then respond s (.bytes respMgmt b) else s)

/-! ### MCTP control commands (R417) -/

/-- SET_ENDPOINT_ID: endpoint IDs 0 and 0xFF are no endpoint's. -/
def execSetEndpointId (eid : Nat) (s : State) : Out :=
  if !topsRuns s then .next s
  else if eid = 0 || 255 ≤ eid then mgmtAnswer s [2]
  else mgmtAnswer (modHub s (fun h => { h with eid := eid })) [0, 0, BitVec.ofNat 8 eid, 0]

def execGetEndpointId (s : State) : Out := mgmtAnswer s [0, BitVec.ofNat 8 s.hub.eid, 0, 0]

/-- The supported message types (R417): control, PLDM, vendor-defined PCI. -/
def mctpTypes : List Byte := [0x00, 0x01, 0x7E]

/-- GET_MCTP_VERSION_SUPPORT: a type that is not supported is answered with code 0x80. -/
def execGetMctpVersionSupport (typ : Nat) (s : State) : Out :=
  let v := Config.mctpVersions typ
  if typ = 0xFF || mctpTypes.any (fun t => t.toNat = typ) then
    mgmtAnswer s ([0, BitVec.ofNat 8 v.length] ++ v.flatMap (fun e => leBytes 4 e.toNat))
  else mgmtAnswer s [0x80]

def execGetMessageTypeSupport (s : State) : Out := mgmtAnswer s ([0, 3] ++ mctpTypes)

/-- GET_VENDOR_DEFINED_MESSAGE_SUPPORT: one set, of Acnal's PCI-SIG vendor ID. -/
def execGetVendorDefinedMessageSupport (s : State) : Out :=
  mgmtAnswer s ([0, 0xFF, 0, BitVec.ofNat 8 (Config.vendorId / 256), BitVec.ofNat 8 Config.vendorId] ++ leBytes 2 Config.vendorVersion)

/-! ### PLDM (R418) -/

def execGetTid (s : State) : Out := mgmtAnswer s [0, BitVec.ofNat 8 Config.tid]

def pldmType (t : Nat) : Bool := t = 0 || t = 2

/-- GET_PLDM_VERSION: types 0 and 2. -/
def execGetPldmVersion (typ : Nat) (s : State) : Out :=
  if pldmType typ then mgmtAnswer s ([0] ++ leBytes 4 0 ++ [5] ++ Config.pldmVersions typ) else mgmtAnswer s [0x83]

/-- GET_PLDM_TYPES: a bit for each of types 0 to 63. -/
def execGetPldmTypes (s : State) : Out := mgmtAnswer s ([0] ++ leBytes 8 5)

/-- The PLDM commands that the device supports: GetTID, GetPLDMVersion, GetPLDMTypes and GetPLDMCommands of type 0, GetSensorReading of
type 2. -/
def pldmCommands (typ : Nat) : List Nat := if typ = 0 then [2, 3, 4, 5] else if typ = 2 then [0x11] else []

/-- Any other command returns ERROR_UNSUPPORTED_PLDM_CMD. -/
def pldmOther (typ cmd : Nat) (s : State) : Out := if (pldmCommands typ).contains cmd then .next s else mgmtAnswer s [0x05]

/-- GET_PLDM_COMMANDS: a bit for each command of the type. -/
def execGetPldmCommands (typ : Nat) (s : State) : Out :=
  if pldmType typ then mgmtAnswer s ([0] ++ leBytes 32 (((pldmCommands typ).map (fun c => 2 ^ c)).foldl (· + ·) 0)) else mgmtAnswer s [0x83]

/-- The reading of a sensor of Table 17.15: signed 16-bit for a temperature, unsigned 32-bit for the others; none for an ID that
the table does not list. The second part is none where the reading is unavailable. -/
def pldmSensor (s : State) (id : Nat) : Option (Bool × Option Nat) :=
  if 1 ≤ id && id ≤ 301 then
    some (true, if (getSensor s (id - 1)).valid then some (BitVec.ofInt 16 (getSensor s (id - 1)).temp).toNat else none)
  else if id = 0x200 then some (false, some (s.pwr.pkg / 10))
  else if id = 0x201 then some (false, some s.pwr.mv)
  else if id = 0x202 then some (false, some s.pwr.amps)
  else if id = 0x203 then some (false, some s.thm.flow)
  else if 0x300 ≤ id && id < 0x320 then some (false, some (vget s.thm.cycles (Fin.ofNat 32 id)).count)
  else if id = 0x320 then some (false, some 50000)
  else none

/-- GET_SENSOR_READING: an invalid reading reports the operational state unavailable. -/
def execGetSensorReading (id : Nat) (s : State) : Out :=
  match pldmSensor s id with
  | none => mgmtAnswer s [0x80]
  | some (temp, r) =>
    let size : Byte := if temp then 3 else 4
    let op : Byte := if r.isSome then 0 else 2
    mgmtAnswer s ([0, size, op, 0, 0, 0, 0] ++ leBytes (if temp then 2 else 4) (r.getD 0))

/-! ### Acnal's commands (R419, Table 17.16) -/

/-- The 4-byte status: 0 OK, 1 REFUSED, 2 MALFORMED, 3 BUSY. -/
def mgmtStatus (n : Nat) : List Byte := leBytes 4 n

/-- A command byte that Table 17.16 does not list is MALFORMED. -/
def mgmtOther (cmd : Nat) (s : State) : Out := if 1 ≤ cmd && cmd ≤ 6 then .next s else mgmtAnswer s (mgmtStatus 2)

/-- GET_STATUS: READY, TOPS_STATE, FLT_STATUS, THM_STATUS and PWR_STATUS, a word each. -/
def execGetStatus (s : State) : Out :=
  mgmtAnswer s (mgmtStatus 0 ++ leBytes 4 s.hub.ready.toNat ++ leBytes 4 (topsCode s.sec.tops) ++ leBytes 4 (fltStatusWord s) ++
    leBytes 4 (thmStatusWord s) ++ leBytes 4 (pwrStatusWord s))

/-- SET_POWER_CAP: a value outside the range of R333 changes nothing and is REFUSED. -/
def execSetPowerCap (watts : Nat) (s : State) : Out :=
  if !topsRuns s then .next s
  else mgmtAnswer (setCap s watts) (mgmtStatus (if 500 ≤ watts && watts ≤ 2500 then 0 else 1))

/-- MGMT_RESET: a RESET request of Tops; unit 6, and another unit that Tops may not reset, is REFUSED. -/
def execMgmtReset (unit target ctx : Nat) (s : State) : Out :=
  if !topsRuns s then .next s
  else if unit = 5 then .next (chipReset (respond s (.bytes respMgmt (mgmtStatus 0))) 2)
  else if 1 ≤ unit && unit ≤ 4 then
    let s1 := unitRequest s unit target ctx true
    mgmtAnswer s1 (mgmtStatus (match s1.flt.stCode with | 0 => 0 | 1 => 3 | _ => 1))
  else mgmtAnswer s (mgmtStatus 1)

/-- GET_FAULT_LOG: up to 8 records of the log from the given index, in the order written. -/
def execGetFaultLog (index : BitVec 32) (s : State) : Out :=
  mgmtAnswer s (mgmtStatus 0 ++ ((s.flt.log.dropWhile (fun r => r.index != index)).take 8).flatMap recBytes)

/-- An event in 8 bytes, in the model's own form (log 49): its kind, whether it begins, the die, and a record's index. -/
def eventBytes : MgmtEv → List Byte
  | .throttle b die => [1, if b then 1 else 0, BitVec.ofNat 8 die, 0] ++ leBytes 4 0
  | .record i => [2, 0, 0, 0] ++ leBytes 4 i.toNat
  | .chipReset => [3, 0, 0, 0] ++ leBytes 4 0
  | .outOfService => [4, 0, 0, 0] ++ leBytes 4 0

/-- ALERT_N is low: Tops holds events that have not been read, or the emergency hold is in force. -/
def alertLow (s : State) : Bool := !s.hub.events.isEmpty || s.thm.emergency

/-- GET_EVENTS: the pending events, oldest first, are read. -/
def execGetEvents (s : State) : Out :=
  if !topsRuns s then .next s
  else mgmtAnswer (modHub s (fun h => { h with events := [] })) (mgmtStatus 0 ++ s.hub.events.flatMap eventBytes)

/-- ATTEST: a body of R322 over MCTP. -/
def execAttest (kind : Nat) (head : ReqHead) (nonce : List Byte) (s : State) : Out :=
  if topsRuns s then .next (submitSvc s (.mctp true kind head.scope head.pad nonce)) else .next s

end Sys2Proof.Machine
end

