-- ==== Sys2Proof/Machine/VectorUnit.lean ====
section
/-!
DEFINITION. The vector instructions (03_cores.md, Table 3.10, R71).
-/

namespace Sys2Proof.Machine

/-- Lane by lane over two registers. -/
def mapLanes2 (l : Lane) (op : Nat → Nat → Nat) (a b : VReg) : VReg :=
  BitVec.ofNat 8192 (packLanes (laneBits l) (List.zipWith op (unpackLanes l a.toNat) (unpackLanes l b.toNat)))

/-- Lane by lane over three registers. -/
def mapLanes3 (l : Lane) (op : Nat → Nat → Nat → Nat) (a b c : VReg) : VReg :=
  BitVec.ofNat 8192 (packLanes (laneBits l)
    (List.zipWith (fun f z => f z) (List.zipWith (fun x y => op x y) (unpackLanes l a.toNat) (unpackLanes l b.toNat))
      (unpackLanes l c.toNat)))

/-- v[D] := op v[A] v[B] in the lane type of MOD[1:0]; `allow` says which lane types are legal. -/
def vecR (k : CoreId) (f : FieldsR) (allow : Lane → Bool) (op : Lane → Nat → Nat → Nat) (s : State) : Out :=
  .next (runInstr k (fun c s =>
    match laneOf f.mod.toNat with
    | none => iFault s .illegal
    | some l =>
      if okR f true true true false 3 && vtOk f.d && vtOk f.a && vtOk f.b && allow l then
        .done (modCtx s k c (fun x => vSet x f.d (mapLanes2 l (op l) (vGet x f.a) (vGet x f.b))))
      else iFault s .illegal) s)

def isInt : Lane → Bool
  | .int32 => true
  | _ => false

def execVadd (k : CoreId) (f : FieldsR) (s : State) : Out := vecR k f (fun _ => true) laneAdd s
def execVsub (k : CoreId) (f : FieldsR) (s : State) : Out := vecR k f (fun _ => true) laneSub s
def execVmul (k : CoreId) (f : FieldsR) (s : State) : Out := vecR k f (fun _ => true) laneMul s
def execVmax (k : CoreId) (f : FieldsR) (s : State) : Out := vecR k f (fun _ => true) (fun l => laneSel l true) s
def execVmin (k : CoreId) (f : FieldsR) (s : State) : Out := vecR k f (fun _ => true) (fun l => laneSel l false) s

/-- Left shift of a lane by the low 5 bits of the other. -/
def laneShl (a b : Nat) : Nat := (a <<< (b % 32)) % 2 ^ 32
/-- Arithmetic right shift of a lane. -/
def laneSra (a b : Nat) : Nat := ((BitVec.ofNat 32 a).sshiftRight (b % 32)).toNat

def execVshl (k : CoreId) (f : FieldsR) (s : State) : Out := vecR k f isInt (fun _ => laneShl) s
def execVsra (k : CoreId) (f : FieldsR) (s : State) : Out := vecR k f isInt (fun _ => laneSra) s

/-- VFMA: FP32 or BF16. -/
def execVfma (k : CoreId) (f : FieldsR) (s : State) : Out :=
  .next (runInstr k (fun c s =>
    match laneOf f.mod.toNat with
    | none => iFault s .illegal
    | some l =>
      if okR f true true true true 3 && vtOk f.d && vtOk f.a && vtOk f.b && vtOk f.c && !isInt l then
        .done (modCtx s k c (fun x => vSet x f.d (mapLanes3 l (laneFma l) (vGet x f.a) (vGet x f.b) (vGet x f.c))))
      else iFault s .illegal) s)

/-- Bitwise over 8,192 bits; MOD[1:0] is ignored. -/
def vecBits (k : CoreId) (f : FieldsR) (op : VReg → VReg → VReg) (s : State) : Out :=
  .next (runInstr k (fun c s =>
    if okR f true true true false 3 && vtOk f.d && vtOk f.a && vtOk f.b then
      .done (modCtx s k c (fun x => vSet x f.d (op (vGet x f.a) (vGet x f.b))))
    else iFault s .illegal) s)

def execVand (k : CoreId) (f : FieldsR) (s : State) : Out := vecBits k f (· &&& ·) s
def execVor (k : CoreId) (f : FieldsR) (s : State) : Out := vecBits k f (· ||| ·) s
def execVxor (k : CoreId) (f : FieldsR) (s : State) : Out := vecBits k f (· ^^^ ·) s

/-- The result of VCVT (R71): `half` is MOD[4]. -/
def cvtReg (src dst : Lane) (half : Nat) (old a : VReg) : VReg :=
  let xs := unpackLanes src a.toNat
  if laneCount src = laneCount dst then
    BitVec.ofNat 8192 (packLanes (laneBits dst) (xs.map (laneCvt src dst)))
  else if src = .bf16 then
    BitVec.ofNat 8192 (packLanes 32 (((xs.drop (256 * half)).take 256).map (laneCvt src dst)))
  else
    let ys := xs.map (laneCvt src dst)
    let os := unpackLanes .bf16 old.toNat
    BitVec.ofNat 8192 (packLanes 16 (if half = 0 then ys ++ os.drop 256 else os.take 256 ++ ys))

def execVcvt (k : CoreId) (f : FieldsR) (s : State) : Out :=
  .next (runInstr k (fun c s =>
    let m := f.mod.toNat
    match laneOf (m % 4), laneOf (m / 4 % 4) with
    | some src, some dst =>
      if okR f true true false false 31 && vtOk f.d && vtOk f.a && (laneCount src != laneCount dst || m / 16 = 0) then
        .done (modCtx s k c (fun x => vSet x f.d (cvtReg src dst (m / 16) (vGet x f.d) (vGet x f.a))))
      else iFault s .illegal
    | _, _ => iFault s .illegal) s)

/-- Lane 0 of v[D] := the fixed-tree combination of v[A]; the other lanes are zero. -/
def vecTree (k : CoreId) (f : FieldsR) (op : Lane → Nat → Nat → Nat) (s : State) : Out :=
  .next (runInstr k (fun c s =>
    match laneOf f.mod.toNat with
    | none => iFault s .illegal
    | some l =>
      if okR f true true false false 3 && vtOk f.d && vtOk f.a then
        .done (modCtx s k c (fun x =>
          vSet x f.d (BitVec.ofNat 8192 (treeFold (op l) (treeLevels l) (unpackLanes l (vGet x f.a).toNat)))))
      else iFault s .illegal) s)

def execVrsum (k : CoreId) (f : FieldsR) (s : State) : Out := vecTree k f laneAdd s
def execVrmax (k : CoreId) (f : FieldsR) (s : State) : Out := vecTree k f (fun l => laneSel l true) s

/-- VBCAST: every lane := the low lane-width bits of g[A]. -/
def execVbcast (k : CoreId) (f : FieldsR) (s : State) : Out :=
  .next (runInstr k (fun c s =>
    match laneOf f.mod.toNat with
    | none => iFault s .illegal
    | some l =>
      if okR f true true false false 3 && vtOk f.d then
        .done (modCtx s k c (fun x =>
          vSet x f.d (BitVec.ofNat 8192 (packLanes (laneBits l) (List.replicate (laneCount l) (gGet x f.a).toNat)))))
      else iFault s .illegal) s)

/-- VEXT: g[D] := lane (g[B] mod lanes) of v[A], sign-extended. -/
def execVext (k : CoreId) (f : FieldsR) (s : State) : Out :=
  .next (runInstr k (fun c s =>
    match laneOf f.mod.toNat with
    | none => iFault s .illegal
    | some l =>
      if okR f true true true false 3 && vtOk f.a then
        let x := getCtx s k c
        let n := (gGet x f.b).toNat % laneCount l
        let v := ((vGet x f.a) >>> (n * laneBits l))
        .done (setG s k c f.d (if l = .bf16 then (v.setWidth 16).signExtend 64 else (v.setWidth 32).signExtend 64))
      else iFault s .illegal) s)

end Sys2Proof.Machine
end

