-- ==== Sys2Proof/Machine/Dispatch.lean ====
section
/-!
DEFINITION. The dispatch: one arm per command, one direct call of its meaning.
-/

namespace Sys2Proof.Machine

def exec (i : Instr) (s : State) : Host.Outcome State Fault Refusal :=
  match i with
  | .registerWrite fn off size val => Sys2Proof.Machine.execRegisterWrite fn off size val s
  | .rw1cClear fn off val hw => Sys2Proof.Machine.execRw1cClear fn off val hw s
  | .counterLowRead fn off => Sys2Proof.Machine.execCounterLowRead fn off s
  | .configRequest fn acc => Sys2Proof.Machine.execConfigRequest fn acc s
  | .load => Sys2Proof.Machine.execLoad s
  | .abort => Sys2Proof.Machine.execAbort s
  | .streamFetchComplete bytes => Sys2Proof.Machine.execStreamFetchComplete bytes s
  | .fetchFault offset => Sys2Proof.Machine.execFetchFault offset s
  | .streamCommit => Sys2Proof.Machine.execStreamCommit s
  | .teardownCommit => Sys2Proof.Machine.execTeardownCommit s
  | .tableStored => Sys2Proof.Machine.execTableStored s
  | .tableStoredTimeout => Sys2Proof.Machine.execTableStoredTimeout s
  | .nop k w => Sys2Proof.Machine.execNop k w s
  | .add k f => Sys2Proof.Machine.execAdd k f s
  | .sub k f => Sys2Proof.Machine.execSub k f s
  | .mul k f => Sys2Proof.Machine.execMul k f s
  | .mulhu k f => Sys2Proof.Machine.execMulhu k f s
  | .andR k f => Sys2Proof.Machine.execAndR k f s
  | .orR k f => Sys2Proof.Machine.execOrR k f s
  | .xor k f => Sys2Proof.Machine.execXor k f s
  | .shl k f => Sys2Proof.Machine.execShl k f s
  | .shr k f => Sys2Proof.Machine.execShr k f s
  | .sra k f => Sys2Proof.Machine.execSra k f s
  | .slt k f => Sys2Proof.Machine.execSlt k f s
  | .sltu k f => Sys2Proof.Machine.execSltu k f s
  | .minR k f => Sys2Proof.Machine.execMinR k f s
  | .maxR k f => Sys2Proof.Machine.execMaxR k f s
  | .tset k f => Sys2Proof.Machine.execTset k f s
  | .tget k f => Sys2Proof.Machine.execTget k f s
  | .rdid k f => Sys2Proof.Machine.execRdid k f s
  | .addi k f => Sys2Proof.Machine.execAddi k f s
  | .andi k f => Sys2Proof.Machine.execAndi k f s
  | .ori k f => Sys2Proof.Machine.execOri k f s
  | .xori k f => Sys2Proof.Machine.execXori k f s
  | .shli k f => Sys2Proof.Machine.execShli k f s
  | .shri k f => Sys2Proof.Machine.execShri k f s
  | .srai k f => Sys2Proof.Machine.execSrai k f s
  | .slti k f => Sys2Proof.Machine.execSlti k f s
  | .sltui k f => Sys2Proof.Machine.execSltui k f s
  | .ld k f => Sys2Proof.Machine.execLd k f s
  | .st k f => Sys2Proof.Machine.execSt k f s
  | .ldw k f => Sys2Proof.Machine.execLdw k f s
  | .stw k f => Sys2Proof.Machine.execStw k f s
  | .li k f => Sys2Proof.Machine.execLi k f s
  | .lih k f => Sys2Proof.Machine.execLih k f s
  | .beq k f => Sys2Proof.Machine.execBeq k f s
  | .bne k f => Sys2Proof.Machine.execBne k f s
  | .blt k f => Sys2Proof.Machine.execBlt k f s
  | .bge k f => Sys2Proof.Machine.execBge k f s
  | .bltu k f => Sys2Proof.Machine.execBltu k f s
  | .bgeu k f => Sys2Proof.Machine.execBgeu k f s
  | .jal k f => Sys2Proof.Machine.execJal k f s
  | .jr k f => Sys2Proof.Machine.execJr k f s
  | .vld k f => Sys2Proof.Machine.execVld k f s
  | .vst k f => Sys2Proof.Machine.execVst k f s
  | .vadd k f => Sys2Proof.Machine.execVadd k f s
  | .vsub k f => Sys2Proof.Machine.execVsub k f s
  | .vmul k f => Sys2Proof.Machine.execVmul k f s
  | .vfma k f => Sys2Proof.Machine.execVfma k f s
  | .vmax k f => Sys2Proof.Machine.execVmax k f s
  | .vmin k f => Sys2Proof.Machine.execVmin k f s
  | .vand k f => Sys2Proof.Machine.execVand k f s
  | .vor k f => Sys2Proof.Machine.execVor k f s
  | .vxor k f => Sys2Proof.Machine.execVxor k f s
  | .vshl k f => Sys2Proof.Machine.execVshl k f s
  | .vsra k f => Sys2Proof.Machine.execVsra k f s
  | .vcvt k f => Sys2Proof.Machine.execVcvt k f s
  | .vrsum k f => Sys2Proof.Machine.execVrsum k f s
  | .vrmax k f => Sys2Proof.Machine.execVrmax k f s
  | .vbcast k f => Sys2Proof.Machine.execVbcast k f s
  | .vext k f => Sys2Proof.Machine.execVext k f s
  | .accz k f => Sys2Proof.Machine.execAccz k f s
  | .mma k f => Sys2Proof.Machine.execMma k f s
  | .epi k f => Sys2Proof.Machine.execEpi k f s
  | .attn k f => Sys2Proof.Machine.execAttn k f s
  | .twait k f => Sys2Proof.Machine.execTwait k f s
  | .accrd k f => Sys2Proof.Machine.execAccrd k f s
  | .accwr k f => Sys2Proof.Machine.execAccwr k f s
  | .strmSet k f => Sys2Proof.Machine.execStrmSet k f s
  | .strmGo k f => Sys2Proof.Machine.execStrmGo k f s
  | .strmWait k f => Sys2Proof.Machine.execStrmWait k f s
  | .strmSwap k f => Sys2Proof.Machine.execStrmSwap k f s
  | .strmCancel k f => Sys2Proof.Machine.execStrmCancel k f s
  | .strmFill k f => Sys2Proof.Machine.execStrmFill k f s
  | .sprIssue k f => Sys2Proof.Machine.execSprIssue k f s
  | .sprFence k f => Sys2Proof.Machine.execSprFence k f s
  | .colIssue k f => Sys2Proof.Machine.execColIssue k f s
  | .syncAdd k f => Sys2Proof.Machine.execSyncAdd k f s
  | .syncWait k f => Sys2Proof.Machine.execSyncWait k f s
  | .syncArm k f => Sys2Proof.Machine.execSyncArm k f s
  | .syncAbort k f => Sys2Proof.Machine.execSyncAbort k f s
  | .syncCancel k f => Sys2Proof.Machine.execSyncCancel k f s
  | .send k f => Sys2Proof.Machine.execSend k f s
  | .recv k f => Sys2Proof.Machine.execRecv k f s
  | .hpost k f => Sys2Proof.Machine.execHpost k f s
  | .halt k f => Sys2Proof.Machine.execHalt k f s
  | .ctxStart k f => Sys2Proof.Machine.execCtxStart k f s
  | .taskBegin k f => Sys2Proof.Machine.execTaskBegin k f s
  | .taskEnd k f => Sys2Proof.Machine.execTaskEnd k f s
  | .fence k f => Sys2Proof.Machine.execFence k f s
  | .fexit k f => Sys2Proof.Machine.execFexit k f s
  | .yield k f => Sys2Proof.Machine.execYield k f s
  | .brk k f => Sys2Proof.Machine.execBrk k f s
  | .contextSwitch k => Sys2Proof.Machine.execContextSwitch k s
  | .faultRecordWrite => Sys2Proof.Machine.execFaultRecordWrite s
  | .mmaPassStart k => Sys2Proof.Machine.execMmaPassStart k s
  | .passCommit k us parity => Sys2Proof.Machine.execPassCommit k us parity s
  | .replayStart k => Sys2Proof.Machine.execReplayStart k s
  | .acczExecute k => Sys2Proof.Machine.execAcczExecute k s
  | .accrdExecute k => Sys2Proof.Machine.execAccrdExecute k s
  | .accwrExecute k => Sys2Proof.Machine.execAccwrExecute k s
  | .epiStart k => Sys2Proof.Machine.execEpiStart k s
  | .epiTileRelease k => Sys2Proof.Machine.execEpiTileRelease k s
  | .epiComplete k => Sys2Proof.Machine.execEpiComplete k s
  | .attnStart k => Sys2Proof.Machine.execAttnStart k s
  | .attnFetchReturn k idx ups => Sys2Proof.Machine.execAttnFetchReturn k idx ups s
  | .thinSumReturn j => Sys2Proof.Machine.execThinSumReturn j s
  | .attnComplete k => Sys2Proof.Machine.execAttnComplete k s
  | .streamRequestIssue k ats => Sys2Proof.Machine.execStreamRequestIssue k ats s
  | .streamRequestReturn k idx data err => Sys2Proof.Machine.execStreamRequestReturn k idx data err s
  | .deadlineMiss k c slot => Sys2Proof.Machine.execDeadlineMiss k c slot s
  | .scrubRead k ups => Sys2Proof.Machine.execScrubRead k ups s
  | .cetEvent r ups => Sys2Proof.Machine.execCetEvent r ups s
  | .nslRowRepairDone k idx => Sys2Proof.Machine.execNslRowRepairDone k idx s
  | .sramRowRetireDone k idx => Sys2Proof.Machine.execSramRowRetireDone k idx s
  | .nslRefresh k bank => Sys2Proof.Machine.execNslRefresh k bank s
  | .nslWriteRaw k layer bank block => Sys2Proof.Machine.execNslWriteRaw k layer bank block s
  | .nslReadRaw k layer bank block => Sys2Proof.Machine.execNslReadRaw k layer bank block s
  | .nslReadChecked k layer bank block => Sys2Proof.Machine.execNslReadChecked k layer bank block s
  | .stackUnitGrant n => Sys2Proof.Machine.execStackUnitGrant n s
  | .stackScrubRead n ch ups => Sys2Proof.Machine.execStackScrubRead n ch ups s
  | .stackCetEvent n => Sys2Proof.Machine.execStackCetEvent n s
  | .stackPprDone n idx => Sys2Proof.Machine.execStackPprDone n idx s
  | .stackRefresh n ch bank => Sys2Proof.Machine.execStackRefresh n ch bank s
  | .tgWrite n pattern => Sys2Proof.Machine.execTgWrite n pattern s
  | .tgRead n pattern => Sys2Proof.Machine.execTgRead n pattern s
  | .tgWriteRead n pattern => Sys2Proof.Machine.execTgWriteRead n pattern s
  | .tgMarch n pattern => Sys2Proof.Machine.execTgMarch n pattern s
  | .tgDone n => Sys2Proof.Machine.execTgDone n s
  | .sproutCommandArrive j => Sys2Proof.Machine.execSproutCommandArrive j s
  | .gemv n parity => Sys2Proof.Machine.execGemv n parity s
  | .gemvAcc n parity => Sys2Proof.Machine.execGemvAcc n parity s
  | .fill n parity => Sys2Proof.Machine.execFill n parity s
  | .qkThin n parity => Sys2Proof.Machine.execQkThin n parity s
  | .pvThin n parity => Sys2Proof.Machine.execPvThin n parity s
  | .sproutCommandComplete n => Sys2Proof.Machine.execSproutCommandComplete n s
  | .sprHfence n => Sys2Proof.Machine.execSprHfence n s
  | .partSprfence p => Sys2Proof.Machine.execPartSprfence p s
  | .alloc p => Sys2Proof.Machine.execAlloc p s
  | .share p => Sys2Proof.Machine.execShare p s
  | .kvpRelease p => Sys2Proof.Machine.execKvpRelease p s
  | .cow p => Sys2Proof.Machine.execCow p s
  | .kvpCopyEnd p => Sys2Proof.Machine.execKvpCopyEnd p s
  | .kvpSelect w v => Sys2Proof.Machine.execKvpSelect w v s
  | .msgArrive j => Sys2Proof.Machine.execMsgArrive j s
  | .ack j => Sys2Proof.Machine.execAck j s
  | .refuse j => Sys2Proof.Machine.execRefuse j s
  | .resumeSend k c => Sys2Proof.Machine.execResumeSend k c s
  | .resume j => Sys2Proof.Machine.execResume j s
  | .error j => Sys2Proof.Machine.execError j s
  | .meshMisroute m t => Sys2Proof.Machine.execMeshMisroute m t s
  | .syncOpAdd j => Sys2Proof.Machine.execSyncOpAdd j s
  | .syncOpArm j => Sys2Proof.Machine.execSyncOpArm j s
  | .syncOpAbort j => Sys2Proof.Machine.execSyncOpAbort j s
  | .syncOpCancel j => Sys2Proof.Machine.execSyncOpCancel j s
  | .syncOpWait j => Sys2Proof.Machine.execSyncOpWait j s
  | .syncReply j => Sys2Proof.Machine.execSyncReply j s
  | .redChunkArrive j => Sys2Proof.Machine.execRedChunkArrive j s
  | .redCombine r idx => Sys2Proof.Machine.execRedCombine r idx s
  | .linkDataFlit p flit pair pos => Sys2Proof.Machine.execLinkDataFlit p flit pair pos s
  | .linkCtlFlit p flit => Sys2Proof.Machine.execLinkCtlFlit p flit s
  | .up p => Sys2Proof.Machine.execUp p s
  | .down p => Sys2Proof.Machine.execDown p s
  | .frameAck p => Sys2Proof.Machine.execFrameAck p s
  | .hello p => Sys2Proof.Machine.execHello p s
  | .subtree p => Sys2Proof.Machine.execSubtree p s
  | .ready p => Sys2Proof.Machine.execReady p s
  | .treeReset p => Sys2Proof.Machine.execTreeReset p s
  | .fail p => Sys2Proof.Machine.execFail p s
  | .throttleNotice p => Sys2Proof.Machine.execThrottleNotice p s
  | .desc p => Sys2Proof.Machine.execDesc p s
  | .helloSend p t => Sys2Proof.Machine.execHelloSend p t s
  | .engineCombine p t idx => Sys2Proof.Machine.execEngineCombine p t idx s
  | .portTrainStepDone p r => Sys2Proof.Machine.execPortTrainStepDone p r s
  | .portTrainTimeout p => Sys2Proof.Machine.execPortTrainTimeout p s
  | .portRetrain p => Sys2Proof.Machine.execPortRetrain p s
  | .lnkRetrain p => Sys2Proof.Machine.execLnkRetrain p s
  | .lnkFull p => Sys2Proof.Machine.execLnkFull p s
  | .chipLaneLockLoss p lane => Sys2Proof.Machine.execChipLaneLockLoss p lane s
  | .windowWrite p c off data => Sys2Proof.Machine.execWindowWrite p c off data s
  | .messageTake p c => Sys2Proof.Machine.execMessageTake p c s
  | .hostBodyForward => Sys2Proof.Machine.execHostBodyForward s
  | .entryWrite t fail bad => Sys2Proof.Machine.execEntryWrite t fail bad s
  | .ringEnable t log2 arm => Sys2Proof.Machine.execRingEnable t log2 arm s
  | .ringArm t => Sys2Proof.Machine.execRingArm t s
  | .ringHeadWrite t v => Sys2Proof.Machine.execRingHeadWrite t v s
  | .restart p c => Sys2Proof.Machine.execRestart p c s
  | .vfFlr p => Sys2Proof.Machine.execVfFlr p s
  | .pfFlr => Sys2Proof.Machine.execPfFlr s
  | .bar4Read off len => Sys2Proof.Machine.execBar4Read off len s
  | .bar4Write off data => Sys2Proof.Machine.execBar4Write off data s
  | .bar4Enable => Sys2Proof.Machine.execBar4Enable s
  | .snap p => Sys2Proof.Machine.execSnap p s
  | .submitStream len => Sys2Proof.Machine.execSubmitStream len s
  | .claim pin timer => Sys2Proof.Machine.execClaim pin timer s
  | .release pin timer => Sys2Proof.Machine.execRelease pin timer s
  | .resetRequest unit target ctx => Sys2Proof.Machine.execResetRequest unit target ctx s
  | .powerCap v => Sys2Proof.Machine.execPowerCap v s
  | .report req => Sys2Proof.Machine.execReport req s
  | .commit => Sys2Proof.Machine.execCommit s
  | .revokeKey0 => Sys2Proof.Machine.execRevokeKey0 s
  | .imgLoad => Sys2Proof.Machine.execImgLoad s
  | .imgFetchComplete bytes => Sys2Proof.Machine.execImgFetchComplete bytes s
  | .recover => Sys2Proof.Machine.execRecover s
  | .ktFetchComplete bytes => Sys2Proof.Machine.execKtFetchComplete bytes s
  | .doeReport fn req => Sys2Proof.Machine.execDoeReport fn req s
  | .doeChain req => Sys2Proof.Machine.execDoeChain req s
  | .guestCertOffer g cert => Sys2Proof.Machine.execGuestCertOffer g cert s
  | .guestChallengeResponse g sig => Sys2Proof.Machine.execGuestChallengeResponse g sig s
  | .guestChallengeTimeout g => Sys2Proof.Machine.execGuestChallengeTimeout g s
  | .heartbeatCheck => Sys2Proof.Machine.execHeartbeatCheck s
  | .topsBusAccess u write off addr => Sys2Proof.Machine.execTopsBusAccess u write off addr s
  | .hubMemUncorrectable m => Sys2Proof.Machine.execHubMemUncorrectable m s
  | .controlRound watts pkg mv amps => Sys2Proof.Machine.execControlRound watts pkg mv amps s
  | .pwrCapWrite v => Sys2Proof.Machine.execPwrCapWrite v s
  | .pwrRampWrite v => Sys2Proof.Machine.execPwrRampWrite v s
  | .brakeAssert => Sys2Proof.Machine.execBrakeAssert s
  | .brakeRelease => Sys2Proof.Machine.execBrakeRelease s
  | .brakeHoldEnd => Sys2Proof.Machine.execBrakeHoldEnd s
  | .dozeEntry r => Sys2Proof.Machine.execDozeEntry r s
  | .sleepEntry r => Sys2Proof.Machine.execSleepEntry r s
  | .wakeComplete r => Sys2Proof.Machine.execWakeComplete r s
  | .stackSelfRefreshEntry n => Sys2Proof.Machine.execStackSelfRefreshEntry n s
  | .stackSelfRefreshExit n => Sys2Proof.Machine.execStackSelfRefreshExit n s
  | .clockMonitorWindow die counts => Sys2Proof.Machine.execClockMonitorWindow die counts s
  | .sysrefRestored => Sys2Proof.Machine.execSysrefRestored s
  | .trimWindow count => Sys2Proof.Machine.execTrimWindow count s
  | .regionRailFault r => Sys2Proof.Machine.execRegionRailFault r s
  | .sensorRead rs => Sys2Proof.Machine.execSensorRead rs s
  | .housekeepingRound rs => Sys2Proof.Machine.execHousekeepingRound rs s
  | .shutdownRailsOff => Sys2Proof.Machine.execShutdownRailsOff s
  | .thmUnmask id => Sys2Proof.Machine.execThmUnmask id s
  | .flowPulse => Sys2Proof.Machine.execFlowPulse s
  | .flowStop => Sys2Proof.Machine.execFlowStop s
  | .lifeSave => Sys2Proof.Machine.execLifeSave s
  | .resetContext k c => Sys2Proof.Machine.execResetContext k c s
  | .resetCore k => Sys2Proof.Machine.execResetCore k s
  | .resetRegion r => Sys2Proof.Machine.execResetRegion r s
  | .resetPartition p => Sys2Proof.Machine.execResetPartition p s
  | .partitionResetDrained => Sys2Proof.Machine.execPartitionResetDrained s
  | .resetComplete => Sys2Proof.Machine.execResetComplete s
  | .resetChip => Sys2Proof.Machine.execResetChip s
  | .resetPowerCycle => Sys2Proof.Machine.execResetPowerCycle s
  | .resetDie d => Sys2Proof.Machine.execResetDie d s
  | .chipResetTimeout => Sys2Proof.Machine.execChipResetTimeout s
  | .dlFlitReceive pair b dir flit lchk => Sys2Proof.Machine.execDlFlitReceive pair b dir flit lchk s
  | .dlLaneLockLoss pair b lane => Sys2Proof.Machine.execDlLaneLockLoss pair b lane s
  | .bundleRetrain pair b => Sys2Proof.Machine.execBundleRetrain pair b s
  | .bundleFull pair b => Sys2Proof.Machine.execBundleFull pair b s
  | .bundleTrainComplete pair b clock bad => Sys2Proof.Machine.execBundleTrainComplete pair b clock bad s
  | .vauxUp => Sys2Proof.Machine.execVauxUp s
  | .vauxLoss => Sys2Proof.Machine.execVauxLoss s
  | .vinUp => Sys2Proof.Machine.execVinUp s
  | .vinFail => Sys2Proof.Machine.execVinFail s
  | .perstAssert => Sys2Proof.Machine.execPerstAssert s
  | .perstRelease => Sys2Proof.Machine.execPerstRelease s
  | .phaseA => Sys2Proof.Machine.execPhaseA s
  | .phaseB flash romBad addr link => Sys2Proof.Machine.execPhaseB flash romBad addr link s
  | .phaseC => Sys2Proof.Machine.execPhaseC s
  | .phaseD => Sys2Proof.Machine.execPhaseD s
  | .phaseE stks => Sys2Proof.Machine.execPhaseE stks s
  | .phaseF => Sys2Proof.Machine.execPhaseF s
  | .phaseG => Sys2Proof.Machine.execPhaseG s
  | .fieldRepairCountWord recs => Sys2Proof.Machine.execFieldRepairCountWord recs s
  | .fieldRepairTimeout => Sys2Proof.Machine.execFieldRepairTimeout s
  | .guestIdent g ident rate modules x8 => Sys2Proof.Machine.execGuestIdent g ident rate modules x8 s
  | .guestTrainTimeout g => Sys2Proof.Machine.execGuestTrainTimeout g s
  | .guestLinkDown g => Sys2Proof.Machine.execGuestLinkDown g s
  | .guestRetrain g => Sys2Proof.Machine.execGuestRetrain g s
  | .guestPowerFault g => Sys2Proof.Machine.execGuestPowerFault g s
  | .mboxSend g w cls tag dst data => Sys2Proof.Machine.execMboxSend g w cls tag dst data s
  | .dmaRd g w cls tag addr units => Sys2Proof.Machine.execDmaRd g w cls tag addr units s
  | .dmaRdData g idx => Sys2Proof.Machine.execDmaRdData g idx s
  | .dmaWr g w cls tag addr data => Sys2Proof.Machine.execDmaWr g w cls tag addr data s
  | .meshMsg g w cls tag dst data => Sys2Proof.Machine.execMeshMsg g w cls tag dst data s
  | .guestSyncAdd g w cls tag addr data => Sys2Proof.Machine.execGuestSyncAdd g w cls tag addr data s
  | .huskBudgetRefill g => Sys2Proof.Machine.execHuskBudgetRefill g s
  | .trayHeartbeat pin => Sys2Proof.Machine.execTrayHeartbeat pin s
  | .trayHeartbeatEnd pin => Sys2Proof.Machine.execTrayHeartbeatEnd pin s
  | .setEndpointId eid => Sys2Proof.Machine.execSetEndpointId eid s
  | .getEndpointId => Sys2Proof.Machine.execGetEndpointId s
  | .getMctpVersionSupport typ => Sys2Proof.Machine.execGetMctpVersionSupport typ s
  | .getMessageTypeSupport => Sys2Proof.Machine.execGetMessageTypeSupport s
  | .getVendorDefinedMessageSupport => Sys2Proof.Machine.execGetVendorDefinedMessageSupport s
  | .getTid => Sys2Proof.Machine.execGetTid s
  | .getPldmVersion typ => Sys2Proof.Machine.execGetPldmVersion typ s
  | .getPldmTypes => Sys2Proof.Machine.execGetPldmTypes s
  | .getPldmCommands typ => Sys2Proof.Machine.execGetPldmCommands typ s
  | .getSensorReading id => Sys2Proof.Machine.execGetSensorReading id s
  | .getStatus => Sys2Proof.Machine.execGetStatus s
  | .setPowerCap watts => Sys2Proof.Machine.execSetPowerCap watts s
  | .mgmtReset unit target ctx => Sys2Proof.Machine.execMgmtReset unit target ctx s
  | .getFaultLog index => Sys2Proof.Machine.execGetFaultLog index s
  | .getEvents => Sys2Proof.Machine.execGetEvents s
  | .attest kind head nonce => Sys2Proof.Machine.execAttest kind head nonce s
  | .tuberTick => Sys2Proof.Machine.execTuberTick s
  | .vinBelow6v => Sys2Proof.Machine.execVinBelow6v s
  | .streamHeaderFetched hdr => Sys2Proof.Machine.execStreamHeaderFetched hdr s
  | .registerRead fn off size => Sys2Proof.Machine.execRegisterRead fn off size s

end Sys2Proof.Machine
end

