-- ==== Sys2Proof/Machine/Pins.lean ====
section
/-!
DEFINITION. The levels of the sideband output pins, which follow from the state (02_configuration_stream.md, R44; 15_thermal.md,
R362, R364; 16_faults.md, R371, R387, R388; 17_package.md, R401, R418).
-/

namespace Sys2Proof.Machine

/-- What a pin shows. A pin that Tops claims is driven by Tops, whose firmware the spec does not give; `bus` is a pin that follows the
protocol of its bus. -/
inductive PinLevel where
  | highZ | low | high | tops | bus
  deriving DecidableEq, Repr

/-- A region is thermally throttled while its thermal ceiling is below 1,400 MHz (R364). -/
def regionThrottled (s : State) (r : Fin 32) : Bool := decide (vget s.thm.ceil r < 28)

/-- The indicator of a function of Table 2.5 is low. -/
def pinLow (s : State) (y : PinSt) : Bool :=
  if y.func = 1 then y.low
  else if y.func = 2 then (match y.part with | some p => s.flt.partUnserviced.getLsbD p | none => false)
  else if y.func = 3 then s.flt.oos
  else if y.func = 4 then (List.finRange 32).any (fun r => regionThrottled s r)
  else false

/-- The level of a claimed pin. -/
def claimLevel (s : State) (y : PinSt) : PinLevel :=
  match y.owner with
  | .tops => .tops
  | .stream => if y.func = 0 then .highZ else if pinLow s y then .low else .high

/-- The level of GPIO pin `n`: high-impedance where no claim names it, and while the device is absent, unpowered or in reset. -/
def gpioLevel (s : State) (n : Nat) : PinLevel :=
  if !hubRuns s then .highZ
  else match s.cfg.pins.find? (fun y => y.pin == some n) with
    | some y => claimLevel s y
    | none => .highZ

/-- An open-drain output of the Tuber domain: released while VAUX is absent. -/
def openDrain (s : State) (b : Bool) : PinLevel := if s.hub.vaux && b then .low else .highZ

/-- THERMTRIP_N stays low while the shutdown latch is set. -/
def thermtripLevel (s : State) : PinLevel := openDrain s s.thm.latch
/-- CYCLE_REQ_N. -/
def cycleReqLevel (s : State) : PinLevel := openDrain s s.hub.cycleReq
/-- ALERT_N: low while Tops holds events that GET_EVENTS has not read, and during an emergency. -/
def alertLevel (s : State) : PinLevel := if hubRuns s && (!s.hub.events.isEmpty || s.thm.emergency) then .low else .highZ
/-- READY: a push-pull output, released without its rails (R400), and low while PERST_N is low and from the start of every chip reset to
the end of phase G (R416). -/
def readyLevel (s : State) : PinLevel := if !s.hub.powered then .highZ else if s.hub.ready then .high else .low

/-- SMB_SCL and SMB_SDA: released but for the answers of a Tops that runs (R417). -/
def smbLevel (s : State) : PinLevel := if topsRuns s then .bus else .highZ

/-- SPI_CLK, SPI_IO and SPI_CS_N[0], which reach the flash; SPI_CS_N[1] is not used. -/
def spiLevel (s : State) : PinLevel := if hubRuns s then .bus else .highZ
def spiCs1Level : PinLevel := .highZ

/-- The chip-link and PCI Express transmitters are in electrical idle while the device is unpowered or in reset. -/
def transmittersIdle (s : State) : Bool := !hubRuns s

end Sys2Proof.Machine
end

