-- ==== Sys2Proof/Safety.lean ====
section
/-!
DEFINITION. What counts as a sound state and a safe step, in the terms that the statements use.
-/

namespace Sys2Proof.Machine

/-! ### Memories in canonical form -/

/-- A memory with check bits is in canonical form: its bytes are, and so are the blocks whose check bits differ. -/
def PMem.wf (m : PMem) : Bool := Mem.wf m.bytes && keysRise m.diff && m.diff.all (fun e => e.2 != 0)

/-- Every memory of the device is in canonical form. -/
def State.memWf (s : State) : Prop :=
  (∀ k : CoreId, (getCore s k).opbuf.wf = true ∧ (getCore s k).imem.wf = true) ∧
  (∀ i : Fin 160, (vget s.near i).mem.wf = true) ∧
  (∀ n : Fin 8, (vget s.stks n).mem.wf = true)

/-- The block goes on: the outcome is a next state. -/
def goesOn (o : Out) : Prop := ∃ t, o = .next t

/-! ### A context that can issue (03_cores.md, R59, R64, R70) -/

/-- The context holds the issue slot of its core, the core's clock runs, no reset covers the context, and its pc lies past
the image header: its core can issue an instruction of it. -/
def issues (s : State) (k : CoreId) (c : CtxId) : Prop :=
  runningCtx s k = some c ∧ coreClocked s k = true ∧ resetCovers s k c.val = false ∧ 64 ≤ (getCtx s k c).pc.toNat

def pcOf (s : State) (k : CoreId) (c : CtxId) : BitVec 18 := (getCtx s k c).pc

/-- The context goes on at `pc`, with one more instruction retired. -/
def retire (s : State) (k : CoreId) (c : CtxId) (pc : BitVec 18) : State :=
  modCtx s k c (fun x => { x with pc := pc, ret := x.ret + 1 })

/-- The context goes on at the next instruction: `old` is the state before this one. -/
def retireNext (old s : State) (k : CoreId) (c : CtxId) : State := retire s k c (pcOf old k c + 8)

/-- The context waits, and gives up the slot: its pc stays at the instruction. -/
def waits (s : State) (k : CoreId) (c : CtxId) (w : Wait) : State :=
  modCore (modCtx s k c (fun x => { x with st := .blocked, wait := w })) k (fun m => { m with lastSlot := c })

/-- The fault of an instruction at issue, with what its record names (R79). -/
def issueFault (s : State) (k : CoreId) (c : CtxId) (cls : FCls) : State :=
  takeFault s k c cls ⟨pcOf s k c, taskTag s k (getCtx s k c).task, 0, 0, none⟩

/-! ### The instructions of a program (03_cores.md, Tables 3.8 to 3.13) -/

/-- The core that runs a command which is an instruction of its program; no other command names one. -/
def programCore : Instr → Option CoreId
  | .nop k _ => some k
  | .add k _ | .sub k _ | .mul k _ | .mulhu k _ | .andR k _ | .orR k _ | .xor k _ | .shl k _ | .shr k _ | .sra k _
  | .slt k _ | .sltu k _ | .minR k _ | .maxR k _ | .tset k _ | .tget k _ | .rdid k _ => some k
  | .addi k _ | .andi k _ | .ori k _ | .xori k _ | .shli k _ | .shri k _ | .srai k _ | .slti k _ | .sltui k _ => some k
  | .ld k _ | .st k _ | .ldw k _ | .stw k _ | .vld k _ | .vst k _ => some k
  | .li k _ | .lih k _ => some k
  | .beq k _ | .bne k _ | .blt k _ | .bge k _ | .bltu k _ | .bgeu k _ | .jal k _ | .jr k _ => some k
  | .vadd k _ | .vsub k _ | .vmul k _ | .vfma k _ | .vmax k _ | .vmin k _ | .vand k _ | .vor k _ | .vxor k _
  | .vshl k _ | .vsra k _ | .vcvt k _ | .vrsum k _ | .vrmax k _ | .vbcast k _ | .vext k _ => some k
  | .accz k _ | .mma k _ | .epi k _ | .attn k _ | .twait k _ | .accrd k _ | .accwr k _ => some k
  | .strmSet k _ | .strmGo k _ | .strmWait k _ | .strmSwap k _ | .strmCancel k _ | .strmFill k _ => some k
  | .sprIssue k _ | .sprFence k _ | .colIssue k _ => some k
  | .syncAdd k _ | .syncWait k _ | .syncArm k _ | .syncAbort k _ | .syncCancel k _ => some k
  | .send k _ | .recv k _ | .hpost k _ => some k
  | .halt k _ | .ctxStart k _ | .taskBegin k _ | .taskEnd k _ | .fence k _ | .fexit k _ | .yield k _ | .brk k _ => some k
  | _ => none

/-! ### What an instruction of one core may reach -/

/-- Between `s` and `t` only what belongs to core `k` has changed: the core itself, its near slice, the correctable events and the
lost ones that wait at its region, the meters and the status block of its partition, segments of the stacks' read buffers; and
frames sent by its contexts are new in the mesh, and fault records new in the wait for the hub. -/
structure onlyCore (k : CoreId) (s t : State) : Prop where
  core : ∀ j, j ≠ k → getCore t j = getCore s j
  near : ∀ i, i ≠ nearIdx s k → vget t.near i = vget s.near i
  region : ∀ r, r ≠ regionOf k → getRegion t r = getRegion s r
  own : { getRegion t (regionOf k) with
            cetWait := (getRegion s (regionOf k)).cetWait, cetLost := (getRegion s (regionOf k)).cetLost } = getRegion s (regionOf k)
  meters : ∀ p, partOfCore s k ≠ some p → vget t.meters p = vget s.meters p
  pst : ∀ p, partOfCore s k ≠ some p → getPst t p = getPst s p
  stks : ∀ n, { vget t.stks n with buf := (vget s.stks n).buf } = vget s.stks n
  mesh : ∃ new, t.mesh = s.mesh ++ new ∧ ∀ f ∈ new, ∃ c, f.src = .ctx k c
  flt : ∃ new, t.flt = { s.flt with waiting := s.flt.waiting ++ new }
  rest : { t with cores := s.cores, near := s.near, regions := s.regions, meters := s.meters, pst := s.pst, stks := s.stks,
                  mesh := s.mesh, flt := s.flt } = s

end Sys2Proof.Machine
end

