-- ==== Sys2Proof/Certificates/Slice0/Obligations.lean ====
section
/-!
DEFINITION. The statements for the provers. Where several rules of one subject make a statement, each is a claim of its own
(Claims.<name>), and the statement joins them at the end of the file.
-/

open Sys2Proof Sys2Proof.Machine

/-! ### The queue of commands -/

/-- A step takes the command at the front of the queue and runs it on the rest of the state. -/
def Obligations.StepRunsFront : Prop :=
  ∀ (c : Instr) (s : State), step { s with pending := c :: s.pending } = exec c s

/-- With nothing waiting the block idles (the model's choice, log 2). -/
def Obligations.StepIdles : Prop := ∀ s : State, s.pending = [] → step s = .next s

/-! ### Scalar instructions (03_cores.md, Tables 3.8 and 3.9) -/

/-- A register-register instruction and what it computes from g[A] and g[B]. -/
abbrev OpTableR := List ((CoreId → FieldsR → Instr) × (W64 → W64 → W64))

/-- A register-immediate instruction and what it computes from g[A] and the sign-extended IMM32. -/
abbrev OpTableI := List ((CoreId → FieldsI → Instr) × (W64 → W64 → W64))

def truth (p : Prop) [Decidable p] : W64 := if p then 1 else 0

/-- The operations of Table 3.8 on two 64-bit values, as integer arithmetic. -/
def tableR : OpTableR :=
  [(.add, fun a b => BitVec.ofNat 64 (a.toNat + b.toNat)),
   (.sub, fun a b => BitVec.ofInt 64 (a.toInt - b.toInt)),
   (.mul, fun a b => BitVec.ofNat 64 (a.toNat * b.toNat)),
   (.mulhu, fun a b => (a.setWidth 128 * b.setWidth 128).extractLsb' 64 64),
   (.andR, fun a b => a &&& b),
   (.orR, fun a b => a ||| b),
   (.xor, fun a b => a ^^^ b),
   (.shl, fun a b => BitVec.ofNat 64 (a.toNat * 2 ^ (b &&& 63).toNat)),
   (.shr, fun a b => BitVec.ofNat 64 (a.toNat / 2 ^ (b &&& 63).toNat)),
   (.sra, fun a b => BitVec.ofInt 64 (a.toInt / 2 ^ (b &&& 63).toNat)),
   (.slt, fun a b => truth (a.toInt < b.toInt)),
   (.sltu, fun a b => truth (a.toNat < b.toNat)),
   (.minR, fun a b => BitVec.ofInt 64 (min a.toInt b.toInt)),
   (.maxR, fun a b => BitVec.ofInt 64 (max a.toInt b.toInt))]

/-- Those that Table 3.8 gives with an immediate. -/
def tableI : OpTableI :=
  [(.addi, fun a b => BitVec.ofNat 64 (a.toNat + b.toNat)),
   (.andi, fun a b => a &&& b),
   (.ori, fun a b => a ||| b),
   (.xori, fun a b => a ^^^ b),
   (.shli, fun a b => BitVec.ofNat 64 (a.toNat * 2 ^ (b &&& 63).toNat)),
   (.shri, fun a b => BitVec.ofNat 64 (a.toNat / 2 ^ (b &&& 63).toNat)),
   (.srai, fun a b => BitVec.ofInt 64 (a.toInt / 2 ^ (b &&& 63).toNat)),
   (.slti, fun a b => truth (a.toInt < b.toInt)),
   (.sltui, fun a b => truth (a.toNat < b.toNat))]

/-- The register arithmetic of Table 3.8: with every unused field zero, g[D] becomes the result and the context goes on at the
next instruction, and nothing else of the device changes; else the word is ILLEGAL (R69). -/
def Claims.RegisterArithmetic : Prop :=
  ∀ (s : State) (k : CoreId) (c : CtxId), issues s k c →
    (∀ p ∈ tableR, ∀ f : FieldsR,
      exec (p.1 k f) s = .next
        (if f.c = 0 ∧ f.mod = 0 ∧ f.rsv = 0 then
           retireNext s (setG s k c f.d (p.2 (gOf s k c f.a) (gOf s k c f.b))) k c
         else issueFault s k c .illegal)) ∧
    (∀ p ∈ tableI, ∀ f : FieldsI,
      exec (p.1 k f) s = .next
        (if f.sp = 0 ∧ f.rsv = 0 then
           retireNext s (setG s k c f.d (p.2 (gOf s k c f.a) (f.imm.signExtend 64))) k c
         else issueFault s k c .illegal))

/-- LI and LIH: an immediate, sign-extended, or above the low 16 bits that stay. -/
def Claims.LoadImmediate : Prop :=
  ∀ (s : State) (k : CoreId) (c : CtxId) (f : FieldsL), issues s k c →
    exec (.li k f) s = .next
      (if f.rsv = 0 then retireNext s (setG s k c f.d (BitVec.ofInt 64 f.imm.toInt)) k c else issueFault s k c .illegal) ∧
    exec (.lih k f) s = .next
      (if f.rsv = 0 then
         retireNext s (setG s k c f.d (BitVec.ofNat 64 (f.imm.toNat * 2 ^ 16 + (gOf s k c f.d).toNat % 2 ^ 16))) k c
       else issueFault s k c .illegal)

/-- TSET joins two scalar registers to a tile register, TGET takes one half of one, RDID reads an identity: the number of the
core within its partition, the context, the number of the partition's regions and the number of its cores. -/
def Claims.TileRegisterMoves : Prop :=
  ∀ (s : State) (k : CoreId) (c : CtxId) (f : FieldsR), issues s k c → f.rsv = 0 → f.c = 0 →
    (f.mod = 0 → f.d.toNat < 16 →
      ∃ t, exec (.tset k f) s = .next t ∧
        (tGet (getCtx t k c) f.d.toNat).toNat = (gOf s k c f.b).toNat * 2 ^ 64 + (gOf s k c f.a).toNat ∧
        (∀ i, i < 16 → i ≠ f.d.toNat → tGet (getCtx t k c) i = tGet (getCtx s k c) i) ∧
        pcOf t k c = pcOf s k c + 8) ∧
    (f.b = 0 → f.a.toNat < 16 → f.mod.toNat < 2 →
      exec (.tget k f) s = .next (retireNext s
        (setG s k c f.d (BitVec.ofNat 64 ((tGet (getCtx s k c) f.a.toNat).toNat / 2 ^ (64 * f.mod.toNat)))) k c)) ∧
    (f.a = 0 → f.b = 0 → f.mod.toNat < 4 →
      exec (.rdid k f) s = .next (retireNext s
        (setG s k c f.d (BitVec.ofNat 64 ([corePcn s k, c.val, regionCount (coreMask s k), 4 * regionCount (coreMask s k)].getD
          f.mod.toNat 0))) k c))

/-- The scalar register file of a context (R67): a written register holds the value, unless it is g0, which reads zero and
discards it; the others keep theirs. -/
def Claims.ScalarRegisterFile : Prop :=
  ∀ (s : State) (k k' : CoreId) (c c' : CtxId) (i j : BitVec 5) (v : W64),
    gOf s k c 0 = 0 ∧
    gOf (setG s k c i v) k' c' j = if k' = k ∧ c' = c ∧ j = i ∧ i ≠ 0 then v else gOf s k' c' j

/-- An instruction whose destination is a scalar register changes nothing but that register, the pc and the count of retired
instructions of its context: no other register, context, core, memory, flag or device. The instructions are those of the
tables above with LI, LIH, TGET and RDID, where they retire. -/
def Obligations.ScalarFrame : Prop :=
  ∀ (s t : State) (k : CoreId) (c : CtxId) (i : Instr) (d : BitVec 5), issues s k c →
    ((∃ f : FieldsR, d = f.d ∧ i ∈ (.tget k f :: .rdid k f :: tableR.map (fun p => p.1 k f))) ∨
     (∃ f : FieldsI, d = f.d ∧ i ∈ tableI.map (fun p => p.1 k f)) ∨
     (∃ f : FieldsL, d = f.d ∧ i ∈ [.li k f, .lih k f])) →
    exec i s = .next t → (getCtx t k c).ret = (getCtx s k c).ret + 1 →
      (∀ j, j ≠ d → gOf t k c j = gOf s k c j) ∧
      { getCtx t k c with g := (getCtx s k c).g, pc := (getCtx s k c).pc, ret := (getCtx s k c).ret } = getCtx s k c ∧
      (∀ k' c', (k' ≠ k ∨ c' ≠ c) → getCtx t k' c' = getCtx s k' c') ∧
      (∀ k', { getCore t k' with ctx := (getCore s k').ctx } = getCore s k') ∧
      (∀ k' sp a, memRead (getSpace t k' sp).bytes a = memRead (getSpace s k' sp).bytes a) ∧
      { t with cores := s.cores } = s

/-! ### Branches (03_cores.md, Table 3.9) -/

/-- What a branch that is taken leaves: it goes to its target, or faults at the branch. `s` is the state with what the branch
has written, `old` the state before it. -/
def branchTo (old s : State) (k : CoreId) (c : CtxId) (target : W64) : State :=
  if target.toNat % 8 ≠ 0 then issueFault old k c .align
  else if target.toNat < 64 ∨ 0x3FFF8 < target.toNat then issueFault old k c .range
  else retire s k c (target.setWidth 18)

/-- The conditional branches and their conditions on g[A] and g[B]. -/
def tableB : List ((CoreId → FieldsB → Instr) × (W64 → W64 → Bool)) :=
  [(.beq, fun a b => a.toNat = b.toNat), (.bne, fun a b => a.toNat ≠ b.toNat), (.blt, fun a b => a.toInt < b.toInt),
   (.bge, fun a b => b.toInt ≤ a.toInt), (.bltu, fun a b => a.toNat < b.toNat), (.bgeu, fun a b => b.toNat ≤ a.toNat)]

/-- A conditional branch goes to pc + 8 × DISP where its condition holds, and to the next instruction elsewhere; JAL leaves
pc + 8 in g[A]; JR adds its displacement to g[A]. The target of a branch not taken is not looked at. An unused field that is
not zero is ILLEGAL. -/
def Claims.Branches : Prop :=
  ∀ (s : State) (k : CoreId) (c : CtxId) (f : FieldsB), issues s k c →
    (∀ p ∈ tableB,
      exec (p.1 k f) s = .next
        (if f.rsv ≠ 0 then issueFault s k c .illegal
         else if p.2 (gOf s k c f.a) (gOf s k c f.b) then
           branchTo s s k c (BitVec.ofInt 64 ((pcOf s k c).toNat + 8 * f.disp.toInt))
         else retireNext s s k c)) ∧
    exec (.jal k f) s = .next
      (if f.rsv ≠ 0 ∨ f.b ≠ 0 then issueFault s k c .illegal
       else branchTo s (setG s k c f.a (BitVec.ofNat 64 ((pcOf s k c).toNat + 8))) k c
         (BitVec.ofInt 64 ((pcOf s k c).toNat + 8 * f.disp.toInt))) ∧
    exec (.jr k f) s = .next
      (if f.rsv ≠ 0 ∨ f.b ≠ 0 then issueFault s k c .illegal
       else branchTo s s k c (BitVec.ofInt 64 ((gOf s k c f.a).toNat + 8 * f.disp.toInt)))

/-! ### Local loads and stores (03_cores.md, R66, R69; 07_near_slices.md, R161 to R163) -/

/-- Where an access of `n` bytes goes that meets every rule of R69 and R61: a space that the instruction may name, an effective
address aligned to `al`, within the space, and no operand-buffer pair of another context. -/
def localOk (s : State) (k : CoreId) (c : CtxId) (f : FieldsI) (spMax n al : Nat) (sp : Space) (a : Nat) : Prop :=
  f.rsv = 0 ∧ f.sp.toNat ≤ spMax ∧ f.sp.toNat = (match sp with | .opbuf => 0 | .near => 1 | .imem => 2) ∧
  a = (BitVec.ofInt 64 ((gOf s k c f.a).toNat + f.imm.toInt)).toNat ∧ a % al = 0 ∧ a + n ≤ spaceSize sp ∧
  (sp = .opbuf → bufForeign s k c a n = false)

/-- The bytes lie in blocks whose stored check bits are those of their data. -/
def cleanRange (m : PMem) (a n : Nat) : Prop := ∀ b, b * 64 < a + n → a < b * 64 + 64 → blkDiff m b = 0

/-- A load of bytes that pass their check puts them where the instruction says, little-endian, and changes nothing else: LD and
VLD whole registers, LDW the low 32 bits of a scalar register with zeros above. -/
def Claims.Loads : Prop :=
  ∀ (s : State) (k : CoreId) (c : CtxId) (f : FieldsI) (sp : Space) (a : Nat), issues s k c →
    (localOk s k c f 2 8 8 sp a → cleanRange (getSpace s k sp) a 8 →
      exec (.ld k f) s = .next (retireNext s (setG s k c f.d (BitVec.ofNat 64 (memReadNat (getSpace s k sp).bytes a 8))) k c)) ∧
    (localOk s k c f 2 4 4 sp a → cleanRange (getSpace s k sp) a 4 →
      exec (.ldw k f) s = .next (retireNext s (setG s k c f.d (BitVec.ofNat 64 (memReadNat (getSpace s k sp).bytes a 4))) k c)) ∧
    (localOk s k c f 1 1024 64 sp a → cleanRange (getSpace s k sp) a 1024 → f.d.toNat < 16 →
      exec (.vld k f) s = .next (retireNext s
        (modCtx s k c (fun x => vSet x f.d (BitVec.ofNat 8192 (memReadNat (getSpace s k sp).bytes a 1024)))) k c))

/-- The state in which a store acts: the operations for which R94 would hold it back have read their operand-buffer bytes (log 11). With no
such operation it is the state itself. -/
def heldFor (s : State) (k : CoreId) (sp : Space) (a n : Nat) : State := if sp = .opbuf then keepHeld s k none a n else s

/-- A store of `n` bytes of a number at the address of the access: those bytes are the number's, little-endian, every other byte
of every memory of the device stays, no register changes, and the context goes on. -/
def storeEffect (s t : State) (k : CoreId) (c : CtxId) (sp : Space) (a n v : Nat) : Prop :=
  (∀ i, i < n → (memRead (getSpace t k sp).bytes (a + i)).toNat = v / 256 ^ i % 256) ∧
  (∀ b, (b < a ∨ a + n ≤ b) → memRead (getSpace t k sp).bytes b = memRead (getSpace s k sp).bytes b) ∧
  (∀ k' sp', (k' ≠ k ∨ sp' ≠ sp) → (sp' = .near → sp = .near → nearIdx s k' ≠ nearIdx s k) →
    getSpace t k' sp' = getSpace s k' sp') ∧
  (∀ b, blkDiff (getSpace t k sp) b = blkDiff (getSpace s k sp) b) ∧
  (∀ k' c', getCtx t k' c' = if k' = k ∧ c' = c then { getCtx s k c with pc := pcOf s k c + 8, ret := (getCtx s k c).ret + 1 }
    else getCtx s k' c') ∧
  { t with cores := s.cores, near := s.near } = s ∧
  (∀ i, { vget t.near i with mem := (vget s.near i).mem } = vget s.near i) ∧
  (sp = .near → ∀ k', { getCore t k' with ctx := (getCore s k').ctx } = getCore s k') ∧
  (sp = .opbuf → t.near = s.near ∧
    ∀ k', { getCore t k' with ctx := (getCore s k').ctx, opbuf := (getCore s k').opbuf } = getCore s k')

/-- A store whose blocks pass their check writes the register's bytes and nothing else; the operations that R94 protects have read their
bytes before (the model's reading of the hold, log 11). -/
def Claims.Stores : Prop :=
  ∀ (s : State) (k : CoreId) (c : CtxId) (f : FieldsI) (sp : Space) (a : Nat), issues s k c →
    (localOk s k c f 1 8 8 sp a → cleanRange (getSpace s k sp) a 8 →
      ∃ t, exec (.st k f) s = .next t ∧ storeEffect (heldFor s k sp a 8) t k c sp a 8 (gOf s k c f.d).toNat) ∧
    (localOk s k c f 1 4 4 sp a → cleanRange (getSpace s k sp) a 4 →
      ∃ t, exec (.stw k f) s = .next t ∧ storeEffect (heldFor s k sp a 4) t k c sp a 4 (gOf s k c f.d).toNat) ∧
    (localOk s k c f 1 1024 64 sp a → cleanRange (getSpace s k sp) a 1024 → f.d.toNat < 16 →
      ∃ t, exec (.vst k f) s = .next t ∧ storeEffect (heldFor s k sp a 1024) t k c sp a 1024 (vGet (getCtx s k c) f.d).toNat)

/-- The size, the alignment and the highest SP value of each local access (R69). -/
def tableLS : List ((CoreId → FieldsI → Instr) × Nat × Nat × Nat) :=
  [(.ld, 2, 8, 8), (.ldw, 2, 4, 4), (.st, 1, 8, 8), (.stw, 1, 4, 4), (.vld, 1, 1024, 64), (.vst, 1, 1024, 64)]

/-- A local access that breaks a rule takes the fault of R69 and R61 and has no other effect: ILLEGAL for its fields, ALIGN for its
alignment, RANGE for a byte outside its space, BUF_OWNER for a pair of another context, the first of them in that order (R422). -/
def Claims.LocalAccessFaults : Prop :=
  ∀ (s : State) (k : CoreId) (c : CtxId) (f : FieldsI), issues s k c → f.d.toNat < 16 → ∀ p ∈ tableLS,
    let a := (gOf s k c f.a + f.imm.signExtend 64).toNat
    (f.rsv ≠ 0 ∨ p.2.1 < f.sp.toNat → exec (p.1 k f) s = .next (issueFault s k c .illegal)) ∧
    (∀ sp, spaceOf f.sp = some sp → f.rsv = 0 → f.sp.toNat ≤ p.2.1 →
      (a % p.2.2.2 ≠ 0 → exec (p.1 k f) s = .next (issueFault s k c .align)) ∧
      (a % p.2.2.2 = 0 → spaceSize sp < a + p.2.2.1 → exec (p.1 k f) s = .next (issueFault s k c .range)) ∧
      (a % p.2.2.2 = 0 → a + p.2.2.1 ≤ spaceSize sp → sp = .opbuf → bufForeign s k c a p.2.2.1 = true →
        exec (p.1 k f) s = .next (issueFault s k c .bufOwner)))

/-- The block's data may not be used: it is poisoned, or its check fails. -/
def badBlk (m : PMem) (b : Nat) : Prop := decodeSyn (blkDiff m b) = .poison ∨ decodeSyn (blkDiff m b) = .uncorrectable

/-- A load of 8, 4 or 1,024 bytes that reads a block which is poisoned, or whose check fails, writes no register: it takes MEM_UNCORR with
the kind of memory in DETAIL and the first such block in ADDRESS (R162, R372). Each such block is poisoned from then on, and no byte
changes but the one corrected in a block with a single error. -/
def Claims.LoadOfPoison : Prop :=
  ∀ (s : State) (k : CoreId) (c : CtxId) (f : FieldsI) (sp : Space) (a b : Nat), issues s k c →
    ∀ p ∈ [(Instr.ld, 2, 8, 8), (Instr.ldw, 2, 4, 4), (Instr.vld, 1, 1024, 64)], localOk s k c f p.2.1 p.2.2.1 p.2.2.2 sp a →
      (p.2.2.1 = 1024 → f.d.toNat < 16) → b ∈ blocksOf a p.2.2.1 → badBlk (getSpace s k sp) b →
      (∀ b' ∈ blocksOf a p.2.2.1, b' < b → ¬ badBlk (getSpace s k sp) b') →
      ∃ s', exec (p.1 k f) s = .next (takeFault s' k c .memUncorr
          ⟨pcOf s k c, taskTag s k (getCtx s k c).task, BitVec.ofNat 16 (spaceKind sp), BitVec.ofNat 64 (b * 64), none⟩) ∧
        (∀ k' c', getCtx s' k' c' = getCtx s k' c') ∧
        (∀ i, decodeSyn (blkDiff (getSpace s k sp) (i / 64)) ≠ .dataFixed →
          memRead (getSpace s' k sp).bytes i = memRead (getSpace s k sp).bytes i) ∧
        (∀ b' ∈ blocksOf a p.2.2.1, badBlk (getSpace s k sp) b' → decodeSyn (blkDiff (getSpace s' k sp) b') = .poison)

/-- A store of 8 or 4 bytes to a block in any condition stores its bytes and changes no byte outside the block: reading the block
first may correct one of its bits (R161, R162), and no fault is taken. The operations that R94 protects have read their bytes before (log
11). -/
def Claims.StoreThroughErrors : Prop :=
  ∀ (s : State) (k : CoreId) (c : CtxId) (f : FieldsI) (sp : Space) (a : Nat), issues s k c →
    ∀ p ∈ [(Instr.st, 8), (Instr.stw, 4)], localOk s k c f 1 p.2 p.2 sp a →
      ∃ t, exec (p.1 k f) s = .next t ∧ pcOf t k c = pcOf s k c + 8 ∧ (getCtx t k c).ret = (getCtx s k c).ret + 1 ∧
        (∀ i, i < p.2 → (memRead (getSpace t k sp).bytes (a + i)).toNat = (gOf s k c f.d).toNat / 256 ^ i % 256) ∧
        (∀ b, b / 64 ≠ a / 64 → memRead (getSpace t k sp).bytes b = memRead (getSpace (heldFor s k sp a p.2) k sp).bytes b) ∧
        (∀ sp', sp' ≠ sp → getSpace t k sp' = getSpace s k sp')

/-- VST writes whole blocks, in any condition: none of them is read, each takes the check bits of its new data, and no other byte or block
changes (R161). -/
def Claims.StoreWholeBlocks : Prop :=
  ∀ (s : State) (k : CoreId) (c : CtxId) (f : FieldsI) (sp : Space) (a : Nat), issues s k c →
    localOk s k c f 1 1024 64 sp a → f.d.toNat < 16 →
      ∃ t, exec (.vst k f) s = .next t ∧ pcOf t k c = pcOf s k c + 8 ∧ (getCtx t k c).ret = (getCtx s k c).ret + 1 ∧
        (∀ i, i < 1024 → (memRead (getSpace t k sp).bytes (a + i)).toNat = (vGet (getCtx s k c) f.d).toNat / 256 ^ i % 256) ∧
        (∀ b, (b < a ∨ a + 1024 ≤ b) → memRead (getSpace t k sp).bytes b = memRead (getSpace (heldFor s k sp a 1024) k sp).bytes b) ∧
        (∀ b ∈ blocksOf a 1024, blkDiff (getSpace t k sp) b = 0) ∧
        (∀ b, b ∉ blocksOf a 1024 → blkDiff (getSpace t k sp) b = blkDiff (getSpace (heldFor s k sp a 1024) k sp) b) ∧
        (∀ sp', sp' ≠ sp → getSpace t k sp' = getSpace s k sp')

/-! ### The vector unit (03_cores.md, Table 3.10, R67, R71) -/

/-- Lane `n` of a vector register (R67). -/
def laneAt (l : Lane) (v : VReg) (n : Nat) : Nat := v.toNat / 2 ^ (n * laneBits l) % 2 ^ laneBits l

/-- The lane-by-lane instructions on two registers: whether they are for INT32 only, and what they compute. Shifts use the low five
bits of the second lane; integer arithmetic is modulo 2^32. -/
def tableV : List ((CoreId → FieldsR → Instr) × Bool × (Lane → Nat → Nat → Nat)) :=
  [(.vadd, false, fun l a b => if l = .int32 then (a + b) % 2 ^ 32 else
      fEncode (laneFmt l) (fAdd (fDecode (laneFmt l) a) (fDecode (laneFmt l) b))),
   (.vsub, false, fun l a b => if l = .int32 then (a + 2 ^ 32 - b) % 2 ^ 32 else
      fEncode (laneFmt l) (fAdd (fDecode (laneFmt l) a) (fNeg (fDecode (laneFmt l) b)))),
   (.vmul, false, fun l a b => if l = .int32 then (a * b) % 2 ^ 32 else
      fEncode (laneFmt l) (fMul (fDecode (laneFmt l) a) (fDecode (laneFmt l) b))),
   (.vmax, false, fun l a b => laneSel l true a b),
   (.vmin, false, fun l a b => laneSel l false a b),
   (.vshl, true, fun _ a b => a * 2 ^ (b % 32) % 2 ^ 32),
   (.vsra, true, fun _ a b => (BitVec.ofInt 32 ((BitVec.ofNat 32 a).toInt / 2 ^ (b % 32))).toNat)]

/-- A lane-by-lane instruction sets every lane of v[D] from the same lanes of its sources; VFMA rounds a product and a sum once. -/
def Claims.VectorLanes : Prop :=
  ∀ (s : State) (k : CoreId) (c : CtxId) (f : FieldsR) (l : Lane), issues s k c → laneOf f.mod.toNat = some l → f.rsv = 0 →
    f.d.toNat < 16 → f.a.toNat < 16 → f.b.toNat < 16 →
      let x := getCtx s k c
      (∀ p ∈ tableV, f.c = 0 → (p.2.1 = true → l = .int32) →
        ∃ v, exec (p.1 k f) s = .next (retireNext s (modCtx s k c (fun y => vSet y f.d v)) k c) ∧
          ∀ n, n < laneCount l →
            laneAt l v n = p.2.2 l (laneAt l (vGet x f.a) n) (laneAt l (vGet x f.b) n) % 2 ^ laneBits l) ∧
      (f.c.toNat < 16 → l ≠ .int32 →
        ∃ v, exec (.vfma k f) s = .next (retireNext s (modCtx s k c (fun y => vSet y f.d v)) k c) ∧
          ∀ n, n < laneCount l →
            laneAt l v n = fEncode (laneFmt l) (fAdd
              (fMul (fDecode (laneFmt l) (laneAt l (vGet x f.a) n)) (fDecode (laneFmt l) (laneAt l (vGet x f.b) n)))
              (fDecode (laneFmt l) (laneAt l (vGet x f.c) n))) % 2 ^ laneBits l)

/-- VAND, VOR and VXOR work on all 8,192 bits, whatever MOD[1:0] is. -/
def Claims.VectorBitwise : Prop :=
  ∀ (s : State) (k : CoreId) (c : CtxId) (f : FieldsR), issues s k c → f.mod.toNat < 4 → f.rsv = 0 → f.c = 0 →
    f.d.toNat < 16 → f.a.toNat < 16 → f.b.toNat < 16 →
      ∀ p ∈ ([(Instr.vand, fun a b => a &&& b), (Instr.vor, fun a b => a ||| b), (Instr.vxor, fun a b => a ^^^ b)] :
          List ((CoreId → FieldsR → Instr) × (VReg → VReg → VReg))),
        exec (p.1 k f) s = .next (retireNext s
          (modCtx s k c (fun y => vSet y f.d (p.2 (vGet (getCtx s k c) f.a) (vGet (getCtx s k c) f.b)))) k c)

/-- The fixed tree over `2 ^ n` values: neighbours are combined, level by level (R71). -/
def pairTree (op : Nat → Nat → Nat) : Nat → (Nat → Nat) → Nat
  | 0, g => g 0
  | n + 1, g => pairTree op n (fun i => op (g (2 * i)) (g (2 * i + 1)))

/-- VRSUM and VRMAX leave the fixed tree over the lanes of v[A] in lane 0 of v[D], and zero in the others: 512 lanes of BF16, 256 of
FP32 and INT32. -/
def Claims.VectorReductions : Prop :=
  ∀ (s : State) (k : CoreId) (c : CtxId) (f : FieldsR) (l : Lane), issues s k c → laneOf f.mod.toNat = some l → f.rsv = 0 →
    f.b = 0 → f.c = 0 → f.d.toNat < 16 → f.a.toNat < 16 →
      ∀ p ∈ ([(Instr.vrsum, laneAdd l), (Instr.vrmax, laneSel l true)] : List ((CoreId → FieldsR → Instr) × (Nat → Nat → Nat))),
        exec (p.1 k f) s = .next (retireNext s (modCtx s k c (fun y => vSet y f.d (BitVec.ofNat 8192
          (pairTree p.2 (if l = .bf16 then 9 else 8) (laneAt l (vGet (getCtx s k c) f.a)))))) k c)

/-- VBCAST fills every lane with the low bits of g[A]; VEXT reads one lane, sign-extended; VCVT converts lane by lane, or between
256 lanes of 32 bits and the half of the 512 BF16 lanes that MOD[4] names, keeping the other half. -/
def Claims.VectorMoves : Prop :=
  ∀ (s : State) (k : CoreId) (c : CtxId) (f : FieldsR), issues s k c → f.rsv = 0 → f.c = 0 →
    let x := getCtx s k c
    (∀ l, laneOf f.mod.toNat = some l → f.b = 0 → f.d.toNat < 16 →
      ∃ v, exec (.vbcast k f) s = .next (retireNext s (modCtx s k c (fun y => vSet y f.d v)) k c) ∧
        ∀ n, n < laneCount l → laneAt l v n = (gGet x f.a).toNat % 2 ^ laneBits l) ∧
    (∀ l, laneOf f.mod.toNat = some l → f.a.toNat < 16 →
      exec (.vext k f) s = .next (retireNext s (setG s k c f.d
        (let n := laneAt l (vGet x f.a) ((gGet x f.b).toNat % laneCount l)
         if l = .bf16 then (BitVec.ofNat 16 n).signExtend 64 else (BitVec.ofNat 32 n).signExtend 64)) k c)) ∧
    (∀ src dst half, f.mod.toNat = half * 16 + 4 * (match dst with | Lane.fp32 => 0 | .bf16 => 1 | .int32 => 2) +
        (match src with | Lane.fp32 => 0 | .bf16 => 1 | .int32 => 2) → half < 2 → (laneBits src = laneBits dst → half = 0) →
        f.b = 0 → f.d.toNat < 16 → f.a.toNat < 16 →
      ∃ v, exec (.vcvt k f) s = .next (retireNext s (modCtx s k c (fun y => vSet y f.d v)) k c) ∧
        ∀ n, n < laneCount dst → laneAt dst v n =
          (if laneBits src = laneBits dst then laneCvt src dst (laneAt src (vGet x f.a) n)
           else if src = .bf16 then laneCvt src dst (laneAt src (vGet x f.a) (256 * half + n))
           else if n / 256 = half then laneCvt src dst (laneAt src (vGet x f.a) (n % 256))
           else laneAt dst (vGet x f.d) n) % 2 ^ laneBits dst)

/-- The bits of an FP32 or BF16 lane: width, fraction bits, NaN, and NaN with its quiet bit. -/
def fracBits (l : Lane) : Nat := laneBits l - 9
def isNanBits (l : Lane) (x : Nat) : Prop := x / 2 ^ fracBits l % 256 = 255 ∧ x % 2 ^ fracBits l ≠ 0
def quietBits (l : Lane) (x : Nat) : Nat := if x / 2 ^ (fracBits l - 1) % 2 = 1 then x else x + 2 ^ (fracBits l - 1)

/-- The place of a lane that is no NaN in the order of values, with −0 below +0. -/
def orderKey (l : Lane) (x : Nat) : Nat := if x < 2 ^ (laneBits l - 1) then 2 ^ (laneBits l - 1) + x else 2 ^ laneBits l - 1 - x

/-- VMAX and VMIN of a lane, from the bits alone: lane A quieted if it is a NaN, else lane B quieted if it is one, else the one that stands
higher or lower in the order of values, +0 above −0; for INT32 the larger or smaller signed value (R71). -/
def Claims.VectorSelects : Prop :=
  (∀ (l : Lane) (m : Bool) (a b : Nat), l ≠ .int32 → a < 2 ^ laneBits l → b < 2 ^ laneBits l →
    (isNanBits l a → laneSel l m a b = quietBits l a) ∧
    (¬ isNanBits l a → isNanBits l b → laneSel l m a b = quietBits l b) ∧
    (¬ isNanBits l a → ¬ isNanBits l b →
      laneSel l true a b = (if orderKey l a < orderKey l b then b else a) ∧
      laneSel l false a b = (if orderKey l b < orderKey l a then b else a))) ∧
  (∀ a b : BitVec 32, (BitVec.ofNat 32 (laneSel .int32 true a.toNat b.toNat)).toInt = max a.toInt b.toInt ∧
    (BitVec.ofNat 32 (laneSel .int32 false a.toNat b.toNat)).toInt = min a.toInt b.toInt)

/-- Division to the nearest, ties to even. -/
def nearestDiv (n d : Nat) : Nat := n / d + (if d < 2 * (n % d) ∨ (2 * (n % d) = d ∧ n / d % 2 = 1) then 1 else 0)

/-- The nearest integer to the value of an FP32 or BF16 lane that is neither a NaN nor an infinity: fraction and exponent from the bits. -/
def nearestInt (l : Lane) (x : Nat) : Int :=
  let e := x / 2 ^ fracBits l % 256
  let n := x % 2 ^ fracBits l + (if e = 0 then 0 else 2 ^ fracBits l)
  let p := max e 1
  let m := if 127 + fracBits l ≤ p then n * 2 ^ (p - 127 - fracBits l) else nearestDiv n (2 ^ (127 + fracBits l - p))
  if x < 2 ^ (laneBits l - 1) then m else -(m : Int)

/-- VCVT of a lane, from the bits alone (R71): to INT32 the nearest integer, ties to even, saturated, a NaN gives 0; FP32 to BF16 rounds
the 31 bits of the magnitude to their upper 15, which carries an overflow into the infinity; BF16 to FP32 is exact; an INT32 gives the
nearest lane value; a NaN gives the canonical one; a type to itself copies the lane. -/
def Claims.VectorConversions : Prop :=
  (∀ (l : Lane) (x : Nat), l ≠ .int32 → x < 2 ^ laneBits l →
    (isNanBits l x → laneCvt l .int32 x = 0) ∧
    (x / 2 ^ fracBits l % 256 = 255 → ¬ isNanBits l x → laneCvt l .int32 x = (if x < 2 ^ (laneBits l - 1) then 2 ^ 31 - 1 else 2 ^ 31)) ∧
    (x / 2 ^ fracBits l % 256 ≠ 255 →
      (BitVec.ofNat 32 (laneCvt l .int32 x)).toInt = max (-2 ^ 31) (min (2 ^ 31 - 1) (nearestInt l x)))) ∧
  (∀ x : Nat, x < 2 ^ 32 → laneCvt .fp32 .bf16 x =
    if x / 2 ^ 23 % 256 = 255 ∧ x % 2 ^ 23 ≠ 0 then 0x7FC0 else x / 2 ^ 31 * 2 ^ 15 + nearestDiv (x % 2 ^ 31) 65536) ∧
  (∀ x : Nat, x < 2 ^ 16 → laneCvt .bf16 .fp32 x = if x / 2 ^ 7 % 256 = 255 ∧ x % 2 ^ 7 ≠ 0 then 0x7FC00000 else x * 65536) ∧
  (∀ (l : Lane) (x : BitVec 32), l ≠ .int32 →
    let n := x.toInt.natAbs
    let f := fracBits l
    let t := n.log2
    laneCvt .int32 l x.toNat = (if x.toInt < 0 then 2 ^ (laneBits l - 1) else 0) +
      (if n = 0 then 0 else (126 + t) * 2 ^ f + (if t ≤ f then n * 2 ^ (f - t) else nearestDiv n (2 ^ (t - f))))) ∧
  (∀ (l : Lane) (x : Nat), laneCvt l l x = x)

/-- A vector instruction whose lane type is 3, or not one that it takes, or that names a register above v15, is ILLEGAL. -/
def Claims.VectorIllegal : Prop :=
  ∀ (s : State) (k : CoreId) (c : CtxId) (f : FieldsR), issues s k c →
    (∀ p ∈ [Instr.vadd, .vsub, .vmul, .vfma, .vmax, .vmin, .vshl, .vsra, .vrsum, .vrmax, .vbcast, .vext],
      f.mod.toNat = 3 → exec (p k f) s = .next (issueFault s k c .illegal)) ∧
    (f.mod.toNat = 2 → exec (.vfma k f) s = .next (issueFault s k c .illegal)) ∧
    (∀ p ∈ [Instr.vshl, .vsra], f.mod.toNat < 2 → exec (p k f) s = .next (issueFault s k c .illegal)) ∧
    (∀ p ∈ [Instr.vadd, .vsub, .vmul, .vfma, .vmax, .vmin, .vand, .vor, .vxor, .vshl, .vsra, .vcvt, .vrsum, .vrmax, .vbcast],
      16 ≤ f.d.toNat → exec (p k f) s = .next (issueFault s k c .illegal)) ∧
    (f.mod.toNat % 4 = 3 ∨ f.mod.toNat / 4 % 4 = 3 → exec (.vcvt k f) s = .next (issueFault s k c .illegal))

/-! ### Tensor operations (03_cores.md, Table 3.11, R65, R68; 05_accumulation.md, R104 to R117) -/

/-- The operation enters its context's tensor queue behind those that wait, with the offset of its instruction and its task, and the
context goes on; its task has one more operation outstanding; the bytes that it reads as cube operands are held for it (R94); nothing
else of the device changes but the numbering of operations. -/
def joinsQueue (s t : State) (k : CoreId) (c : CtxId) (kind : TKind) (task : Option Nat) : Prop :=
  getCtx t k c = { getCtx s k c with
    queue := (getCtx s k c).queue ++ [⟨(getCore s k).nextId, kind, c, pcOf s k c, task⟩]
    pc := pcOf s k c + 8, ret := (getCtx s k c).ret + 1 } ∧
  (∀ c', c' ≠ c → getCtx t k c' = getCtx s k c') ∧
  (getCore t k).tasks = (getCore s k).tasks.map (fun x => if some x.id = task then { x with outst := x.outst + 1 } else x) ∧
  (getCore t k).holds = (getCore s k).holds ++ (if opReads kind = [] then [] else [⟨(getCore s k).nextId, opReads kind, false, none⟩]) ∧
  { getCore t k with ctx := (getCore s k).ctx, tasks := (getCore s k).tasks, nextId := (getCore s k).nextId,
                     holds := (getCore s k).holds } = getCore s k ∧
  (∀ j, j ≠ k → getCore t j = getCore s j) ∧ { t with cores := s.cores } = s

/-- The queue has room, and the context has no aborted task open: `task` is the one it has. -/
def canQueue (s : State) (k : CoreId) (c : CtxId) (task : Option Nat) : Prop :=
  (getCtx s k c).queue.length < 4 ∧ issueTask s k c = some task

/-- ACCZ has its form: only ACC and ANCHOR are used. -/
def acczForm (f : FieldsT) : Prop := f.rsv = 0 ∧ f.ta = 0 ∧ f.tb = 0 ∧ f.tc = 0 ∧ f.g = 0 ∧ f.mod = 0

/-- MMA passes its checks of form, ALIGN and RANGE (R68, R88, R109). -/
def mmaForm (s : State) (k : CoreId) (c : CtxId) (f : FieldsT) : Prop :=
  let a := tileDesc (tGet (getCtx s k c) f.ta.toNat)
  let b := tileDesc (tGet (getCtx s k c) f.tb.toNat)
  f.rsv = 0 ∧ f.tc = 0 ∧ f.g = 0 ∧ f.anchor = 0 ∧ f.mod.toNat < 2 ∧ tdIllegal a = false ∧ tdIllegal b = false ∧ a.k = b.k ∧
  pairOk a.fmt b.fmt = true ∧ (a.scaled = true → scaledOk a.fmt = true) ∧ (b.scaled = true → scaledOk b.fmt = true) ∧
  (anchorAhead s k c f.acc.toNat = (true, false) → (defaultAnchor a b).isSome = true) ∧
  tdAlign a = false ∧ tdAlign b = false ∧ tdRange a = false ∧ tdRange b = false

/-- EPI passes its checks of form, ALIGN and RANGE (R114 to R117). -/
def epiForm (s : State) (k : CoreId) (c : CtxId) (f : FieldsT) : Prop :=
  let d := tileDesc (tGet (getCtx s k c) f.tc.toNat)
  let q := epiCtl (gOf s k c f.g)
  f.rsv = 0 ∧ f.ta = 0 ∧ f.tb = 0 ∧ f.anchor = 0 ∧ f.mod = 0 ∧ tdIllegal d = false ∧ (d.k = 32 ∨ d.k = 64) ∧
  epiFmtOk d.fmt d.scaled = true ∧ q.rsv = false ∧ q.mode ≤ 4 ∧ q.func ≤ 9 ∧ epiTableOk (getCore s k) q.func q.table = true ∧
  tdAlign d = false ∧ tdRange d = false ∧ q.params + 64 ≤ 0x600000

/-- ACCRD or ACCWR passes its checks of form, of debug mode and of the image's place (R113). -/
def imageForm (s : State) (k : CoreId) (c : CtxId) (f : FieldsT) : Prop :=
  f.rsv = 0 ∧ f.ta = 0 ∧ f.tb = 0 ∧ f.tc = 0 ∧ f.anchor = 0 ∧ f.mod = 0 ∧ debugMode s k = true ∧
  (gOf s k c f.g).toNat % 64 = 0 ∧ (gOf s k c f.g).toNat + 66624 ≤ 0x600000

/-- ATTN passes its checks of form, ALIGN and RANGE: its block, at `off`, and the records a merge names are readable, and the block
`b` is legal (R206, R209). -/
def attnForm (s : State) (k : CoreId) (c : CtxId) (f : FieldsT) (off : Nat) (b : List Byte) : Prop :=
  f.rsv = 0 ∧ f.acc = 0 ∧ f.ta = 0 ∧ f.tb = 0 ∧ f.tc = 0 ∧ f.anchor = 0 ∧ f.mod = 0 ∧ off = (gOf s k c f.g).toNat ∧ off % 64 = 0 ∧
  off + 64 ≤ 0x600000 ∧ cleanRange (getCore s k).opbuf off 64 ∧ b = memReadBytes (getCore s k).opbuf.bytes off 64 ∧
  atIllegal (getCore s k) b = false ∧ (∀ r ∈ atShapes b, cleanRange (getCore s k).opbuf r.1 r.2) ∧
  ∀ r ∈ atRanges (getCore s k).opbuf.bytes b, r.1 + r.2 ≤ 0x600000

/-- No byte of the ranges lies in a pair of another context (R61). -/
def ownRanges (s : State) (k : CoreId) (c : CtxId) (rs : List (Nat × Nat)) : Prop := ∀ r ∈ rs, bufForeign s k c r.1 r.2 = false

/-- The operand-buffer bytes that MMA, EPI, ACCRD and ACCWR, and ATTN name. -/
def mmaBytes (s : State) (k : CoreId) (c : CtxId) (f : FieldsT) : List (Nat × Nat) :=
  tdRanges (tileDesc (tGet (getCtx s k c) f.ta.toNat)) ++ tdRanges (tileDesc (tGet (getCtx s k c) f.tb.toNat))
def epiBytes (s : State) (k : CoreId) (c : CtxId) (f : FieldsT) : List (Nat × Nat) :=
  ((epiCtl (gOf s k c f.g)).params, 64) :: tdRanges (tileDesc (tGet (getCtx s k c) f.tc.toNat))
def imageBytes (s : State) (k : CoreId) (c : CtxId) (f : FieldsT) : List (Nat × Nat) := [((gOf s k c f.g).toNat, 66624)]
def attnBytes (s : State) (k : CoreId) (off : Nat) (b : List Byte) : List (Nat × Nat) :=
  (off, 64) :: atRanges (getCore s k).opbuf.bytes b

/-- A tensor instruction whose operands pass the checks of its rules enters the queue: ACCZ with the anchor of its field; MMA with
its descriptors, and the anchor it gives a pending tile, which it keeps until it runs (where an earlier ACCWR or ATTN decides
whether the tile is pending, it is settled then: the model's reading, log 75); EPI with its output tile and control word; in debug
mode ACCRD and ACCWR with the place of the image. -/
def Claims.TensorIssue : Prop :=
  ∀ (s : State) (k : CoreId) (c : CtxId) (f : FieldsT) (task : Option Nat), issues s k c → canQueue s k c task →
    (accOwn s k c).getLsbD f.acc.toNat = true →
      let g := gOf s k c f.g
      let ta := tGet (getCtx s k c) f.ta.toNat
      let tb := tGet (getCtx s k c) f.tb.toNat
      (acczForm f → ∃ t, exec (.accz k f) s = .next t ∧ joinsQueue s t k c (.accz f.acc.toNat f.anchor.toInt) task) ∧
      (mmaForm s k c f → ownRanges s k c (mmaBytes s k c f) →
        ∃ t, exec (.mma k f) s = .next t ∧
          joinsQueue s t k c (.mma f.acc.toNat ta tb (f.mod = 1)
            (if anchorAhead s k c f.acc.toNat = (true, false) then defaultAnchor (tileDesc ta) (tileDesc tb) else none)
            (anchorAhead s k c f.acc.toNat).2) task) ∧
      (epiForm s k c f → ownRanges s k c (epiBytes s k c f) →
        ∃ t, exec (.epi k f) s = .next t ∧ joinsQueue s t k c (.epi f.acc.toNat (tGet (getCtx s k c) f.tc.toNat) g) task) ∧
      (imageForm s k c f → ownRanges s k c (imageBytes s k c f) →
        (∃ t, exec (.accrd k f) s = .next t ∧ joinsQueue s t k c (.accrd f.acc.toNat g.toNat) task) ∧
        (∃ t, exec (.accwr k f) s = .next t ∧ joinsQueue s t k c (.accwr f.acc.toNat g.toNat) task))

/-- ATTN with a legal block in clean bytes enters the queue with the block it read and the tiles it names (R206, R209). -/
def Claims.AttnIssue : Prop :=
  ∀ (s : State) (k : CoreId) (c : CtxId) (f : FieldsT) (task : Option Nat) (off : Nat) (b : List Byte), issues s k c →
    canQueue s k c task → attnForm s k c f off b → (∀ a ∈ atTiles b, (accOwn s k c).getLsbD a = true) →
    pairClaimed s k (atWork b) = false → ownRanges s k c (attnBytes s k off b) →
      ∃ t, exec (.attn k f) s = .next t ∧ joinsQueue s t k c (.attn off (atTiles b) b) task

/-- A tensor queue holds four operations: a tensor instruction, ACCZ, MMA, EPI, ACCRD, ACCWR or ATTN, that passes its checks and
meets a full one waits (R65, Table 3.4). -/
def Claims.TensorQueueBound : Prop :=
  ∀ (s : State) (k : CoreId) (c : CtxId) (f : FieldsT), issues s k c → 4 ≤ (getCtx s k c).queue.length →
    ((accOwn s k c).getLsbD f.acc.toNat = true →
      (acczForm f → exec (.accz k f) s = .next (waits s k c .queue)) ∧
      (mmaForm s k c f → ownRanges s k c (mmaBytes s k c f) → exec (.mma k f) s = .next (waits s k c .queue)) ∧
      (epiForm s k c f → ownRanges s k c (epiBytes s k c f) → exec (.epi k f) s = .next (waits s k c .queue)) ∧
      (imageForm s k c f → ownRanges s k c (imageBytes s k c f) →
        exec (.accrd k f) s = .next (waits s k c .queue) ∧ exec (.accwr k f) s = .next (waits s k c .queue))) ∧
    (∀ off b, attnForm s k c f off b → (∀ a ∈ atTiles b, (accOwn s k c).getLsbD a = true) → pairClaimed s k (atWork b) = false →
      ownRanges s k c (attnBytes s k off b) → exec (.attn k f) s = .next (waits s k c .queue))

/-- TWAIT goes on where no earlier operation of its context is outstanding, or, with MOD bit 0, none that names the tile; it
waits elsewhere (R111). With MOD 0 it takes any ACC (the model's reading, log 62). -/
def Claims.TensorWait : Prop :=
  ∀ (s : State) (k : CoreId) (c : CtxId) (f : FieldsT), issues s k c → f.rsv = 0 → f.ta = 0 → f.tb = 0 → f.tc = 0 → f.g = 0 →
    f.anchor = 0 →
      let out := (startedOps (getCore s k)).filter (fun o => o.ctx = c) ++ (getCtx s k c).queue
      (f.mod = 0 → exec (.twait k f) s = .next (if out = [] then retireNext s s k c else waits s k c (.tensor none))) ∧
      (f.mod = 1 → (accOwn s k c).getLsbD f.acc.toNat = true →
        exec (.twait k f) s = .next
          (if ∃ o ∈ out, f.acc.toNat ∈ opTiles o.kind then waits s k c (.tensor (some f.acc.toNat)) else retireNext s s k c))

/-- An ANCHOR field that is not zero makes MMA, EPI, ATTN, TWAIT, ACCRD and ACCWR ILLEGAL at issue. -/
def Claims.AnchorFieldOfOthers : Prop :=
  ∀ (s : State) (k : CoreId) (c : CtxId) (f : FieldsT), issues s k c → f.anchor ≠ 0 →
    ∀ i ∈ [Instr.mma k f, .epi k f, .attn k f, .twait k f, .accrd k f, .accwr k f], exec i s = .next (issueFault s k c .illegal)

/-- A tensor instruction that names a tile its context does not own, and passes the checks that come before, takes ACC_OWNER and does
nothing: ACCZ, MMA, EPI, TWAIT with MOD bit 0, ACCRD, ACCWR, and ATTN for any of the tiles of its block (R60). -/
def Claims.TileOwner : Prop :=
  ∀ (s : State) (k : CoreId) (c : CtxId) (f : FieldsT), issues s k c →
    ((accOwn s k c).getLsbD f.acc.toNat = false →
      (acczForm f → exec (.accz k f) s = .next (issueFault s k c .accOwner)) ∧
      (mmaForm s k c f → exec (.mma k f) s = .next (issueFault s k c .accOwner)) ∧
      (epiForm s k c f → exec (.epi k f) s = .next (issueFault s k c .accOwner)) ∧
      (f.rsv = 0 → f.ta = 0 → f.tb = 0 → f.tc = 0 → f.g = 0 → f.anchor = 0 → f.mod = 1 →
        exec (.twait k f) s = .next (issueFault s k c .accOwner)) ∧
      (imageForm s k c f →
        exec (.accrd k f) s = .next (issueFault s k c .accOwner) ∧ exec (.accwr k f) s = .next (issueFault s k c .accOwner))) ∧
    (∀ off b a, attnForm s k c f off b → a ∈ atTiles b → (accOwn s k c).getLsbD a = false →
      exec (.attn k f) s = .next (issueFault s k c .accOwner))

/-! ### Exact accumulation (05_accumulation.md, R105 to R109) -/

/-- The classes of an accumulator element combine by Table 5.1: FINITE gives way to the other class, two infinities of one sign
stay, of two signs give NAN, and NAN stays; the rule is commutative and associative (R105). -/
def Claims.ClassCombine : Prop :=
  (∀ a, clsCombine .finite a = a) ∧ clsCombine .posInf .negInf = .nan ∧ (∀ a, clsCombine .nan a = .nan) ∧
  (∀ a, clsCombine a a = a) ∧
  (∀ a b, clsCombine a b = clsCombine b a) ∧ (∀ a b c, clsCombine (clsCombine a b) c = clsCombine a (clsCombine b c))

/-- A finite product p × 2^e is placed on the grid of 2^A as the greatest integer whose value is not above it, clamped to 128 bits:
DROPPED says that it was not exact, OVERFLOW that the clamp applied (R106). -/
def Claims.PlaceProduct : Prop :=
  ∀ (A : Int) (acc : PlaceSum) (n m e g : Int),
    let p := n * m
    let x := e + g
    let r := placeOne A acc (.fin n e) (.fin m g)
    ∃ q : Int, (if A ≤ x then q = p * 2 ^ (x - A).toNat else q * 2 ^ (A - x).toNat ≤ p ∧ p < (q + 1) * 2 ^ (A - x).toNat) ∧
      r.sum = acc.sum + max (-(2 ^ 127)) (min (2 ^ 127 - 1) q) ∧ r.cls = acc.cls ∧
      (r.dropped = true ↔ acc.dropped = true ∨ (x < A ∧ q * 2 ^ (A - x).toNat ≠ p)) ∧
      (r.sat = true ↔ acc.sat = true ∨ 2 ^ 127 - 1 < q ∨ q < -(2 ^ 127))

/-- What a pass adds to an element does not depend on the order of k (R107). -/
def Claims.PassOrderFree : Prop :=
  ∀ (A : Int) (old : XEl) (ps qs : List (OpVal × OpVal)) (u : Int), ps.Perm qs →
    passEl A old (ps.map Prod.fst) (ps.map Prod.snd) u = passEl A old (qs.map Prod.fst) (qs.map Prod.snd) u

/-- An unscaled pair of formats of 8 bits or fewer drops nothing on its default anchor, and no placement clamps (R110). -/
def Claims.DefaultAnchorExact : Prop :=
  ∀ (fa fb : Nat) (A : Int), leastPlace fa = some (A - (leastPlace fb).getD 0) → (leastPlace fb).isSome = true →
    ∀ (x y : Nat) (acc : PlaceSum),
      (placeOne A acc (decodeEl fa x) (decodeEl fb y)).dropped = acc.dropped ∧
      (placeOne A acc (decodeEl fa x) (decodeEl fb y)).sat = acc.sat

/-! ### The cube array (04_cube_array.md, R92 to R99; 05_accumulation.md, R109, R113) -/

/-- The next grant of a unit takes `o` out of the queue of its context, and of no other. -/
def grantTaken (s t : State) (k : CoreId) (o : TOp) : Prop :=
  (getCtx t k o.ctx).queue = (getCtx s k o.ctx).queue.filter (fun x => x.id != o.id) ∧
  ∀ c, c ≠ o.ctx → (getCtx t k c).queue = (getCtx s k c).queue

/-- Once granted, ACCZ leaves every element of its tile zero and FINITE, its flags clear, and its anchor that of the field, or
pending for −512; ACCWR leaves the tile of the image it reads; ACCRD writes the image of its tile, whose blocks pass their check: the
elements, their classes, the anchor, the flags and the reserved zeros, and no byte beside them, but for what the operations that read
those bytes keep first (R94; the model's reading, log 11); no other tile changes. -/
def Claims.AccumulatorOps : Prop :=
  ∀ (s : State) (k : CoreId) (o : TOp) (acc : Nat), nextGrant s k 0 = some o → acc < 8 →
    (∀ v, o.kind = .accz acc v →
      ∃ t, exec (.acczExecute k) s = .next t ∧ grantTaken s t k o ∧
        getTile t k acc = ⟨List.replicate 4096 ⟨0, .finite⟩, if v = -512 then none else some v, false, false⟩ ∧
        ∀ a, a < 8 → a ≠ acc → getTile t k a = getTile s k a) ∧
    (∀ off, o.kind = .accwr acc off → cleanRange (getCore s k).opbuf off 66624 →
      ∀ img a, img = memReadBytes (getCore s k).opbuf.bytes off 66624 → imageAnchor img = some a →
      ∃ t, exec (.accwrExecute k) s = .next t ∧ grantTaken s t k o ∧ getTile t k acc = imageTile img a ∧
        ∀ b, b < 8 → b ≠ acc → getTile t k b = getTile s k b) ∧
    (∀ off, o.kind = .accrd acc off → off % 64 = 0 → (getTile s k acc).els.length = 4096 → tileSofts (getCore s k) acc = [] →
      let T := getTile s k acc
      let els := if T.anchor.isNone then List.replicate 4096 xelZero else T.els
      let held := keepHeld (grant s k 0 o) k (some o.id) off 66624
      ∃ t, exec (.accrdExecute k) s = .next t ∧ grantTaken s t k o ∧ (∀ a, getTile t k a = getTile s k a) ∧
        let m := (getCore t k).opbuf.bytes
        (∀ i, i < 65536 → memRead m (off + i) = (els.getD (i / 16) xelZero).n.extractLsb' (8 * (i % 16)) 8) ∧
        (∀ i, i < 1024 → (memRead m (off + 65536 + i)).toNat =
          clsCode (els.getD (4 * i) xelZero).cls + 4 * clsCode (els.getD (4 * i + 1) xelZero).cls +
          16 * clsCode (els.getD (4 * i + 2) xelZero).cls + 64 * clsCode (els.getD (4 * i + 3) xelZero).cls) ∧
        (memRead m (off + 66561)).toNat * 256 + (memRead m (off + 66560)).toNat = (BitVec.ofInt 16 (T.anchor.getD (-512))).toNat ∧
        (memRead m (off + 66562)).toNat = (if T.dropped then 1 else 0) + (if T.overflow then 2 else 0) ∧
        (∀ i, i < 61 → memRead m (off + 66563 + i) = 0) ∧
        (∀ b, b < off ∨ off + 66624 ≤ b → memRead m b = memRead (getCore held k).opbuf.bytes b))

/-- A write that R94 holds back from the bytes of an MMA or ATTN in flight changes nothing of what that operation reads: after ST
to a byte of its ranges, an operation that waits still reads the bytes that stood there at the store, and one that has started keeps
what it read itself (the write itself acts at once: the model's reading, log 11). -/
def Claims.OperandsHeld : Prop :=
  ∀ (s : State) (k : CoreId) (c : CtxId) (f : FieldsI) (a : Nat) (h : OpHold), issues s k c → localOk s k c f 1 8 8 .opbuf a →
    h ∈ (getCore s k).holds → ((getCore s k).holds.map (fun x => x.op)).Nodup → h.bytes = none → h.ranges.any (meets a 8) = true →
    (∀ r ∈ h.ranges, cleanRange (getCore s k).opbuf r.1 r.2) →
      ∃ t, exec (.st k f) s = .next t ∧
        findHold t k h.op = some { h with bytes := some (some
          (if h.started then [] else h.ranges.map (fun r => memReadBytes (getCore s k).opbuf.bytes r.1 r.2))) }

/-- The bytes an operation reads as operand tiles `a` and `b` decode to these element values: those that were kept for it, or, where
no write has met them, those that stand in the operand buffer in blocks that pass their check (R94). -/
def operandsAre (s : State) (k : CoreId) (id : Nat) (a b : TileDesc) (av bv : List (List OpVal)) : Prop :=
  match (findHold s k id).bind (fun h => h.bytes) with
  | some none => False
  | some (some l) => av = operandVals a (l.take (tdRanges a).length) ∧ bv = operandVals b (l.drop (tdRanges a).length)
  | none =>
    (∀ r ∈ tdRanges a ++ tdRanges b, cleanRange (getCore s k).opbuf r.1 r.2) ∧
    av = operandVals a ((tdRanges a).map (fun r => memReadBytes (getCore s k).opbuf.bytes r.1 r.2)) ∧
    bv = operandVals b ((tdRanges b).map (fun r => memReadBytes (getCore s k).opbuf.bytes r.1 r.2))

/-- MMA_PASS_START on a tile with an anchor reads the operand bytes of its descriptors, which pass their check, or those that were kept
for it before a later write, and its pass enters the array with the element values they decode to. -/
def Claims.PassStart : Prop :=
  ∀ (s : State) (k : CoreId) (o : TOp) (acc : Nat) (ta tb : TReg) (off : Bool) (an : Option Int) (later : Bool) (av bv : List (List OpVal)),
    nextGrant s k 0 = some o → o.kind = .mma acc ta tb off an later → (getTile s k acc).anchor.isSome = true →
    operandsAre s k o.id (tileDesc ta) (tileDesc tb) av bv →
      ∃ t p, exec (.mmaPassStart k) s = .next t ∧ grantTaken s t k o ∧ (getCore t k).passes = (getCore s k).passes ++ [p] ∧
        p.op = o ∧ p.acc = acc ∧ p.rowsA = (tileDesc ta).rows + 1 ∧ p.rowsB = (tileDesc tb).rows + 1 ∧ p.kElems = (tileDesc ta).k ∧
        p.aVals = av ∧ p.bVals = bv ∧ p.chkOff = off ∧ p.replay = false ∧ ∀ a, a < 8 → getTile t k a = getTile s k a

/-- PASS_COMMIT of the oldest pass, on a tile whose blocks pass their check: where every comparison passes, or the pass is unchecked, each element of the output rows and columns
takes the sum of R107 and the rest of the tile stays; a first failure leaves the tile and makes a replay due; a replay that
fails leaves the tile, sets SUSPECT and takes ABFT_PERSIST. -/
def Claims.PassCommit : Prop :=
  ∀ (s : State) (k : CoreId) (p : Pass) (ps : List Pass) (us : List CubeUpset) (par : List (Fin 9 × Fin 9)) (A : Int),
    coreClocked s k = true → (getCore s k).passes = p :: ps → p.acc < 8 → (getTile s k p.acc).anchor = some A →
    tileSofts (getCore s k) p.acc = [] →
      let out := passTry (getTile s k p.acc) p us par
      ∃ t, exec (.passCommit k us par) s = .next t ∧ (getCore t k).passes = ps ∧
        (∀ a, a < 8 → a ≠ p.acc → getTile t k a = getTile s k a) ∧
        (out.2.2.1 = 0 →
          (∀ m n, m < 64 → n < 64 → (getTile t k p.acc).els.getD (64 * m + n) xelZero =
            (if m < p.rowsA ∧ n < p.rowsB then
               (passEl A ((getTile s k p.acc).els.getD (64 * m + n) xelZero) (p.aVals.getD m []) (p.bVals.getD n [])
                 (upsetAt us (m / 8) (n / 8) (m % 8) (n % 8))).1
             else (getTile s k p.acc).els.getD (64 * m + n) xelZero)) ∧
          (getTile t k p.acc).anchor = some A ∧ (getCore t k).cube.passes = (getCore s k).cube.passes + 1 ∧
          (getCore t k).replays = (getCore s k).replays) ∧
        (out.2.2.1 ≠ 0 → getTile t k p.acc = getTile s k p.acc) ∧
        (out.2.2.1 ≠ 0 → p.replay = false →
          (∃ q, (getCore t k).replays = (getCore s k).replays ++ [q] ∧ q.op = p.op ∧ q.aVals = p.aVals ∧ q.bVals = p.bVals ∧
            q.replay = true) ∧ (getCore t k).cube.lastKind = out.2.2.1) ∧
        (out.2.2.1 ≠ 0 → p.replay = true →
          (getCore t k).cube.suspect = true ∧ (getCore t k).cube.evPersist = true ∧
          (getCtx t k p.op.ctx).fltCls = (if resetCovers s k p.op.ctx.val then (getCtx s k p.op.ctx).fltCls else 14))

/-- REPLAY_START: the oldest failed pass enters the array again as it was, with the operand values of its first attempt: a write has met
its bytes, so that they were kept for it, or those that stand decode to these values still (R94, R99; the model's reading of the
hold, log 11). -/
def Claims.ReplayStart : Prop :=
  ∀ (s : State) (k : CoreId) (p : Pass) (ps : List Pass) (acc : Nat) (ta tb : TReg) (off : Bool) (an : Option Int) (later : Bool),
    coreClocked s k = true → (getCore s k).replays = p :: ps → p.op.kind = .mma acc ta tb off an later →
    (((findHold s k p.op.id).bind (fun h => h.bytes)).isSome = true ∨
      operandsAre s k p.op.id (tileDesc ta) (tileDesc tb) p.aVals p.bVals) →
    ∃ t, exec (.replayStart k) s = .next t ∧ (getCore t k).replays = ps ∧ (getCore t k).passes = (getCore s k).passes ++ [p] ∧
      (getCore t k).tiles = (getCore s k).tiles ∧ (getCore t k).opbuf = (getCore s k).opbuf ∧ { t with cores := s.cores } = s

/-- The operand rows of a pass have the shape its descriptors give: up to 64 rows, each of the pass's length, all finite. -/
def passShape (p : Pass) : Prop :=
  p.rowsA ≤ 64 ∧ p.rowsB ≤ 64 ∧ p.aVals.length = p.rowsA ∧ p.bVals.length = p.rowsB ∧
  (∀ r ∈ p.aVals ++ p.bVals, r.length = p.kElems ∧ ∀ v ∈ r, ∃ n e, v = .fin n e)

/-- A pass without a fault passes all of its 1,152 comparisons, whatever its operands, its anchor and the tile it adds to, as long as
no element saturates: the checks never fail a right result (R95 to R97). -/
def Obligations.CleanPassPasses : Prop :=
  ∀ (p : Pass) (A : Int) (t : AccTile), passShape p → (∀ x ∈ passTile p A t [], ∀ q, x.2 = some q → q.sat = false) →
    passChecks p A t (passTile p A t []) [] = ⟨[], [], false, false⟩

/-- An error of one bit is never missed: no power of 2, at any place, has residue 0 (R97). -/
def Obligations.OneBitErrorsSeen : Prop := ∀ (n : Nat) (e : Int), res (2 ^ n) e ≠ 0 ∧ res (-(2 ^ n)) e ≠ 0

/-! ### The epilogue (05_accumulation.md, R114 to R127) -/

/-- What EPI_COMPLETE writes, in this order: the bytes of each output row and, for a scaled format, its scales; then the RESULT
word. -/
def epiWrites (e : EpiRun) (rows : List RowOut) : List (Nat × List Byte) :=
  let d := tileDesc e.out
  (List.range rows.length).flatMap (fun r =>
    let o := rows.getD r ⟨[], [], 0, 0⟩
    (d.base + r * tdPitch d, o.bytes) :: (if d.scaled then [(d.scaleBase + r * (d.k / 32), o.scales)] else [])) ++
  [((epiCtl e.ctl).params + 56, leBytes 8 (epiResult e rows))]

/-- The byte that a series of writes leaves at an address: that of the last write that covers it. -/
def lastByte (ws : List (Nat × List Byte)) (b : Nat) : Option Byte :=
  ws.reverse.findSome? (fun w => if w.1 ≤ b then w.2[b - w.1]? else none)

/-- EPI_START of an EPI whose parameter block and vectors lie where they may, and whose tile passes its check, takes the tile as it stands, so that a later writer of the
tile does not change what the EPI puts out; EPI_TILE_RELEASE frees the tile; EPI_COMPLETE then writes the output rows, their
scales and the RESULT word, no other byte where it covers no held operands, and counts the operation. (RESULT reports a non-finite
element only where the output has it: the model's choice, log 74.) -/
def Claims.Epilogue : Prop :=
  ∀ (s : State) (k : CoreId),
    (∀ o acc out ctl, nextGrant s k 1 = some o → o.kind = .epi acc out ctl → acc < 8 → tileSofts (getCore s k) acc = [] →
      let q := epiCtl ctl
      let ps := memReadBytes (getCore s k).opbuf.bytes q.params 56
      cleanRange (getCore s k).opbuf q.params 56 →
      (∀ v ∈ epiVectors (tileDesc out) q ps, v.1 % 4 = 0 ∧ v.1 + v.2 ≤ 0x600000 ∧ bufForeign s k o.ctx v.1 v.2 = false) →
        ∃ t, exec (.epiStart k) s = .next t ∧ grantTaken s t k o ∧
          (getCore t k).epi = some ⟨o, acc, out, ctl, getTile s k acc, ps, false⟩ ∧ (getCore t k).tiles = (getCore s k).tiles) ∧
    (∀ e, (getCore s k).epi = some e →
      exec (.epiTileRelease k) s = .next (modCore s k (fun m => { m with epi := some { e with released := true } }))) ∧
    (∀ e, (getCore s k).epi = some e → e.released = true → coreClocked s k = true →
      let q := epiCtl e.ctl
      let vs := epiVectors (tileDesc e.out) q e.params
      let bs := vs.map (fun v => memReadBytes (getCore s k).opbuf.bytes v.1 v.2)
      (∀ v ∈ vs, cleanRange (getCore s k).opbuf v.1 v.2) →
      let ws := epiWrites e (epiRows (getCore s k) e (if 2 ≤ q.mode then bs.getD 0 [] else [])
        (if 2 ≤ q.mode then bs.getD 1 [] else bs.getD 0 []))
      ∃ t, exec (.epiComplete k) s = .next t ∧ (getCore t k).epi = none ∧ (getCore t k).tiles = (getCore s k).tiles ∧
        (getCore t k).epiRegs.ops = (getCore s k).epiRegs.ops + 1 ∧
        (∀ b v, lastByte ws b = some v → memRead (getCore t k).opbuf.bytes b = v) ∧
        ((getCore s k).holds = [] → (∀ w ∈ ws, cleanRange (getCore s k).opbuf w.1 w.2.length) →
          ∀ b, lastByte ws b = none → memRead (getCore t k).opbuf.bytes b = memRead (getCore s k).opbuf.bytes b))

/-! ### Streams at the core (06_streams.md, R128 to R151; 03_cores.md, Table 3.12) -/

/-- The status word of a transfer (Table 6.6): its code, the states of its sides, R, its cause, and the record of an abort. -/
def statusOf (x : Xfer) : W64 :=
  BitVec.ofNat 64 (x.code + 16 * sideCode x.side0 + 64 * sideCode x.side1 + (if x.rbit then 256 else 0) + 65536 * x.cause +
    (if x.code = 2 then 2 ^ 32 * x.record.toNat else 0))

/-- STRM_SET loads the 64 bytes at g[A] into the slot's register. -/
def Claims.StreamSet : Prop :=
  ∀ (s : State) (k : CoreId) (c : CtxId) (f : FieldsS) (a : Nat), issues s k c → f.b = 0 → f.c = 0 → f.tag = 0 → f.rsv = 0 →
    f.imm.toNat < 8 → a = (gOf s k c f.a).toNat → a % 64 = 0 → a + 64 ≤ 0x600000 → bufForeign s k c a 64 = false →
    cleanRange (getCore s k).opbuf a 64 →
      exec (.strmSet k f) s = .next (retireNext s (modCtx s k c (fun x =>
        { x with slots := vset x.slots (Fin.ofNat 8 f.imm.toNat) (BitVec.ofNat 512 (memReadNat (getCore s k).opbuf.bytes a 64)) })) k c)

/-- STRM_GO, and STRM_FILL with its pattern, on a slot without an active transfer start the slot's descriptor where it breaks no rule
of R140: the transfer runs, or, buffered and outward, is held until the first STRM_SWAP; it is the slot's current one, belongs to
the open task and carries the offset of its instruction. A descriptor that breaks a rule ends at once with BAD_DESCRIPTOR and the
lowest cause it gives; in an aborted task the transfer ends ABORTED. -/
def Claims.StreamStart : Prop :=
  ∀ (s : State) (k : CoreId) (c : CtxId) (f : FieldsS) (d : Desc) (n : Nat), issues s k c → f.a = 0 → f.c = 0 → f.tag = 0 → f.rsv = 0 →
    n = f.imm.toNat → n < 8 → d = descOf (vget (getCtx s k c).slots (Fin.ofNat 8 n)) → goFault s k c n d = none →
    (∀ x, currentXfer s k c n = some x → xferActive x = false) →
      ∀ p ∈ [(Instr.strmGo k f, (none : Option W64)), (Instr.strmFill k f, some (gOf s k c f.b))], (p.2 = none → f.b = 0) →
        (((openTask s k c).bind (fun t => t.aborted) = none) → badCauses s k c n d p.2.isSome = [] → strmGoBlocked s k c n = false →
          ∃ t x, exec p.1 s = .next t ∧ pcOf t k c = pcOf s k c + 8 ∧ currentXfer t k c n = some x ∧ x.desc = d ∧ x.fill = p.2 ∧
            x.state = (if d.buffered && d.out then .hold else .run) ∧ x.issued = 0 ∧ x.landed = 0 ∧ x.pc = pcOf s k c ∧
            x.task = (getCtx s k c).task ∧ x.code = 0) ∧
        (((openTask s k c).bind (fun t => t.aborted) = none) → ∀ e es, badCauses s k c n d p.2.isSome = e :: es →
          ∃ t x, exec p.1 s = .next t ∧ pcOf t k c = pcOf s k c + 8 ∧ currentXfer t k c n = some x ∧ x.state = .ended ∧
            x.code = 4 ∧ x.cause = e ∧ (getCore t k).strm.evBadDesc = true) ∧
        (∀ r, (openTask s k c).bind (fun t => t.aborted) = some r →
          ∃ t x, exec p.1 s = .next t ∧ pcOf t k c = pcOf s k c + 8 ∧ currentXfer t k c n = some x ∧ x.state = .ended ∧
            x.code = 2 ∧ x.cause = 9 ∧ x.record = r)

/-- STRM_GO and STRM_FILL wait, and start nothing, while the slot's own transfer is active, and where eight transfers of the core would be
exceeded: its active transfers over all contexts, a running ATTN that fetches keys and values among them, and one for the transfer to
start, or two where the descriptor names an index stream (R128, R129, R222). -/
def Claims.StreamBlocked : Prop :=
  ∀ (s : State) (k : CoreId) (c : CtxId) (f : FieldsS) (d : Desc) (n : Nat), issues s k c → f.a = 0 → f.c = 0 → f.tag = 0 → f.rsv = 0 →
    n = f.imm.toNat → n < 8 → d = descOf (vget (getCtx s k c).slots (Fin.ofNat 8 n)) → goFault s k c n d = none →
      ∀ p ∈ [(Instr.strmGo k f, (none : Option W64)), (Instr.strmFill k f, some (gOf s k c f.b))], (p.2 = none → f.b = 0) →
        (∀ x, currentXfer s k c n = some x → xferActive x = true → exec p.1 s = .next (waits s k c (.strmGo n))) ∧
        ((∀ x, currentXfer s k c n = some x → xferActive x = false) → (openTask s k c).bind (fun t => t.aborted) = none →
          badCauses s k c n d p.2.isSome = [] →
          8 < ((getCore s k).xfers.filter (fun x => x.state != .ended)).length + attnActive (getCore s k) + (if d.indexed then 2 else 1) →
            exec p.1 s = .next (waits s k c (.strmGo n)))

/-- STRM_WAIT waits for an active transfer; it returns the status of the current one once it has ended, and the slot then has none;
with none it returns 0 (its R and sides too: the model's choice, log 71). STRM_SWAP waits while a buffered transfer is active and does nothing on a slot without one. -/
def Claims.StreamWait : Prop :=
  ∀ (s : State) (k : CoreId) (c : CtxId) (f : FieldsS), issues s k c → f.a = 0 → f.b = 0 → f.tag = 0 → f.rsv = 0 → f.imm.toNat < 8 →
    (currentXfer s k c f.imm.toNat = none → exec (.strmWait k f) s = .next (retireNext s (setG s k c f.c 0) k c)) ∧
    (∀ x, currentXfer s k c f.imm.toNat = some x →
      (xferActive x = true → exec (.strmWait k f) s = .next (waits s k c (.strmWait f.imm.toNat))) ∧
      (xferActive x = false →
        exec (.strmWait k f) s = .next (retireNext s (setG
          (modCore s k (fun m => { m with xfers := m.xfers.filter (fun y => y.id != x.id) })) k c f.c (statusOf x)) k c))) ∧
    (f.c = 0 →
      (currentXfer s k c f.imm.toNat = none → exec (.strmSwap k f) s = .next (retireNext s s k c)) ∧
      (∀ x, currentXfer s k c f.imm.toNat = some x →
        (x.desc.buffered = true → (x.state = .run ∨ x.state = .stopping) →
          exec (.strmSwap k f) s = .next (waits s k c (.strmSwap f.imm.toNat))) ∧
        (x.desc.buffered = false ∨ x.state = .ended → exec (.strmSwap k f) s = .next (retireNext s s k c))))

/-- STRM_SWAP on a held buffered transfer with a phase to come hands the sides over: R is inverted, the transfer runs its next phase,
and the new engine side is BUSY. -/
def Claims.StreamSwap : Prop :=
  ∀ (s : State) (k : CoreId) (c : CtxId) (f : FieldsS) (x : Xfer), issues s k c → f.a = 0 → f.b = 0 → f.c = 0 → f.tag = 0 → f.rsv = 0 →
    f.imm.toNat < 8 → currentXfer s k c f.imm.toNat = some x → x.desc.buffered = true → x.state = .hold →
    x.phase < (vget x.desc.dims 4).count →
      ∃ t y, exec (.strmSwap k f) s = .next t ∧ pcOf t k c = pcOf s k c + 8 ∧ currentXfer t k c f.imm.toNat = some y ∧
        y.rbit = !x.rbit ∧ y.state = .run ∧ y.phase = x.phase + 1 ∧ (if y.rbit then y.side0 else y.side1) = .busy ∧
        (if y.rbit then y.side1 else y.side0) = (if y.rbit then x.side1 else x.side0)

/-- STRM_CANCEL stops a running transfer that no other drives: no request of it is issued any more, and it ends CANCELLED once none
is in flight; a slot without a transfer is left alone (R149). -/
def Claims.StreamCancel : Prop :=
  ∀ (s : State) (k : CoreId) (c : CtxId) (f : FieldsS), issues s k c → f.a = 0 → f.b = 0 → f.c = 0 → f.tag = 0 → f.rsv = 0 →
    f.imm.toNat < 8 →
      (currentXfer s k c f.imm.toNat = none → exec (.strmCancel k f) s = .next (retireNext s s k c)) ∧
      (∀ x, currentXfer s k c f.imm.toNat = some x → findXfer s k x.id = some x → (x.state = .run ∨ x.state = .hold) →
        x.partner = none →
        ∃ t y, exec (.strmCancel k f) s = .next t ∧ pcOf t k c = pcOf s k c + 8 ∧ findXfer t k x.id = some y ∧ y.code = 3 ∧
          y.state = (if (getCore s k).reqs.any (fun r => r.xfer = x.id) then .stopping else .ended))

/-- The remote address that a plain transfer has reached: that of its next position, and the bytes of it already issued. -/
def nextRemote (x : Xfer) : Nat :=
  let p := x.issued / elemSize x.desc
  (remoteAddr x.desc p (p / (dimCount x.desc 0 * dimCount x.desc 1 * dimCount x.desc 2) % dimCount x.desc 3) +
    x.issued % elemSize x.desc) % 2 ^ 64

/-- A grant of the stream engine to an inward NEAR transfer issues one request, of consecutive bytes that cross no 2 KiB boundary, from
where the transfer stands, and notes whose turn it was; its data are those of the near slice. With no transfer to serve, no
clock, or 64 requests in flight, a running ATTN's fetches among them, nothing happens. -/
def Claims.StreamRequests : Prop :=
  ∀ (s : State) (k : CoreId) (ats : Bool),
    (coreClocked s k = false ∨ 64 ≤ inFlight (getCore s k) ∨ nextXfer s k = none →
      exec (.streamRequestIssue k ats) s = .next s) ∧
    (∀ x, coreClocked s k = true → inFlight (getCore s k) < 64 → nextXfer s k = some x → findXfer s k x.id = some x →
      x.desc.rclass = 2 → x.desc.out = false → x.desc.indexed = false → x.desc.index = false → x.fill = none →
      nextRemote x / 2048 * 2048 + 2048 ≤ 0x40000000 → cleanRange (getSpace s k .near) (nextRemote x / 2048 * 2048) 2048 →
      ∃ t r, exec (.streamRequestIssue k ats) s = .next t ∧ (getCore t k).strm.lastSlot = x.ctx.val * 8 + x.slot ∧
        (getCore t k).reqs = (getCore s k).reqs ++ [r] ∧ r.xfer = x.id ∧ r.start = x.issued ∧ 0 < r.len ∧
        nextRemote x % 2048 + r.len ≤ 2048 ∧ r.data = memReadBytes (getSpace s k .near).bytes (nextRemote x) r.len ∧
        (findXfer t k x.id).map (fun y => y.issued) = some (x.issued + r.len))

/-- A request that returns leaves the requests in flight: an outward one counts its bytes as landed, an inward one of one element puts
its bytes at the element's local place, within one pair where it is buffered. A deadline that passes with its phase unfinished counts once in DEADLINE_MISS. -/
def Claims.StreamReturns : Prop :=
  ∀ (s : State) (k : CoreId),
    (∀ i r x data, (getCore s k).reqs[i]? = some r → r.waits = 0 → r.err = 0 → findXfer s k r.xfer = some x → x.state = .run →
      x.desc.out = true →
      ∃ t, exec (.streamRequestReturn k i data false) s = .next t ∧ (getCore t k).reqs.length + 1 = (getCore s k).reqs.length ∧
        (findXfer t k r.xfer).map (fun y => y.landed) = some (x.landed + r.len)) ∧
    (∀ i r x data, (getCore s k).reqs[i]? = some r → r.waits = 0 → r.err = 0 → findXfer s k r.xfer = some x → x.state = .run →
      x.desc.out = false → x.desc.index = false → x.desc.rclass ≠ 1 → r.start % elemSize x.desc + r.data.length ≤ elemSize x.desc →
      (x.desc.buffered = true → (localPlace s k x r.start).2 % 65536 + r.data.length ≤ 65536) →
      ∃ t, exec (.streamRequestReturn k i data false) s = .next t ∧ (getCore t k).reqs.length + 1 = (getCore s k).reqs.length ∧
        ∀ n, n < r.data.length →
          some (memRead (getSpace t k (localPlace s k x r.start).1).bytes ((localPlace s k x r.start).2 + n)) = r.data[n]?) ∧
    (∀ c (slot : Fin 8) x, currentXfer s k c slot.val = some x → coreClocked s k = true → x.dlDue.isSome = true → x.dlMissed = false →
      (x.state = .run ∨ x.state = .hold) →
      ∃ t, exec (.deadlineMiss k c slot) s = .next t ∧ (getCtx t k c).dlMiss = (getCtx s k c).dlMiss + 1 ∧
        (getCore t k).strm.evDlMiss = true ∧
        (getCore t k).xfers = (getCore s k).xfers.map (fun y => if y.id = x.id then { y with dlMissed := true } else y))

/-! ### Commands to stacks and trees (03_cores.md, Table 3.12; 08_stack_memory_sprouts.md, R190; 11_chip_links.md, R277) -/

/-- SPR_ISSUE of a legal block in clean bytes, outside an aborted task, sends the block to the stack that holds the first page it
names, and counts it; SPR_FENCE waits for the context's commands, and then drops what the stacks' read buffers hold for its
partition, and nothing else. -/
def Claims.SproutIssue : Prop :=
  ∀ (s : State) (k : CoreId) (c : CtxId) (f : FieldsS), issues s k c → f.b = 0 → f.c = 0 → f.tag = 0 → f.imm = 0 → f.rsv = 0 →
    (∀ a b task p m, a = (gOf s k c f.a).toNat → a % 64 = 0 → a + 64 ≤ 0x600000 → cleanRange (getCore s k).opbuf a 64 →
      b = memReadBytes (getCore s k).opbuf.bytes a 64 → sprIllegal b = false → bufForeign s k c a 64 = false →
      (sprSync b ≠ 0xFFFFFFFF →
        handleBad s k ((sprSync b).setWidth 64) = false ∧ handleForeign s k ((sprSync b).setWidth 64) = false) →
      (getCtx s k c).sprOut < 16 → outRoom s k 64 = true → issueTask s k c = some task → partOfCore s k = some p →
      mapOf (getPart s p) (if sprOp b = 3 then sprOva b else sprWva b) = some m →
        ∃ t id, exec (.sprIssue k f) s = .next t ∧ pcOf t k c = pcOf s k c + 8 ∧
          (getCtx t k c).sprOut = (getCtx s k c).sprOut + 1 ∧
          t.mesh = s.mesh ++ [⟨.ctx k c, .stack (physOf m (if sprOp b = 3 then sprOva b else sprWva b) / 2 ^ 36), 2,
            .command b id (pcOf s k c) task⟩]) ∧
    (f.a = 0 →
      ((getCtx s k c).sprOut ≠ 0 → exec (.sprFence k f) s = .next (waits s k c .sprFence)) ∧
      (∀ p, (getCtx s k c).sprOut = 0 → partOfCore s k = some p →
        exec (.sprFence k f) s = .next (retireNext s
          { s with stks := s.stks.map (fun x => { x with buf := x.buf.filter (fun b => b.owner != some p) }) } k c)))

/-- COL_ISSUE of a legal block in clean bytes, outside an aborted task, takes the next operation number of its tree and sends the
core's chunks, cut from its source bytes, to the reduction node of its own region, or one chunk marked bad where a block of the source
cannot be corrected; the command waits for its result, of which no chunk has come yet. (The source is read at issue, and a core without
data sends an empty chunk of its command: the model's choices, log 34.) -/
def Claims.CollectiveIssue : Prop :=
  ∀ (s : State) (k : CoreId) (c : CtxId) (f : FieldsS) (a : Nat) (b : List Byte) (task : Option Nat) (p : PartId) (r : TreeRec),
    issues s k c → f.b = 0 → f.c = 0 → f.tag = 0 → f.imm = 0 → f.rsv = 0 →
    a = (gOf s k c f.a).toNat → a % 64 = 0 → a + 64 ≤ 0x600000 → cleanRange (getCore s k).opbuf a 64 →
    b = memReadBytes (getCore s k).opbuf.bytes a 64 → partOfCore s k = some p → treeRec s p (colTree b) = some r →
    issueTask s k c = some task → colRoom s k (colTree b) = true →
    (∀ x ∈ (getCore s k).early, x.tree ≠ colTree b ∨ x.op ≠ tget 0 (getCore s k).colSeq (colTree b) + 1) →
    let n := 4 * regionCount (maskOf s p)
    let src := colSource b r (corePcn s k)
    let dst := colResult b r.group n
    let op := tget 0 (getCore s k).colSeq (colTree b) + 1
    let sent := fun (x : RedChunk) => (⟨.ctx k c, .red (regionOf k), 2, .red x⟩ : Frame)
    (colIllegal b n (some r) = false ∧ (src ≠ 0 → colSrc b + src ≤ spaceSize (colSrcSpace b)) ∧
     (dst ≠ 0 → colDst b + dst ≤ spaceSize (colDstSpace b)) ∧ bufForeign s k c a 64 = false ∧
     (colSrcSpace b = .opbuf → bufForeign s k c (colSrc b) src = false) ∧
     (colDstSpace b = .opbuf → bufForeign s k c (colDst b) dst = false)) →
    (colSync b ≠ 0xFFFFFFFF →
      handleBad s k ((colSync b).setWidth 64) = false ∧ handleForeign s k ((colSync b).setWidth 64) = false) →
      ∃ t cmd, exec (.colIssue k f) s = .next t ∧ pcOf t k c = pcOf s k c + 8 ∧
        (getCore t k).cols = (getCore s k).cols ++ [cmd] ∧ cmd.tree = colTree b ∧ cmd.op = op ∧ cmd.ctx = c ∧ cmd.pc = pcOf s k c ∧
        cmd.left = dst ∧ tget 0 (getCore t k).colSeq (colTree b) = op ∧
        (src = 0 → t.mesh = s.mesh ++ (colChunks b r op (corePcn s k) (localOf k) []).map sent) ∧
        (src ≠ 0 → cleanRange (getSpace s k (colSrcSpace b)) (colSrc b) src →
          t.mesh = s.mesh ++ (colChunks b r op (corePcn s k) (localOf k)
            (memReadBytes (getSpace s k (colSrcSpace b)).bytes (colSrc b) src)).map sent) ∧
        (src ≠ 0 → (readLocal (taskOpBegin s k task) k (colSrcSpace b) (colSrc b) src).2 = none →
          t.mesh = s.mesh ++ [sent ⟨colTree b, op, true, b, corePcn s k, r.rank, 0, 0, 0, localOf k, true, []⟩])

/-- The block at g[A] is one that the context may read: aligned, in the operand buffer, in no pair of another context, and clean. -/
def readableBlock (s : State) (k : CoreId) (c : CtxId) (f : FieldsS) (b : List Byte) : Prop :=
  let a := (gOf s k c f.a).toNat
  a % 64 = 0 ∧ a + 64 ≤ 0x600000 ∧ cleanRange (getCore s k).opbuf a 64 ∧ bufForeign s k c a 64 = false ∧
  b = memReadBytes (getCore s k).opbuf.bytes a 64

/-- A DONE_SYNC field names no object, or one of the partition that the core may name. -/
def syncNamed (s : State) (k : CoreId) (h : W32) : Prop :=
  h ≠ 0xFFFFFFFF → handleBad s k (h.setWidth 64) = false ∧ handleForeign s k (h.setWidth 64) = false

/-- The three instructions that send to units complete, in every state where their rules let them: SPR_ISSUE with a legal block, fewer
than 16 commands of the context, room in the outbound buffer and a mapped first page, with the state that its command leaves;
COL_ISSUE with a legal block and room on its tree, leaving its command and its number; SPR_FENCE with no command of the context
left. In an aborted task the first two go on and do nothing (R148). (The command record's last field, whether its source was
readable at the issue, is the model's choice, log 34.) -/
def Obligations.UnitInstructionsComplete : Prop :=
  ∀ (s : State) (k : CoreId) (c : CtxId) (f : FieldsS) (b : List Byte) (p : PartId), issues s k c →
    f.b = 0 → f.c = 0 → f.tag = 0 → f.imm = 0 → f.rsv = 0 → partOfCore s k = some p →
    (f.a = 0 → (getCtx s k c).sprOut = 0 →
      exec (.sprFence k f) s = .next (retireNext s
        { s with stks := s.stks.map (fun x => { x with buf := x.buf.filter (fun y => y.owner != some p) }) } k c)) ∧
    (readableBlock s k c f b → sprIllegal b = false → syncNamed s k (sprSync b) → (getCtx s k c).sprOut < 16 →
      outRoom s k 64 = true →
      (issueTask s k c = none → exec (.sprIssue k f) s = .next (retireNext s s k c)) ∧
      (∀ task m, issueTask s k c = some task → mapOf (getPart s p) (if sprOp b = 3 then sprOva b else sprWva b) = some m →
        let old := taskOpBegin s k task
        let new := modCtx (modCore old k (fun x => { x with nextId := x.nextId + 1 })) k c (fun x => { x with sprOut := x.sprOut + 1 })
        exec (.sprIssue k f) s = .next (retireNext s { new with mesh := s.mesh ++
          [⟨.ctx k c, .stack (physOf m (if sprOp b = 3 then sprOva b else sprWva b) / 2 ^ 36), 2,
            .command b (getCore s k).nextId (pcOf s k c) task⟩] } k c))) ∧
    (∀ r, readableBlock s k c f b → treeRec s p (colTree b) = some r → syncNamed s k (colSync b) →
      let n := 4 * regionCount (maskOf s p)
      let src := colSource b r (corePcn s k)
      let dst := colResult b r.group n
      colIllegal b n (some r) = false → (src ≠ 0 → colSrc b + src ≤ spaceSize (colSrcSpace b)) →
      (dst ≠ 0 → colDst b + dst ≤ spaceSize (colDstSpace b)) → (colSrcSpace b = .opbuf → bufForeign s k c (colSrc b) src = false) →
      (colDstSpace b = .opbuf → bufForeign s k c (colDst b) dst = false) → colRoom s k (colTree b) = true →
      (issueTask s k c = none → exec (.colIssue k f) s = .next (retireNext s s k c)) ∧
      (∀ task, issueTask s k c = some task →
        ∃ t, exec (.colIssue k f) s = .next t ∧
          tget 0 (getCore t k).colSeq (colTree b) = tget 0 (getCore s k).colSeq (colTree b) + 1 ∧
          ((getCore s k).early = [] → pcOf t k c = pcOf s k c + 8 ∧ (getCtx t k c).ret = (getCtx s k c).ret + 1 ∧
            (getCore t k).cols = (getCore s k).cols ++
            [⟨c, colTree b, tget 0 (getCore s k).colSeq (colTree b) + 1, b, pcOf s k c, task, dst,
              decide (src ≠ 0) && (readLocal (taskOpBegin s k task) k (colSrcSpace b) (colSrc b) src).2.isNone⟩])))

/-! ### Sync and message instructions (03_cores.md, Table 3.13, R72 to R76) -/

/-- A sync instruction on an object of the partition that the core may name sends its operation to the sync unit of the object's region
and goes on: SYNC_ADD with g[B] + IMM16, SYNC_ARM with its target and its message, SYNC_ABORT with record 0xFFFF_FFFF, SYNC_CANCEL.
A handle out of range takes RANGE, one that the core may not name takes SYNC_OWNER. -/
def Claims.SyncInstructions : Prop :=
  ∀ (s : State) (k : CoreId) (c : CtxId) (f : FieldsS), issues s k c → f.rsv = 0 →
    let h := gOf s k c f.a
    let sent := fun (r : RegionId) (b : FBody) => retireNext s (meshSend s ⟨.ctx k c, .sync r, 1, b⟩) k c
    (∀ r o, handleObj (coreMask s k) h.toNat = some (r, o) → handleForeign s k h = false →
      (f.c = 0 → f.tag = 0 → exec (.syncAdd k f) s = .next (sent r (.syncAdd o
        (BitVec.ofNat 32 ((gOf s k c f.b).toNat + f.imm.toNat))))) ∧
      (f.imm = 0 → f.c = 0 → exec (.syncArm k f) s = .next (sent r (.syncArm o ((gOf s k c f.b).setWidth 32) none))) ∧
      (f.imm = 0 → f.c ≠ 0 → (gOf s k c f.c).toNat < 0x200 → (gOf s k c f.c).toNat < 16 * regionCount (coreMask s k) →
        exec (.syncArm k f) s = .next (sent r (.syncArm o ((gOf s k c f.b).setWidth 32)
          (some ⟨k, c, (gOf s k c f.c).setWidth 16, f.tag⟩)))) ∧
      (f.imm = 0 → f.b = 0 → f.c = 0 → f.tag = 0 →
        exec (.syncAbort k f) s = .next (sent r (.syncAbort o 0xFFFFFFFF)) ∧
        exec (.syncCancel k f) s = .next (sent r (.syncCancel o)))) ∧
    (f.c = 0 → f.tag = 0 →
      (handleObj (coreMask s k) h.toNat = none → exec (.syncAdd k f) s = .next (issueFault s k c .range)) ∧
      (∀ x, handleObj (coreMask s k) h.toNat = some x → handleForeign s k h = true →
        exec (.syncAdd k f) s = .next (issueFault s k c .syncOwner)))

/-- SYNC_WAIT takes the outcome that a reply brought; else, with no earlier sync operation of the context to that region under way, it
looks at the object: a count at the threshold gives 0, an aborted object 1 with its record above bit 31, a cancelled one 2; and
otherwise its wait goes to the sync unit and the context blocks. -/
def Claims.SyncWait : Prop :=
  ∀ (s : State) (k : CoreId) (c : CtxId) (f : FieldsS) (r : RegionId) (o : Nat), issues s k c → f.tag = 0 → f.imm = 0 → f.rsv = 0 →
    handleObj (coreMask s k) (gOf s k c f.a).toNat = some (r, o) → handleForeign s k (gOf s k c f.a) = false →
      let x := getObj s r o
      let n := (gOf s k c f.b).setWidth 32
      (∀ v, (getCtx s k c).syncOut = some v →
        exec (.syncWait k f) s = .next (retireNext s (setG (modCtx s k c (fun y => { y with syncOut := none })) k c f.c v) k c)) ∧
      ((getCtx s k c).syncOut = none → syncQuiet s k c r = true →
        (x.state = .aborted → exec (.syncWait k f) s = .next (retireNext s
          (setG s k c f.c (BitVec.ofNat 64 (1 + x.record.toNat * 2 ^ 32))) k c)) ∧
        (x.state = .cancelled → exec (.syncWait k f) s = .next (retireNext s (setG s k c f.c 2) k c)) ∧
        (x.state = .armed ∨ x.state = .done → n.toNat ≤ x.count.toNat →
          exec (.syncWait k f) s = .next (retireNext s (setG s k c f.c 0) k c)) ∧
        (x.state = .armed ∨ x.state = .done → x.count.toNat < n.toNat →
          ∃ t q, exec (.syncWait k f) s = .next t ∧ (getCtx t k c).st = .blocked ∧ (getCtx t k c).wait = .sync ∧
            pcOf t k c = pcOf s k c ∧ t.mesh = s.mesh ++ [⟨.ctx k c, .sync r, 1, .syncWait o k c n q⟩]))

/-- SEND of a payload of 64 to 4,096 bytes in whole units of 64, to an ID that the core may name, copies it from the operand buffer into
the outbound buffer, and waits where there is no room; RECV takes the oldest message of its sender, tag and class, where its
blocks pass their check, writes it and leaves its length in g[C], and waits without one; HPOST posts a completion entry with the deadline misses, which it clears. -/
def Claims.Messages : Prop :=
  ∀ (s : State) (k : CoreId) (c : CtxId) (f : FieldsS), issues s k c → f.rsv = 0 →
    let a := (gOf s k c f.b).toNat
    let n := (gOf s k c f.c).toNat
    (f.imm.toNat < 2 → sendIdOk s k (gOf s k c f.a) = true → n % 64 = 0 → 64 ≤ n → n ≤ 4096 → a + n ≤ 0x600000 →
        bufForeign s k c a n = false →
      (outUsed s k + n > 16384 → exec (.send k f) s = .next (waits s k c (.send n))) ∧
      (outUsed s k + n ≤ 16384 → cleanRange (getCore s k).opbuf a n →
        ∃ t, exec (.send k f) s = .next t ∧ pcOf t k c = pcOf s k c + 8 ∧
          (getCore t k).outbox = (getCore s k).outbox ++ [⟨(getCore s k).nextId, c, (gOf s k c f.a).setWidth 16, f.tag, f.imm.toNat,
            memReadBytes (getCore s k).opbuf.bytes a n, none⟩])) ∧
    (f.imm.toNat < 3 → recvIdOk s k (gOf s k c f.a) f.imm.toNat = true →
      let q := vget (getCore s k).inbox c
      let mine := fun (m : InMsg) => decide (m.sender = (gOf s k c f.a).setWidth 16 ∧ m.tag = f.tag ∧ m.cls = f.imm.toNat)
      (q.find? mine = none → exec (.recv k f) s = .next (waits s k c (.recv ((gOf s k c f.a).setWidth 16) f.tag f.imm.toNat))) ∧
      (∀ m, q.find? mine = some m → (∀ b ∈ m.blks, decodeSyn (tget 0 (getCore s k).inbDiff b) = .clean) → a + m.payload.length ≤ 0x600000 → bufForeign s k c a m.payload.length = false →
        ∃ t, exec (.recv k f) s = .next t ∧ pcOf t k c = pcOf s k c + 8 ∧
          gOf t k c f.c = (if f.c = 0 then 0 else BitVec.ofNat 64 m.payload.length) ∧
          vget (getCore t k).inbox c = q.eraseP mine ∧
          ∀ i, i < m.payload.length → some (memRead (getCore t k).opbuf.bytes (a + i)) = m.payload[i]?)) ∧
    (f.a = 0 → f.c = 0 → f.tag = 0 → f.imm.toNat < 8 → ∀ p, partOfCore s k = some p → (chanRec s p f.imm.toNat).isSome = true →
        a + 64 ≤ 0x600000 → bufForeign s k c a 64 = false → cleanRange (getCore s k).opbuf a 64 →
        ((getCh s p f.imm.toNat).ring.held.filter (fun e => e.prog)).length < 16 → outRoom s k 64 = true →
      ∃ t, exec (.hpost k f) s = .next t ∧ pcOf t k c = pcOf s k c + 8 ∧ (getCtx t k c).dlMiss = 0 ∧
        (getCh t p f.imm.toNat).ring.held = (getCh s p f.imm.toNat).ring.held ++
          [⟨0, memReadBytes (getCore s k).opbuf.bytes (a + 16) 44, (getCtx s k c).dlMiss, true⟩])

/-! ### System instructions (03_cores.md, Table 3.13, R64, R78, R80) -/

/-- NOP does nothing; FENCE, with every earlier local write of the context visible, does nothing, and waits elsewhere; YIELD and HALT
give the slot up, READY and HALTED, and BRK in debug mode like HALT; FEXIT leaves handler mode for g[A], which is checked as the target of a jump is (the model's reading, log 14). -/
def Claims.PlainSystem : Prop :=
  ∀ (s : State) (k : CoreId) (c : CtxId) (f : FieldsS), issues s k c → f.rsv = 0 → f.b = 0 → f.c = 0 → f.tag = 0 → f.imm = 0 →
    let left := fun (st : CtxState) (w : Wait) => retireNext s (modCore (modCtx s k c (fun x => { x with st := st, wait := w })) k
      (fun m => { m with lastSlot := c })) k c
    exec (.nop k 0) s = .next (retireNext s s k c) ∧
    (f.a = 0 →
      exec (.fence k f) s = .next (if fenceBlocked s k c then waits s k c .fence else retireNext s s k c) ∧
      exec (.yield k f) s = .next (left .ready .yield) ∧
      exec (.halt k f) s = .next (if (getCtx s k c).task.isSome then issueFault s k c .taskState else left .halted .none) ∧
      exec (.brk k f) s = .next (if debugMode s k then left .halted .none else issueFault s k c .debugOnly)) ∧
    exec (.fexit k f) s = .next
      (if (getCtx s k c).handler then
         branchTo s (modCtx s k c (fun x => { x with handler := false })) k c (gOf s k c f.a)
       else issueFault s k c .illegal)

/-- A word of class 6 or 7, or whose OP its class does not list, is ILLEGAL (R69), as is NOP's OP with another field set. -/
def Claims.UnlistedWord : Prop :=
  ∀ (s : State) (k : CoreId) (c : CtxId) (w : BitVec 64), issues s k c → w ≠ 0 →
    (6 * 2 ^ 61 ≤ w.toNat ∨ w.toNat < 2 ^ 52 ∨ opListed w = false) → exec (.nop k w) s = .next (issueFault s k c .illegal)

/-- CTX_START makes a HALTED context READY at a valid entry; a context that is not HALTED gives CTX_STATE, a bad entry RANGE. -/
def Claims.StartContext : Prop :=
  ∀ (s : State) (k : CoreId) (c : CtxId) (f : FieldsS), issues s k c → f.rsv = 0 → f.b = 0 → f.c = 0 → f.tag = 0 → f.imm.toNat < 4 →
    let d : CtxId := Fin.ofNat 4 f.imm.toNat
    let e := (gOf s k c f.a).toNat
    ((getCtx s k d).st ≠ .halted → exec (.ctxStart k f) s = .next (issueFault s k c .ctxState)) ∧
    ((getCtx s k d).st = .halted → ¬ (e % 8 = 0 ∧ 64 ≤ e ∧ e ≤ 0x3FFF8) → exec (.ctxStart k f) s = .next (issueFault s k c .range)) ∧
    ((getCtx s k d).st = .halted → e % 8 = 0 → 64 ≤ e → e ≤ 0x3FFF8 →
      ∃ t, exec (.ctxStart k f) s = .next t ∧ pcOf t k c = pcOf s k c + 8 ∧
        getCtx t k d = { getCtx s k d with st := .ready, wait := .none, pc := BitVec.ofNat 18 e } ∧
        (∀ c', c' ≠ c → c' ≠ d → getCtx t k c' = getCtx s k c'))

/-- TASK_BEGIN opens a task on an object, and TASK_END closes it; its add of 1 is sent to the object at once where nothing of the task is outstanding,
and later elsewhere. A second TASK_BEGIN, or a TASK_END with no task, is TASK_STATE; TASK_BEGIN waits for the last task (R78). -/
def Claims.Tasks : Prop :=
  ∀ (s : State) (k : CoreId) (c : CtxId) (f : FieldsS), issues s k c → f.rsv = 0 → f.b = 0 → f.c = 0 → f.imm = 0 →
    (∀ r o, handleObj (coreMask s k) (gOf s k c f.a).toNat = some (r, o) → handleForeign s k (gOf s k c f.a) = false →
      ((getCtx s k c).task.isSome = true → exec (.taskBegin k f) s = .next (issueFault s k c .taskState)) ∧
      ((getCtx s k c).task = none → taskBlocked s k c = true → exec (.taskBegin k f) s = .next (waits s k c .task)) ∧
      ((getCtx s k c).task = none → taskBlocked s k c = false →
        ∃ t, exec (.taskBegin k f) s = .next t ∧ pcOf t k c = pcOf s k c + 8 ∧
          (getCore t k).tasks = (getCore s k).tasks ++ [⟨(getCore s k).nextId, c, r, o, f.tag, true, 0, false, [], none⟩] ∧
          (getCtx t k c).task = some (getCore s k).nextId)) ∧
    (f.a = 0 → f.tag = 0 →
      ((getCtx s k c).task = none → exec (.taskEnd k f) s = .next (issueFault s k c .taskState)) ∧
      (∀ id x, (getCtx s k c).task = some id → findTask s k id = some x →
        ∃ t, exec (.taskEnd k f) s = .next t ∧ pcOf t k c = pcOf s k c + 8 ∧ (getCtx t k c).task = none ∧
          (x.outst = 0 → x.adding = false → t.mesh = s.mesh ++ [⟨.ctx k x.ctx, .sync x.region, 1, .taskAdd x.obj id⟩] ∧
            findTask t k id = some { x with isOpen := false, adding := true }) ∧
          (x.outst ≠ 0 → t.mesh = s.mesh ∧ findTask t k id = some { x with isOpen := false })))

/-- With no holder, the issue slot goes to the first READY context after the last holder, in rotation (R64). -/
def Claims.IssueRotation : Prop :=
  ∀ (s : State) (k : CoreId), coreClocked s k = true → runningCtx s k = none → s.flt.run = none →
    let ready := fun (c : CtxId) => ctxShown s k c = .ready
    let l := (getCore s k).lastSlot
    (∀ n : Nat, 1 ≤ n → n ≤ 4 → ready (Fin.ofNat 4 (l.val + n)) → (∀ m, 1 ≤ m → m < n → ¬ ready (Fin.ofNat 4 (l.val + m))) →
      ∃ t, exec (.contextSwitch k) s = .next t ∧ runningCtx t k = some (Fin.ofNat 4 (l.val + n)) ∧
        (∀ c, c ≠ Fin.ofNat 4 (l.val + n) → getCtx t k c = getCtx s k c)) ∧
    ((∀ c, ¬ ready c) → exec (.contextSwitch k) s = .next s)

/-! ### Faults of a context (03_cores.md, R79, R80) -/

/-- A fault that can be delivered, of a context outside any task, writes one record with its own class, sets g29, g30 and g31 to the
class, the record's index and the offset of the instruction, and the context goes on in handler mode at FAULT_ENTRY. -/
def Claims.FaultDelivered : Prop :=
  ∀ (s : State) (k : CoreId) (c : CtxId) (cls : FCls), issues s k c → (getCtx s k c).task = none → cls ≠ .imageHeader →
    faultEntry s k c ≠ 0 → (getCtx s k c).handler = false →
      let t := issueFault s k c cls
      gOf t k c 29 = BitVec.ofNat 64 (fclsCode cls) ∧ gOf t k c 30 = (nextRecIndex s).setWidth 64 ∧
      gOf t k c 31 = (pcOf s k c).setWidth 64 ∧ (∀ i : BitVec 5, i.toNat < 29 → gOf t k c i = gOf s k c i) ∧
      (getCtx t k c).handler = true ∧ pcOf t k c = BitVec.ofNat 18 (faultEntry s k c) ∧ (getCtx t k c).st = .running ∧
      (getCtx t k c).ret = (getCtx s k c).ret ∧ (∀ c', c' ≠ c → getCtx t k c' = getCtx s k c') ∧
      ∃ r, t.flt.waiting = s.flt.waiting ++ [r] ∧ r.index = nextRecIndex s ∧ r.cls = BitVec.ofNat 8 (fclsCode cls) ∧
        r.core = BitVec.ofNat 8 k.val ∧ r.iaddr = (pcOf s k c).setWidth 32

/-- A fault that cannot be delivered leaves the context FAULTED, as an event of its core, and its record is that of CONTEXT_FAULTED with
the class in DETAIL (the model's reading, log 50). -/
def Claims.FaultRaised : Prop :=
  ∀ (s : State) (k : CoreId) (c : CtxId) (cls : FCls), issues s k c → (getCtx s k c).task = none →
    (faultEntry s k c = 0 ∨ (getCtx s k c).handler = true ∨ cls = .imageHeader) →
      let t := issueFault s k c cls
      (getCtx t k c).st = .faulted ∧ runningCtx t k ≠ some c ∧ (getCore t k).evFaulted.getLsbD c.val = true ∧
      (getCore t k).lastSlot = c ∧ (∀ i, gOf t k c i = gOf s k c i) ∧ pcOf t k c = pcOf s k c ∧
      (∀ c', c' ≠ c → getCtx t k c' = getCtx s k c') ∧
      ∃ r, t.flt.waiting = s.flt.waiting ++ [r] ∧ r.cls = 0x20 ∧ r.detail = BitVec.ofNat 16 (fclsCode cls) ∧
        r.handled = 2 ∧ r.core = BitVec.ofNat 8 k.val

/-- A fault aborts the open task of its context: its queued operations go, an earlier ACCZ that leaves a tile pending keeping the anchor
that one of them gave it (R109), its running transfers stop with code ABORTED, the cause of a task's fault and the fault's record,
STOPPING while requests of theirs are in flight and ENDED without one, and its sync object is told (R78, R148). -/
def Claims.FaultAbortsTask : Prop :=
  ∀ (s : State) (k : CoreId) (c : CtxId) (cls : FCls) (x : Task), issues s k c → (getCtx s k c).task = some x.id →
    findTask s k x.id = some x → x.ctx = c → x.isOpen = true → (∀ y ∈ (getCore s k).xfers, findXfer s k y.id = some y) →
      let t := issueFault s k c cls
      (∀ o ∈ (getCtx t k c).queue, o.task ≠ some x.id ∧ ∃ p ∈ (getCtx s k c).queue, { o with kind := p.kind } = p ∧
        (o.kind = p.kind ∨ ∃ a v, p.kind = .accz a (-512) ∧ o.kind = .accz a v)) ∧
      (∀ y ∈ (getCore t k).xfers, y.task = some x.id → y.state ≠ .run ∧ y.state ≠ .hold) ∧
      (∀ y ∈ (getCore s k).xfers, y.task = some x.id → (y.state = .run ∨ y.state = .hold) →
        ∃ z, findXfer t k y.id = some z ∧ z.code = 2 ∧ z.cause = 8 ∧ z.record = nextRecIndex s ∧ z.desc = y.desc ∧
          z.state = (if (getCore s k).reqs.any (fun r => r.xfer = y.id) then .stopping else .ended)) ∧
      (⟨.ctx k c, .sync x.region, 1, .syncAbort x.obj (nextRecIndex s)⟩ : Frame) ∈ t.mesh

/-! ### What an instruction of one core may reach (01_structure.md, R21; 03_cores.md, R58) -/

/-- No instruction of a core changes anything but what belongs to that core: other cores and their near slices, other partitions'
meters and status, every register of the device outside the core, the memory of the stacks, the configuration and the queue of
commands are as they were; in the mesh it only adds frames of its own contexts, and in the fault log's wait only records. -/
def Obligations.InstructionsStayLocal : Prop :=
  ∀ (i : Instr) (k : CoreId) (s t : State), programCore i = some k → exec i s = .next t → onlyCore k s t

/-- Where the context cannot issue, its instruction does nothing (the model's choice, log 7); at an offset in the image header it takes a
RANGE fault (R59). -/
def Claims.NoIssue : Prop :=
  ∀ (i : Instr) (k : CoreId) (s : State), programCore i = some k → (∀ w, i = .nop k w → w = 0) →
    ((runningCtx s k = none ∨ coreClocked s k = false) → exec i s = .next s) ∧
    (∀ c, runningCtx s k = some c → coreClocked s k = true →
      (resetCovers s k c.val = true → exec i s = .next s) ∧
      (resetCovers s k c.val = false → (pcOf s k c).toNat < 64 → exec i s = .next (issueFault s k c .range)))

/-- What no instruction of a program can change: the fuses, the configuration and its registers, Taproot, power, clocks, temperatures,
the partitions, the routes, the host function, links, trees, die links, guests, the hub, and the count of ticks. -/
def deviceView (s : State) :=
  (s.parts, s.kvp, s.hst, s.irqs, s.resps, s.hostWrites, s.red, s.ports, s.trees, s.links, s.routes, s.meshTiles, s.fuses, s.cfg,
   s.sec, s.pwr, s.clk, s.thm, s.pairs, s.dl, s.guests, s.hub, s.tick, s.freeCtr)

/-- Programs leave the device alone: in a state where every waiting command is an instruction of some core's program, every step leaves
the device's own state as `v`, the owner of every region as `w`, and such a state again. -/
def programInv (v : State → Prop) (w : RegionId → Option PartId) (s : State) : Prop :=
  v s ∧ (∀ r, (getRegion s r).owner = w r) ∧ ∀ i ∈ s.pending, (programCore i).isSome = true

/-- Every step of a queue of program instructions keeps it, whatever the instructions do. -/
def Obligations.ProgramsLeaveDevice : Prop :=
  ∀ (s0 s t : State) (w : RegionId → Option PartId),
    programInv (fun x => deviceView x = deviceView s0) w s → step s = .next t →
      programInv (fun x => deviceView x = deviceView s0) w t

/-- It holds of the state right after reset. -/
def Obligations.ProgramsLeaveDeviceAtReset : Prop :=
  programInv (fun x => deviceView x = deviceView State.reset) (fun _ => none) State.reset

/-! ### Sync units (10_mesh_sync_reduction.md, R250 to R253) -/

/-- What an add leaves of an object: the target reached makes an armed one DONE, and its notify slot fires. -/
def syncAfterAdd (x : SyncObj) (n : W32) : SyncObj × Bool :=
  let y := { x with count := x.count + n }
  if x.state = .armed ∧ x.target.toNat ≤ (x.count + n).toNat then ({ y with state := .done }, true) else (y, false)

/-- What an operation leaves an object as: the new object, and whether its notify slot fires (Table 10.5). -/
def syncTable (x : SyncObj) : FBody → Option (SyncObj × Bool)
  | .syncAdd _ n => some (syncAfterAdd x n)
  | .taskAdd _ _ => some (syncAfterAdd x 1)
  | .syncArm _ t n => some (⟨0, t, if t = 0 then .done else .armed, 0, n⟩, decide (t = 0))
  | .syncAbort _ r =>
    some (if x.state = .aborted ∨ x.state = .cancelled then (x, false) else ({ x with state := .aborted, record := r }, true))
  | .syncCancel _ =>
    some (if x.state = .aborted ∨ x.state = .cancelled then (x, false) else ({ x with state := .cancelled }, true))
  | _ => none

/-- The object that an operation is for. -/
def syncObjOf : FBody → Nat
  | .syncAdd o _ | .taskAdd o _ | .syncArm o _ _ | .syncAbort o _ | .syncCancel o => o
  | _ => 0

/-- The command by which a sync unit takes an operation. -/
def syncCommand (j : Nat) : FBody → Instr
  | .syncArm .. => .syncOpArm j
  | .syncAbort .. => .syncOpAbort j
  | .syncCancel .. => .syncOpCancel j
  | _ => .syncOpAdd j

/-- ADD, ARM, ABORT and CANCEL at a sync unit do to their object what Table 10.5 says and to no other object, and count as one
operation; a notify slot that fires is disarmed, and sends its notice to the context that armed it. The add of a task completes
the task (R78). -/
def Claims.SyncUnit : Prop :=
  ∀ (s : State) (j : Nat) (src : End) (r : RegionId) (cls : Nat) (b : FBody) (y : SyncObj) (fires : Bool),
    arrives s j = some ⟨src, .sync r, cls, b⟩ → absorbed s (.sync r) = false → dieDown s (tileOfRegion r.val) = false →
    syncTable (getObj s r (syncObjOf b)) b = some (y, fires) →
      ∃ t, exec (syncCommand j b) s = .next t ∧
        getObj t r (syncObjOf b) = (if fires then { y with notify := none } else y) ∧
        (∀ o, o ≠ syncObjOf b → getObj t r o = getObj s r o) ∧ (∀ q, q ≠ r → getRegion t q = getRegion s q) ∧
        (getRegion t r).syncOps = (getRegion s r).syncOps + 1 ∧
        (∀ n, fires = true → y.notify = some n →
          ∃ f ∈ t.mesh, f.src = .sync r ∧ f.dst = .ctx n.core n.ctx ∧ ∃ h, f.body = .notice h
            (match y.state with | .aborted => 1 | .cancelled => 2 | _ => 0) y.record n.dst n.tag) ∧
        (∀ o id k c, b = .taskAdd o id → src = .ctx k c → findTask t k id = none)

/-- A wait that is satisfied at its registration is answered at once with its outcome; another is kept, and is answered by the
operation that satisfies it (R252). -/
def Claims.SyncWaits : Prop :=
  ∀ (s : State) (j : Nat) (src : End) (r : RegionId) (cls : Nat) (b : FBody), arrives s j = some ⟨src, .sync r, cls, b⟩ →
    absorbed s (.sync r) = false → dieDown s (tileOfRegion r.val) = false →
    (∀ o k c n q, b = .syncWait o k c n q →
      ∃ t, exec (.syncOpWait j) s = .next t ∧ getObj t r o = getObj s r o ∧
        match syncOutcome (getObj s r o) n with
        | some v => (⟨.sync r, .ctx k c, 1, .syncReply v q⟩ : Frame) ∈ t.mesh ∧ ⟨k, c, o, n, q⟩ ∉ (getRegion t r).waits
        | none => ⟨k, c, o, n, q⟩ ∈ (getRegion t r).waits) ∧
    (∀ o n w, b = .syncAdd o n → w ∈ (getRegion s r).waits → w.obj = o → (getObj s r o).state = .armed →
      w.threshold.toNat ≤ ((getObj s r o).count + n).toNat →
      ∃ t, exec (.syncOpAdd j) s = .next t ∧ (⟨.sync r, .ctx w.core w.ctx, 1, .syncReply 0 w.seq⟩ : Frame) ∈ t.mesh ∧
        w ∉ (getRegion t r).waits)

/-- A SYNC_REPLY that answers the wait of a blocked context gives it its outcome, so that it is READY; one that answers a wait which the
context has left does not (R252). A notice becomes a message to the context that the slot names (R253). -/
def Claims.SyncReplies : Prop :=
  ∀ (s : State) (j : Nat) (src : End) (k : CoreId) (c : CtxId) (cls : Nat) (b : FBody), arrives s j = some ⟨src, .ctx k c, cls, b⟩ →
    absorbed s (.ctx k c) = false →
    (∀ v q, b = .syncReply v q → (getCtx s k c).st = .blocked → (getCtx s k c).wait = .sync →
      ∃ t, exec (.syncReply j) s = .next t ∧
        (getCtx t k c).syncOut = (if (getCtx s k c).syncSeq = q then some v else (getCtx s k c).syncOut) ∧
        ((getCtx s k c).syncSeq = q → ctxShown t k c = .ready)) ∧
    (∀ h o r dst tag, b = .notice h o r dst tag → o < 256 → (getRegion s (regionOf k)).power = .awake →
      ∃ t m, exec (.syncReply j) s = .next t ∧ (getCore t k).outbox = (getCore s k).outbox ++ [m] ∧ m.dst = dst ∧ m.tag = tag ∧
        m.cls = 1 ∧ m.payload.length = 64 ∧ m.payload.take 4 = leBytes 4 h.toNat ∧ m.payload[4]? = some (BitVec.ofNat 8 o) ∧
        (m.payload.drop 8).take 4 = leBytes 4 r.toNat)

/-! ### Messages between contexts (10_mesh_sync_reduction.md, R244 to R248) -/

/-- A message that its context's quarter has room for, in an Awake region and with nothing refused, enters the inbox behind the others,
in blocks written with their check bits, and an ACK returns; one without room leaves the inbox, marks its pair and returns a REFUSE. -/
def Claims.MessageArrives : Prop :=
  ∀ (s : State) (j : Nat) (src : End) (k : CoreId) (c : CtxId) (cls id : Nat) (sender dst tag : BitVec 16) (e : Bool) (d : List Byte),
    arrives s j = some ⟨src, .ctx k c, cls, .msg id sender dst tag e d⟩ → absorbed s (.ctx k c) = false →
    dieDown s (tileOfCore k) = false → (getRegion s (regionOf k)).power = .awake → findMark (getCore s k) c sender (inboxClass cls) = none →
      ∃ t, exec (.msgArrive j) s = .next t ∧
        (d.length ≤ quarterFree s k c (inboxClass cls) →
          (∃ bs, vget (getCore t k).inbox c = vget (getCore s k).inbox c ++ [⟨sender, tag, inboxClass cls, d, bs⟩] ∧
            ∀ b ∈ bs, tget 0 (getCore t k).inbDiff b = 0) ∧
          t.mesh = dropAt s.mesh j ++ [⟨.ctx k c, src, 0, .ack id⟩]) ∧
        (quarterFree s k c (inboxClass cls) < d.length →
          (getCore t k).inbox = (getCore s k).inbox ∧ t.mesh = dropAt s.mesh j ++ [⟨.ctx k c, src, 0, .refuse id (inboxClass cls) e⟩] ∧
          ∃ m, findMark (getCore t k) c sender (inboxClass cls) = some m ∧ m.refusing = true ∧ m.epoch = e)

/-- At the sender: ACK and ERROR free the message's space, and change nothing else but the counts of flits on their way (R260) and
the die-link flits that carry the frame (R406); REFUSE stops its pair; RESUME lets the pair go on under the other epoch, and
its messages not yet acknowledged leave again, in order. -/
def Claims.SenderSide : Prop :=
  ∀ (s : State) (j : Nat) (src : End) (k : CoreId) (c : CtxId) (cls : Nat),
    (∀ id, arrives s j = some ⟨src, .ctx k c, cls, .ack id⟩ →
      ∃ t, exec (.ack j) s = .next t ∧ { t with meshTiles := s.meshTiles, pairs := s.pairs } =
        { modCore s k (fun x => { x with outbox := x.outbox.filter (fun m => m.id != id) }) with mesh := dropAt s.mesh j }) ∧
    (∀ id, arrives s j = some ⟨src, .ctx k c, cls, .error id⟩ →
      ∃ t, exec (.error j) s = .next t ∧ { t with meshTiles := s.meshTiles, pairs := s.pairs } =
        { modCore s k (fun x => { x with outbox := x.outbox.filter (fun m => m.id != id) }) with mesh := dropAt s.mesh j }) ∧
    (∀ id q e m, arrives s j = some ⟨src, .ctx k c, cls, .refuse id q e⟩ → (getCore s k).outbox.find? (fun m => m.id = id) = some m →
      ∃ t, exec (.refuse j) s = .next t ∧ t.mesh = dropAt s.mesh j ∧ pairStopped (getCore t k) c m.dst q = true ∧
        pairEpoch (getCore t k) c m.dst q = pairEpoch (getCore s k) c m.dst q ∧ (getCore t k).outbox = (getCore s k).outbox) ∧
    (∀ q p dst d, arrives s j = some ⟨src, .ctx k c, cls, .resume q⟩ → partOfCore s k = some p → idOfEnd s p src = some dst →
      endOfId s p dst = some d →
      ∃ t, exec (.resume j) s = .next t ∧ pairStopped (getCore t k) c dst q = false ∧
        pairEpoch (getCore t k) c dst q = (!pairEpoch (getCore s k) c dst q) ∧
        t.mesh = dropAt s.mesh j ++ ((getCore s k).outbox.filter (fun m => m.ctx = c && m.dst = dst && m.cls = q)).map
          (fun m => ⟨.ctx k c, d, meshClass q, .msg m.id (ctxMsgId s k c) dst m.tag (!pairEpoch (getCore s k) c dst q) m.payload⟩))

/-- RESUME_SEND takes the refusing pair of the lowest sender whose class has 4 KiB free, sends its RESUME and inverts its epoch; with none
it does nothing. A misroute discards its frame, counts it, raises a record with the frame's regions, and answers a sender that awaits
a reply with ERROR: of a message, a Sprout command, a thin command, or a request of a core to memory, whose units leave the stacks
(R244). -/
def Claims.ResumeAndMisroute : Prop :=
  ∀ (s : State) (k : CoreId) (c : CtxId),
    (nextResume s k c = none → exec (.resumeSend k c) s = .next s) ∧
    (∀ m p d, (getRegion s (regionOf k)).power = .awake → nextResume s k c = some m → partOfCore s k = some p →
      endOfId s p m.sender = some d → m.ctx = c →
      ∃ t x, exec (.resumeSend k c) s = .next t ∧ t.mesh = s.mesh ++ [⟨.ctx k c, d, 0, .resume m.cls⟩] ∧
        findMark (getCore t k) c m.sender m.cls = some x ∧ x.refusing = false ∧ x.epoch = !m.epoch) ∧
    (let told := fun (t : State) (n : Fin 4) (src dst : End) =>
       (vget t.meshTiles n).misroutes = (vget s.meshTiles n).misroutes + 1 ∧ (vget t.meshTiles n).evMis = true ∧
       ∃ r, t.flt.waiting = s.flt.waiting ++ [r] ∧ r.cls = 0x3A ∧ r.die = BitVec.ofNat 8 n.val ∧
         r.detail = BitVec.ofNat 16 ((legsOf s src dst).dstRegion * 256 + (legsOf s src dst).srcRegion)
     (∀ j (n : Fin 4) src dst cls b answer, arrives s j = some ⟨src, dst, cls, b⟩ →
       ((∃ id sender dest tag e d, b = .msg id sender dest tag e d ∧ answer = FBody.error id) ∨
        (∃ blk id pc task, b = .command blk id pc task ∧ answer = .cmdError id pc task) ∨
        (∃ id x y z, b = .thinCmd id x y z ∧ answer = .error id)) →
       ∃ t, exec (.meshMisroute (.frame j) n) s = .next t ∧ t.mesh = dropAt s.mesh j ++ [⟨dst, src, 0, answer⟩] ∧ told t n src dst) ∧
     (∀ id (n : Fin 4) x, requestCtx s k id = some x →
       ∃ t, exec (.meshMisroute (.request k id) n) s = .next t ∧
         t.mesh = s.mesh ++ [⟨requestEnd s k id, .ctx k x, 0, .error id⟩] ∧ told t n (.ctx k x) (requestEnd s k id) ∧
         ∀ d : Fin 8, (vget t.stks d).units = (vget s.stks d).units.filter (fun u => !unitOf k id u)))

/-! ### Reductions on the chip (10_mesh_sync_reduction.md, R255 to R259) -/

/-- A combination at a node replaces the left chunk and the right one that it holds by one whose bytes are the combined values; chunks of
the cores of a region give the pair above them at the same node. -/
def Claims.NodeCombines : Prop :=
  ∀ (s : State) (r : RegionId) (i : Nat) (a w : RedChunk) (p : PartId), partOfRegion s r = some p → partResetting s p = false →
    (getRed s r).held[i]? = some a → a.idx % 2 = 0 → a.stage = 0 →
    (getRed s r).held.find? (fun x => x.tree = a.tree && x.op = a.op && x.stage = a.stage && x.idx = a.idx) = some a →
    (getRed s r).held.find? (fun x => x.tree = a.tree && x.op = a.op && x.stage = a.stage && x.idx = a.idx + 1) = some w →
    w.chunk = a.chunk →
      let z := combChunk (colDesc a.block (4 * regionCount (maskOf s p))) (4096 * a.chunk) a.data w.data
      ∃ t c, exec (.redCombine r i) s = .next t ∧ (getRed t r).held = ((getRed s r).held.erase a).erase w ++ [c] ∧
        c.tree = a.tree ∧ c.op = a.op ∧ c.chunk = a.chunk ∧ c.stage = 1 ∧ c.idx = a.idx / 2 ∧ c.data.length = z.1.length ∧
        (z.2 = false → (getRed s r).ovf.contains (a.tree, a.op, 1, a.idx / 2) = false → c.data = z.1) ∧
        (getRed t r).ops = (getRed s r).ops + 1 ∧ t.mesh = s.mesh

/-- A chunk of the result that reaches a core is written where its command wants it, and the core's command has that much less to come;
the last chunk ends the command, and its sync object receives 1 (R256); no other chunk sends anything. -/
def Claims.ResultArrives : Prop :=
  ∀ (s : State) (j : Nat) (src : End) (k : CoreId) (x : CtxId) (cls : Nat) (c : RedChunk) (m : ColCmd) (p : PartId) (tr : TreeRec),
    arrives s j = some ⟨src, .ctx k x, cls, .red c⟩ → absorbed s (.ctx k x) = false → c.fail = false →
    (getCore s k).cols.find? (fun m => m.tree = c.tree && m.op = c.op) = some m → partOfCore s k = some p →
    treeRec s p c.tree = some tr →
      let o := (resultPlace m.block tr.group (4 * regionCount (maskOf s p)) c).1
      let n := (resultPlace m.block tr.group (4 * regionCount (maskOf s p)) c).2
      ∃ t, exec (.redChunkArrive j) s = .next t ∧
        (∀ i, i < n → i < c.data.length →
          some (memRead (getSpace t k (colDstSpace m.block)).bytes (colDst m.block + o + i)) = c.data[i]?) ∧
        (m.left ≤ n → (getCore t k).cols.find? (fun m => m.tree = c.tree && m.op = c.op) = none ∧
          ∀ r o, handleObj (maskOf s p) (colSync m.block).toNat = some (r, o) →
            (⟨.ctx k m.ctx, .sync r, 1, .syncAdd o 1⟩ : Frame) ∈ t.mesh.drop (dropAt s.mesh j).length) ∧
        (n < m.left → t.mesh = dropAt s.mesh j ∧ ((getCore t k).cols.find? (fun m => m.tree = c.tree && m.op = c.op)).map (fun y => y.left) = some (m.left - n))

/-! ### The parity code, the near slices and the SRAMs of a core (07_near_slices.md, R158 to R173; 16_faults.md, R375) -/

/-- The code of R158 to R160: a read corrects any one disturbed bit of the 584 stored bits of a block, and leaves the memory as it was
before; it never takes two disturbed data bits for one; and it does take a data bit together with the row or the column parity of
that bit for one wrong check bit, so that the data stay wrong. -/
def Obligations.CodeCorrectsOneBit : Prop :=
  ∀ (m : PMem) (blk : Nat), blkDiff m blk = 0 →
    (∀ b, b < 584 →
      (pmTouch (pmUpset m blk b) blk).2 = (if b < 512 then .dataFixed else .checkFixed) ∧
      (∀ a, memRead (pmTouch (pmUpset m blk b) blk).1.bytes a = memRead m.bytes a) ∧
      (∀ x, blkDiff (pmTouch (pmUpset m blk b) blk).1 x = blkDiff m x)) ∧
    (∀ b c, b < 512 → c < 512 → b ≠ c →
      (pmTouch (pmUpset (pmUpset m blk b) blk c) blk).2 = .uncorrectable ∧
      blkDiff (pmTouch (pmUpset (pmUpset m blk b) blk c) blk).1 blk = poisonDiff) ∧
    (∀ b c, b < 512 → (c = 512 + b / 64 ∨ c = 520 + b % 64) →
      (pmTouch (pmUpset (pmUpset m blk b) blk c) blk).2 = .checkFixed ∧
      memRead (pmTouch (pmUpset (pmUpset m blk b) blk c) blk).1.bytes (blk * 64 + b / 8) ≠ memRead m.bytes (blk * 64 + b / 8))

/-- A store of whole blocks clears their poison, a store of a part of a block keeps it, and no store changes a byte that it does not
name (R161, R163). -/
def Claims.StoresAndPoison : Prop :=
  ∀ (m : PMem) (a : Nat) (bs : List Byte),
    (∀ i, i < bs.length → some (memRead (pmStore m a bs).bytes (a + i)) = bs[i]?) ∧
    (∀ x, (x < a ∨ a + bs.length ≤ x) → memRead (pmStore m a bs).bytes x = memRead m.bytes x) ∧
    (∀ blk, blkDiff (pmStore m a bs) blk = if a ≤ blk * 64 ∧ blk * 64 + 64 ≤ a + bs.length then 0 else blkDiff m blk)

/-- The scrubber and the refresh of a slice. A scrub of a block with one disturbed bit leaves every byte of the slice as it was, makes one
correctable event of it, and moves on to the next block; where the slice is in self-refresh it does nothing (R164). A refresh only
counts its row, of the 8,257 of its bank (R170; the count is the model's own). -/
def Claims.SliceScrubAndRefresh : Prop :=
  ∀ (s : State) (k : CoreId),
    (∀ u, u < 584 → ((getRegion s (regionOf k)).power = .awake ∨ (getRegion s (regionOf k)).power = .dozing) →
      blkDiff (getNear s k).mem (getNear s k).scrub = 0 → (getRegion s (regionOf k)).cetWait.length < 8 →
      ∃ t e, exec (.scrubRead k [u]) s = .next t ∧ (getNear t k).scrub = ((getNear s k).scrub + 1) % 2 ^ 24 ∧
        (∀ a, memRead (getNear t k).mem.bytes a = memRead (getNear s k).mem.bytes a) ∧
        (∀ x, blkDiff (getNear t k).mem x = blkDiff (getNear s k).mem x) ∧
        (getRegion t (regionOf k)).cetWait = (getRegion s (regionOf k)).cetWait ++ [e] ∧
        e.kind = 0 ∧ e.loc = localOf k ∧ e.addr = (getNear s k).scrub ∧
        (getCore t k).nsl.corr = (getCore s k).nsl.corr + 1 ∧ (getCore t k).nsl.evCorr = true) ∧
    (∀ ups, (getRegion s (regionOf k)).power ≠ .awake → (getRegion s (regionOf k)).power ≠ .dozing → exec (.scrubRead k ups) s = .next s) ∧
    (∀ b : Fin 64, exec (.nslRefresh k b) s = .next (modNear s k (fun n =>
      { n with refresh := tset n.refresh b.val ((tget 0 n.refresh b.val + 1) % 8257) })))

/-- What one event does to a table of correctable errors (R165, R166), where its location has an entry: the third event within
the age of 2^20 ticks makes the entry LASTING, and a later one than that starts its count again. -/
def Claims.CorrectableTable : Prop :=
  ∀ (t : Vector CetEntry 16) (e : CetEv) (i : Fin 16), (vget t i).valid = true → (vget t i).kind = e.kind → (vget t i).loc = e.loc →
    (vget t i).addr = e.addr → (∀ j : Fin 16, j ≠ i → ¬((vget t j).valid = true ∧ (vget t j).kind = e.kind ∧ (vget t j).loc = e.loc ∧ (vget t j).addr = e.addr)) →
    (vget t i).lasting = false →
      ∃ u l, cetUpdate t e = some (u, l) ∧ (∀ j : Fin 16, j ≠ i → vget u j = vget t j) ∧
        (vget u i).sr = e.sr ∧ (vget u i).scW = e.scW ∧ (vget u i).scF = e.scF ∧
        if (vget t i).age < 2 ^ 20 then
          (vget u i).count = min 255 ((vget t i).count + 1) ∧ (vget u i).lasting = decide (2 ≤ (vget t i).count) ∧
            l = (if (vget t i).count = 2 then some i.val else none)
        else (vget u i).count = 1 ∧ (vget u i).age = 0 ∧ (vget u i).lasting = false ∧ l = none

/-- CET_EVENT takes the oldest event of its region's wait into the region's table; an event that has no place is counted as lost. -/
def Claims.CetEvents : Prop :=
  ∀ (s : State) (r : RegionId) (e : CetEv) (es : List CetEv), (getRegion s r).cetWait = e :: es →
    (cetUpdate (getRegion s r).cet e = none →
      exec (.cetEvent r []) s = .next (modRegion s r (fun g => { g with cetWait := es, cetLost := g.cetLost + 1 }))) ∧
    (∀ t, cetUpdate (getRegion s r).cet e = some (t, none) →
      exec (.cetEvent r []) s = .next (modRegion s r (fun g => { g with cetWait := es, cet := t }))) ∧
    (∀ t i sp, cetUpdate (getRegion s r).cet e = some (t, some i) → i < 16 → e.kind = 0 → e.loc < 4 →
      freeSpare (getNear s (coreOf r.val e.loc)) (bankOfBlock e.addr) = some sp →
      ∃ u, exec (.cetEvent r []) s = .next u ∧ (vget (getRegion u r).cet (Fin.ofNat 16 i)).spare = sp ∧
        (getNear u (coreOf r.val e.loc)).used = (bankOfBlock e.addr * 64 + sp) :: (getNear s (coreOf r.val e.loc)).used ∧
        (vget (getRegion u r).cet (Fin.ofNat 16 i)).action =
          (if (getNear s (coreOf r.val e.loc)).copies.any (fun x => x.bank = bankOfBlock e.addr) then 1 else 2)) ∧
    (∀ t i, cetUpdate (getRegion s r).cet e = some (t, some i) → i < 16 → e.kind = 0 → e.loc < 4 →
      freeSpare (getNear s (coreOf r.val e.loc)) (bankOfBlock e.addr) = none →
      ∃ u x, exec (.cetEvent r []) s = .next u ∧ (vget (getRegion u r).cet (Fin.ofNat 16 i)).action = 4 ∧
        (getCore u (coreOf r.val e.loc)).nsl.evNoSpare = true ∧ u.flt.waiting = s.flt.waiting ++ [x] ∧ x.cls = 0x22 ∧ x.detail = 0)

/-- The end of a row repair redirects the row to its spare row, and the end of an SRAM row's retirement lists the row as
retired; Tops gets the repair to save (R167, R169, R375). -/
def Claims.RowRepairs : Prop :=
  ∀ (s : State) (k : CoreId) (i : Nat),
    (∀ c, (getNear s k).copies[i]? = some c → c.started = true →
      ∃ t, exec (.nslRowRepairDone k i) s = .next t ∧ tget 0 (getNear t k).moved (c.bank * 8192 + c.row) = c.spare ∧
        (getCore t k).nsl.evRepaired = true ∧ (getCore t k).nsl.repairs = (getCore s k).nsl.repairs + 1 ∧
        (getNear t k).copies.length + 1 = (getNear s k).copies.length ∧
        t.sec.out = s.sec.out ++ [.repair (.nearRow (regionOf k).val (physOfCore s k) (c.bank / 16) (c.bank % 16) c.row)]) ∧
    (∀ c, (getNear s k).copies[i]? = some c → c.started = false → exec (.nslRowRepairDone k i) s = .next s) ∧
    (∀ c, (getCore s k).copies[i]? = some c →
      exec (.sramRowRetireDone k i) s = .next (toTops
        (modCore s k (fun m => { m with copies := m.copies.eraseIdx i, retired := m.retired ++ [c] }))
        (.repair (.sramRow (regionOf k).val (physOfCore s k) c.kind c.row))))

/-- The checker test mode (R173), in an unowned region whose slices are not in self-refresh: WRITE_RAW stores the data and check registers as they are;
READ_RAW gives the stored data, check bits and the decode; READ_CHECKED gives the corrected data where there are any. In an owned region each command is refused. -/
def Claims.TestMode : Prop :=
  ∀ (s : State) (k : CoreId) (l : Fin 4) (b : Fin 16) (x : Fin 32), (getCore s k).nsl.done = true →
    (partOfCore s k ≠ none → ∀ c, c ∈ [Instr.nslWriteRaw k l b x, .nslReadRaw k l b x, .nslReadChecked k l b x] →
      ∃ t, exec c s = .next t ∧ (getCore t k).nsl.outcome = 7 ∧ (getCore t k).nsl.done = true ∧ t.near = s.near) ∧
    (partOfCore s k = none → (getRegion s (regionOf k)).power = .awake ∨ (getRegion s (regionOf k)).power = .dozing →
      let blk := 2 ^ 24 + (l.val * 16 + b.val) * 32 + x.val
      let m := (getNear s k).mem
      (∃ t, exec (.nslWriteRaw k l b x) s = .next t ∧ (getCore t k).nsl.done = true ∧
        memReadBytes (getNear t k).mem.bytes (blk * 64) 64 = regsData (getCore s k).nsl ∧
        storedChecks (getNear t k).mem blk = regsCheck (getCore s k).nsl) ∧
      (∃ t, exec (.nslReadRaw k l b x) s = .next t ∧ (getCore t k).nsl.done = true ∧ t.near = s.near ∧
        (getCore t k).nsl.outcome = decodeCode (decodeSyn (blkDiff m blk)) ∧
        (getCore t k).nsl.tdata = dataWords (memReadBytes m.bytes (blk * 64) 64) ∧
        (getCore t k).nsl.tchk = checkWords (storedChecks m blk)) ∧
      (∃ t, exec (.nslReadChecked k l b x) s = .next t ∧ (getCore t k).nsl.done = true ∧ t.near = s.near ∧
        (getCore t k).nsl.outcome = decodeCode (decodeSyn (blkDiff m blk)) ∧
        (decodeSyn (blkDiff m blk) ≠ .poison → decodeSyn (blkDiff m blk) ≠ .uncorrectable →
          (getCore t k).nsl.tdata = dataWords (memReadBytes (pmTouch m blk).1.bytes (blk * 64) 64))))

/-! ### The stacks (08_stack_memory_sprouts.md, R176 to R189) -/

/-- The units that wait at a stack controller, those of the page copies that go on there among them. -/
def unitsWaiting (s : State) (n : Fin 8) : List StackUnit := (getStack (copiesArrive s n.val) n.val).units

/-- The unit that a stack controller grants next (R18, R180). -/
def grantNext (s : State) (n : Fin 8) : Option (StackUnit × (Nat × Nat)) :=
  let t := getStack s n.val
  if dieDown s (dieStack n.val) || t.selfRef then none
  else (wrrPick 34 (fun r => (r != 32 || t.tg.run.isNone) && (unitsWaiting s n).any (fun u => unitReq u = r))
    (fun r => if 32 ≤ r then 4 else wStack s r) t.rr).bind
      (fun rr => ((unitsWaiting s n).find? (fun u => unitReq u = rr.1)).map (fun u => (u, rr)))

/-- A grant serves one unit of a stream. A write that R231 allows stores its bytes and, where the blocks it touches are undisturbed, changes no
other; one that R231 refuses stores nothing and gives its request the cause 2; a read of undisturbed blocks that are not buffered brings
the bytes that the stack holds. Of the output blocks that a Sprout command in progress has in the range, some may have been written before
the access, each whole (R201; which of them, the model leaves free, log 70). A unit of a page copy is read or written in the same way (R229). A unit
that no die link carries any more, from a core of a SEVERED tile or at a stack of one, ends with cause 7 (R389; the model's reading, log
86). A stack in self-refresh grants nothing. -/
def Claims.StackGrants : Prop :=
  ∀ (s : State) (n : Fin 8),
    ((getStack s n.val).selfRef = true → dieDown s (dieStack n.val) = false → exec (.stackUnitGrant n) s = .next s) ∧
    (∀ (u : StackUnit) (rr : Nat × Nat) (k : CoreId) (id o : Nat), grantNext s n = some (u, rr) → u.src = .stream k id o → unitCut s n.val u = false →
      let off := u.addr % 2 ^ 36
      let old := (getStack s n.val).mem
      ∃ t, exec (.stackUnitGrant n) s = .next t ∧ (getStack t n.val).units = (unitsWaiting s n).eraseP (fun v => unitReq v = rr.1) ∧
        (getStack t n.val).rr = rr ∧
        (∀ bs, u.write = some bs → writeAllowed s u.addr = true →
          (∀ i, i < bs.length → some (memRead (getStack t n.val).mem.bytes (off + i)) = bs[i]?) ∧
          ((∀ b, blkDiff old b = 0) → ∃ l, l.Sublist (sprAt (getStack s n.val) off bs.length) ∧
            ∀ x, (x < off ∨ off + bs.length ≤ x) → memRead (getStack t n.val).mem.bytes x = memRead (storeBlocks old l).bytes x) ∧
          (getCore t k).reqs = (getCore s k).reqs.map (fun r => if r.id = id then { r with waits := r.waits - 1 } else r)) ∧
        (∀ bs, u.write = some bs → writeAllowed s u.addr = false →
          (getStack t n.val).mem = old ∧
          (getCore t k).reqs = (getCore s k).reqs.map (fun r =>
            if r.id = id then { r with waits := r.waits - 1, err := if r.err ≠ 0 then r.err else 2 } else r)) ∧
        (u.write = none → off % 512 + u.len ≤ 512 → bufFind (getStack s n.val) (off / 2048) = none → (∀ b, blkDiff old b = 0) →
          ∃ l, l.Sublist (sprAt (getStack s n.val) (off / 512 * 512) 512) ∧ (getStack t n.val).mem = storeBlocks old l ∧
          (getCore t k).reqs = (getCore s k).reqs.map (fun r =>
            if r.id = id then { r with waits := r.waits - 1, data := overlay r.data o (memReadBytes (storeBlocks old l).bytes off u.len) } else r))) ∧
    (∀ (u : StackUnit) (rr : Nat × Nat) (k : CoreId) (id o : Nat), grantNext s n = some (u, rr) → u.src = .stream k id o →
      (dieDown s (dieTile (n.val / 2)) = true ∨ dieDown s (dieTile (tileOfCore k)) = true) →
      ∃ t, exec (.stackUnitGrant n) s = .next t ∧ (getStack t n.val).units = (unitsWaiting s n).eraseP (fun v => unitReq v = rr.1) ∧
        (getStack t n.val).mem = (getStack s n.val).mem ∧
        (getCore t k).reqs = (getCore s k).reqs.map (fun r =>
          if r.id = id then { r with waits := r.waits - 1, err := if r.err ≠ 0 then r.err else 7 } else r)) ∧
    (∀ (u : StackUnit) (rr : Nat × Nat) (p : PartId) (r : KvReq), grantNext s n = some (u, rr) → u.src = .kv p → kvFront s p = some r →
      u.addr % 512 = 0 → unitCut s n.val u = false →
      let off := u.addr % 2 ^ 36
      let old := (getStack s n.val).mem
      ∃ t q, exec (.stackUnitGrant n) s = .next t ∧ kvFront t p = some q ∧ q.done = r.done + 1 ∧ q.busy = false ∧ q.copy = r.copy ∧
        (∀ bs, u.write = some bs → ∀ i, i < bs.length → some (memRead (getStack t n.val).mem.bytes (off + i)) = bs[i]?) ∧
        (u.write = none → bufFind (getStack s n.val) (off / 2048) = none → (∀ b, blkDiff old b = 0) →
          ∃ l, l.Sublist (sprAt (getStack s n.val) off 512) ∧ (getStack t n.val).mem = storeBlocks old l ∧
          q.unit = memReadBytes (storeBlocks old l).bytes off 512))

/-- Scrubbing, repair and refresh of a stack (R183 to R187): a scrub of a block with one disturbed bit leaves every byte as it was and makes one
correctable event of it; an event that becomes LASTING takes one of the two repair rows of its bank, or finds none; the end of a repair counts, and Tops gets
it to save. How many activations a repair counts is the model's choice (log 78). -/
def Claims.StackUpkeep : Prop :=
  ∀ (s : State) (n : Fin 8) (ch : Fin 32),
    (∀ ups, (getStack s n.val).selfRef = true → exec (.stackScrubRead n ch ups) s = .next s) ∧
    (∀ u, u < 584 → (getStack s n.val).selfRef = false → (getStack s n.val).cetWait.length < 8 →
      let b := stackBlock ch.val (vget (getStack s n.val).scrub ch)
      blkDiff (getStack s n.val).mem b = 0 →
      ∃ t e, exec (.stackScrubRead n ch [u]) s = .next t ∧
        vget (getStack t n.val).scrub ch = (vget (getStack s n.val).scrub ch + 1) % 2 ^ 25 ∧
        (∀ a, memRead (getStack t n.val).mem.bytes a = memRead (getStack s n.val).mem.bytes a) ∧
        (∀ x, blkDiff (getStack t n.val).mem x = blkDiff (getStack s n.val).mem x) ∧
        (getStack t n.val).cetWait = (getStack s n.val).cetWait ++ [e] ∧ e.addr = b ∧
        (getStack t n.val).corr = (getStack s n.val).corr + 1 ∧ (getStack t n.val).evCorr = true) ∧
    (∀ e es t, (getStack s n.val).cetWait = e :: es → cetUpdate (getStack s n.val).cet e = some (t, none) →
      exec (.stackCetEvent n) s = .next (modStack s n.val (fun x => { x with cetWait := es, cet := t }))) ∧
    (∀ e es, (getStack s n.val).cetWait = e :: es → cetUpdate (getStack s n.val).cet e = none →
      exec (.stackCetEvent n) s = .next (modStack s n.val (fun x => { x with cetWait := es, cetLost := x.cetLost + 1 }))) ∧
    (∀ e es t i, (getStack s n.val).cetWait = e :: es → cetUpdate (getStack s n.val).cet e = some (t, some i) →
      let used := tget 0 (getStack s n.val).pprUsed (stackBank e.addr)
      ∃ v, exec (.stackCetEvent n) s = .next v ∧
        (2 ≤ used → (getStack v n.val).evNoSpare = true ∧ (vget (getStack v n.val).cet (Fin.ofNat 16 i)).action = 4 ∧
          (getStack v n.val).pprUsed = (getStack s n.val).pprUsed ∧ ∃ r, v.flt.waiting = s.flt.waiting ++ [r] ∧ r.cls = 0x37) ∧
        (used < 2 → tget 0 (getStack v n.val).pprUsed (stackBank e.addr) = used + 1 ∧
          (vget (getStack v n.val).cet (Fin.ofNat 16 i)).spare = used ∧
          ((getStack s n.val).copies.any (fun x => x.bank = stackBank e.addr) = true → (vget (getStack v n.val).cet (Fin.ofNat 16 i)).action = 1) ∧
          ((getStack s n.val).copies.any (fun x => x.bank = stackBank e.addr) = false → (vget (getStack v n.val).cet (Fin.ofNat 16 i)).action = 2))) ∧
    (∀ i c, (getStack s n.val).copies[i]? = some c → c.started = true → ((getStack s n.val).copies.eraseIdx i).find? (fun x => x.bank = c.bank) = none →
      ∃ v, exec (.stackPprDone n i) s = .next (toTops v (.repair (.stackPpr n.val (c.bank / 64) (c.bank % 64) c.row))) ∧
        v = modStack s n.val (fun t =>
        { t with copies := t.copies.eraseIdx i, evRepaired := true, repairs := t.repairs + 1, repaired := t.repaired ++ [(c.bank, c.row)],
                 acts := (getStack v n.val).acts, cet := vmod t.cet (Fin.ofNat 16 c.entry) (fun e => { e with action := 3 }) })) ∧
    (∀ bank : Fin 64, ∃ t, exec (.stackRefresh n ch bank) s = .next t ∧ t = modStack s n.val (fun x =>
      { x with refresh := tset x.refresh (ch.val * 64 + bank.val) ((tget 0 x.refresh (ch.val * 64 + bank.val) + 1) % 16384) }))

/-- The command that starts a test of a mode. -/
def tgCommandOf (n : Fin 8) (pattern : Fin 16) (mode : Nat) : Instr :=
  if mode = 1 then .tgWrite n pattern else if mode = 2 then .tgRead n pattern else if mode = 3 then .tgWriteRead n pattern else .tgMarch n pattern

/-- A test command of the traffic generator starts its test, or is refused where the stack is mapped or its Sprouts have work (R188). A test that
writes, a WRITE, a WRITE_READ or a MARCH, finds no error in a memory that keeps what is written, whatever it held, and leaves the pattern in every
block of the selected channels; a READ leaves the memory as it is (R188, R189). -/
def Claims.TrafficGenerator : Prop :=
  ∀ (s : State) (n : Fin 8) (pattern : Fin 16),
    (∀ mode, 1 ≤ mode → mode ≤ 4 → (getStack s n.val).tg.run = none →
      (stackMapped s n.val = true ∨ (getStack s n.val).sprQ ≠ [] ∨ (getStack s n.val).sprRun ≠ none ∨ 6 < pattern.val →
        exec (tgCommandOf n pattern mode) s = .next (modStack s n.val (fun x =>
          { x with tg := { x.tg with pattern := pattern.val, refused := true, done := true } }))) ∧
      (stackMapped s n.val = false → (getStack s n.val).sprQ = [] → (getStack s n.val).sprRun = none → pattern.val ≤ 6 →
        (n.val = 0 → cfgBusy s = false) →
        exec (tgCommandOf n pattern mode) s = .next (modStack s n.val (fun x =>
          { x with tg := { x.tg with pattern := pattern.val, refused := false, done := false,
                                     run := some (mode, pattern.val, x.tg.chmask, x.tg.first, x.tg.last) } })))) ∧
    (∀ mode mask first last, (getStack s n.val).tg.run = some (mode, pattern.val, mask, first, last) → (getStack s n.val).selfRef = false →
      1 ≤ mode → mode ≤ 4 →
      ∃ t, exec (.tgDone n) s = .next t ∧ (getStack t n.val).tg.done = true ∧ (getStack t n.val).tg.run = none ∧ (getStack t n.val).evTgDone = true ∧
        (mode ≠ 2 → (getStack t n.val).tg.errs = (getStack s n.val).tg.errs ∧ (getStack t n.val).tg.failmask = (getStack s n.val).tg.failmask ∧
          ∀ ch, ch < 32 → mask.getLsbD ch = true → ∀ b d, (b, d) ∈ tgData pattern.val (getStack s n.val).tg.seed ch first last →
            memReadBytes (getStack t n.val).mem.bytes (b * 64) 64 = d ∧ blkDiff (getStack t n.val).mem b = 0) ∧
        (mode = 2 → (getStack t n.val).mem = (getStack s n.val).mem))

/-! ### The Sprouts (08_stack_memory_sprouts.md, R190 to R204) -/

/-- A Sprout command that reaches a stack with fewer than 64 commands queued joins them; one that finds 64 waits in the mesh (R198); a
SEVERED stack, or one at a SEVERED tile, answers it with an error (R389). Nothing else changes but the counts of flits on the command's
way (R260) and the die-link flits that carry it (R406). -/
def Claims.SproutArrives : Prop :=
  ∀ (s : State) (j : Nat) (k : CoreId) (c : CtxId) (n cls id : Nat) (b : List Byte) (pc : BitVec 18) (tk : Option Nat) (p : PartId),
    arrives s j = some ⟨.ctx k c, .stack n, cls, .command b id pc tk⟩ → partOfCore s k = some p →
    (dieDown s (dieStack n) = false → dieDown s (dieTile (n / 2)) = false → (getStack s n).sprQ.length < 64 →
      ∃ t, exec (.sproutCommandArrive j) s = .next t ∧ { t with meshTiles := s.meshTiles, pairs := s.pairs } = { modStack s n (fun x =>
        { x with sprQ := x.sprQ ++ [⟨id, k, c, p, b, pc, tk, none⟩] }) with mesh := dropAt s.mesh j }) ∧
    (dieDown s (dieStack n) = false → dieDown s (dieTile (n / 2)) = false → 64 ≤ (getStack s n).sprQ.length → exec (.sproutCommandArrive j) s = .next s) ∧
    (dieDown s (dieStack n) = true ∨ dieDown s (dieTile (n / 2)) = true →
      ∃ t, exec (.sproutCommandArrive j) s = .next t ∧
        { t with meshTiles := s.meshTiles, pairs := s.pairs } = { s with mesh := dropAt s.mesh j ++ [⟨.stack n, .ctx k c, 0, .cmdError id pc tk⟩] })

/-- The command by which a stack runs a Sprout command of an opcode. -/
def sproutCommandOf (n : Fin 8) (parity : Option (Fin 32 × Bool)) (op : Nat) : Instr :=
  if op = 1 then .gemv n parity else if op = 2 then .gemvAcc n parity else if op = 3 then .fill n parity
  else if op = 0x10 then .qkThin n parity else .pvThin n parity

/-- The stack without the command that it takes to run. -/
def sprTaken (s : State) (n : Fin 8) (c : SprCmd) (rr : Nat × Nat) : State :=
  modStack s n.val (fun x => { x with sprRr := rr, sprQ := x.sprQ.eraseP (fun y => y.part = c.part) })

/-- The ranges that a command reads. -/
def sprNeeds (c : SprCmd) : List SprRange :=
  match c.thin with
  | some t => thinReads c.block t
  | none => if sprOp c.block = 3 then [] else sprReads c.block

/-- A stack that starts a Sprout command (R192 to R202) holds it as the one it runs. A page that is not mapped, lies in another stack or lacks a
permission gives the command its cause, with nothing read; a second parity error of one row step ends it with cause 7 and a record;
unusable data end it with cause 4; else what it will write, or the sums it will return, are computed from what it read. -/
def Claims.SproutRuns : Prop :=
  ∀ (s : State) (n : Fin 8) (op : Nat) (c : SprCmd) (rr : Nat × Nat), op ∈ [1, 2, 3, 0x10, 0x11] → sprNext s n.val = some (c, rr) → sprOp c.block = op →
    let q := getPart s c.part
    let ok := rangesCause q n.val (sprNeeds c ++ (if c.thin = none then sprWrites c.block else []))
    (∀ parity e, ok = some e → exec (sproutCommandOf n parity op) s = .next (modStack (sprTaken s n c rr) n.val (fun x => { x with sprRun := some ⟨c, [], [], some e, false⟩ }))) ∧
    (∀ ch, ok = none → ∃ t r, exec (sproutCommandOf n (some (ch, true)) op) s = .next t ∧ (getStack t n.val).sprRun = some ⟨c, [], [], some 7, false⟩ ∧
      (getStack t n.val).evParity = true ∧ t.flt.waiting = s.flt.waiting ++ [r] ∧ r.cls = 0x39 ∧ r.detail = BitVec.ofNat 16 ch.val) ∧
    (ok = none → ∃ t r, exec (sproutCommandOf n none op) s = .next t ∧ (getStack t n.val).sprRun = some r ∧ r.cmd = c ∧
      (getStack t n.val).sprQ = (getStack s n.val).sprQ.eraseP (fun y => y.part = c.part) ∧ (getStack t n.val).sprRr = rr ∧
      ((readAll (sprTaken s n c rr) q n.val (sprNeeds c)).2 = none → r.fault = some 4 ∧ r.out = [] ∧ r.sums = []) ∧
      (∀ l, (readAll (sprTaken s n c rr) q n.val (sprNeeds c)).2 = some l →
        (∀ x, c.thin = some x → r.sums = thinSums c.block x l ∧ r.out = [] ∧ r.fault = none) ∧
        (c.thin = none → op = 3 → r.out = fillOut q c.block ∧ r.fault = none) ∧
        (c.thin = none → op ≠ 3 → ∀ e, gemvOut q c.block l = .error e → r.fault = some e ∧ r.out = []) ∧
        (c.thin = none → op ≠ 3 → ∀ o, gemvOut q c.block l = .ok o → r.fault = none ∧ r.out = o)))

/-- A Sprout command that completes (R203): without a cause its output is stored, its sync object gets 1 and its context has one command fewer
outstanding; with one, or where a page of what it still has to write may not be written now (R231), the stack's memory stays as it is and
the stack notes the fault (blocks written before stand: the model's choice, log 70). A thin command returns its sums. -/
def Claims.SproutCompletes : Prop :=
  ∀ (s : State) (n : Fin 8) (r : SprRun), (getStack s n.val).sprRun = some r →
    let outs := if r.fault.isSome then [] else r.out
    let bad := r.fault.isSome || outs.any (fun o => !writeAllowed s (n.val * 2 ^ 36 + o.1))
    ∃ t, exec (.sproutCommandComplete n) s = .next t ∧ (getStack t n.val).sprRun = none ∧ (getStack t n.val).cmds = (getStack s n.val).cmds + 1 ∧
      (getStack t n.val).mem = (if bad then (getStack s n.val).mem else storeBlocks (getStack s n.val).mem outs) ∧
      (bad = true → (getStack t n.val).evFault = true) ∧
      (∀ x, r.cmd.thin = some x → bad = r.fault.isSome →
        (⟨.stack n.val, .ctx r.cmd.core r.cmd.ctx, 3, .thinSums r.cmd.id r.sums r.fault⟩ : Frame) ∈ t.mesh) ∧
      (r.cmd.thin = none → bad = false → (getCtx t r.cmd.core r.cmd.ctx).sprOut = (getCtx s r.cmd.core r.cmd.ctx).sprOut - 1 ∧
        ∀ g o, sprSync r.cmd.block ≠ 0xFFFFFFFF → handleObj (maskOf s r.cmd.part) (sprSync r.cmd.block).toNat = some (g, o) →
          (⟨.stack n.val, .sync g, 1, .syncAdd o 1⟩ : Frame) ∈ t.mesh)

/-- The fences of the stacks (R204, R302). A fence with no command outstanding completes at once, and drops what is buffered: for
SPR_HFENCE all of its stack's segments, for a partition's fence the partition's segments in every stack. One with commands outstanding waits for them. -/
def Claims.SproutFences : Prop :=
  ∀ (s : State),
    (∀ n : Fin 8, sprOutstanding (getStack s n.val) = [] →
      exec (.sprHfence n) s = .next (modStack s n.val (fun t => { t with hfence := none, evHfence := true, buf := [] }))) ∧
    (∀ n : Fin 8, sprOutstanding (getStack s n.val) ≠ [] →
      exec (.sprHfence n) s = .next (modStack s n.val (fun t =>
        { t with hfence := some ((sprOutstanding t).map (fun c => c.id * 128 + c.core.val)) }))) ∧
    (∀ p : PartId, (getPart s p).live = true → (∀ n : Fin 8, ∀ c ∈ sprOutstanding (vget s.stks n), c.part ≠ p) →
      ∃ t, exec (.partSprfence p) s = .next t ∧ (getPst t p).fence = false ∧ (getPst t p).evFence = true ∧
        ∀ n : Fin 8, (vget t.stks n).buf = (vget s.stks n).buf.filter (fun b => b.owner != some p)) ∧
    (∀ (p : PartId) (n : Fin 8) (c : SprCmd), (getPart s p).live = true → c ∈ sprOutstanding (vget s.stks n) → c.part = p →
      ∃ t, exec (.partSprfence p) s = .next t ∧ (getPst t p).fence = true ∧ (getPst t p).evFence = (getPst s p).evFence ∧
        ∀ m : Fin 8, (vget t.stks m).buf = (vget s.stks m).buf)

/-! ### KV pages (09_attention.md, R225 to R234) -/

/-- What ALLOC (1), SHARE (2) and RELEASE (3) do to a page (Table 9.13): the page after, or the code of the refusal. -/
def kvTable (op : Nat) (g : KvPage) : Except Nat KvPage :=
  if op = 1 then (if kvState g = 0 then .ok { g with refs := 1 } else .error 2)
  else if g.refs = 0 then .error 3
  else if op = 3 then .ok { g with refs := g.refs - 1 }
  else if g.refs < 65535 then .ok { g with refs := g.refs + 1 } else .error 4

/-- The command that applies an entry. -/
def kvCommand (p : PartId) (op : Nat) : Instr :=
  if op = 1 then .alloc p else if op = 2 then .share p else if op = 3 then .kvpRelease p else .cow p

/-- An entry of a partition's oldest request is applied or refused by Table 9.13: no other page changes, a refused entry changes no page at all, and it
ends the request, whose completion, with its index and its code, is held for the host. -/
def Claims.KvEntries : Prop :=
  ∀ (s : State) (p : PartId) (r : KvReq) (e : BitVec 64 × BitVec 64) (op : Nat), 1 ≤ op → op ≤ 3 → kvFront s p = some r → r.copy = none → r.ended = none →
    kvEntry r = some e → kvOp e = op →
      let res := if kvMalformed e || !inPool s p (kvVa e) then .error 1 else kvTable op (kvPage s p (kvVa e))
      ∃ t, exec (kvCommand p op) s = .next t ∧ t.stks = s.stks ∧
        (∀ q va, kvKey q va ≠ kvKey p (kvVa e) → kvPage t q va = kvPage s q va) ∧
        (∀ g, res = .ok g → kvPage t p (kvVa e) = g) ∧
        (∀ code, res = .error code → kvPage t p (kvVa e) = kvPage s p (kvVa e) ∧ t.kvp.evRefused = true ∧
          (devRoom s p r.channel = true → (⟨2, kvBody r r.applied code, 0, false⟩ : HeldEntry) ∈ (getCh t p r.channel).ring.held))

/-- COW (R228, R229): the checks of Table 9.13 in their order, and what a copy that starts leaves; at its end, once its 64 units
have been read and written, the source has one reference fewer and both pages are no longer COPYING. -/
def Claims.KvCopies : Prop :=
  ∀ (s : State) (p : PartId) (r : KvReq), kvFront s p = some r → r.ended = none →
    (∀ e, r.copy = none → kvEntry r = some e → kvOp e = 4 →
      let g := kvPage s p (kvVa e)
      let code := if kvMalformed e || !inPool s p (kvVa e) || !inPool s p (kvDst e) then 1 else if kvDst e = kvVa e then 5
        else if g.refs = 0 then 3 else if kvState (kvPage s p (kvDst e)) ≠ 0 then 2 else 0
      ∃ t, exec (.cow p) s = .next t ∧ t.stks = s.stks ∧
        (code ≠ 0 → (∀ q va, kvPage t q va = kvPage s q va) ∧ t.kvp.evRefused = true) ∧
        (code = 0 → kvPage t p (kvVa e) = { g with copying := true } ∧
          kvPage t p (kvDst e) = { kvPage s p (kvDst e) with refs := 1, copying := true } ∧
          kvFront t p = some { r with copy := some (kvVa e, kvDst e) })) ∧
    (∀ va dst, r.copy = some (va, dst) → r.done < 128 → exec (.kvpCopyEnd p) s = .next s) ∧
    (∀ va dst, r.copy = some (va, dst) → 128 ≤ r.done → kvKey p va ≠ kvKey p dst →
      ∃ t, exec (.kvpCopyEnd p) s = .next t ∧
        kvPage t p va = { kvPage s p va with refs := (kvPage s p va).refs - 1, copying := false } ∧
        kvPage t p dst = { kvPage s p dst with copying := false } ∧ t.kvp.copies = s.kvp.copies + 1 ∧
        vget (vget t.meters p) 7 = vget (vget s.meters p) 7 + 65536)

/-- A write of a KVP_SEL register selects a page and latches its state and its counts, or zeros where there is no such page (R234). -/
def Claims.KvSelection : Prop :=
  ∀ (s : State) (w : KvpSel) (v : W32),
    ∃ t, exec (.kvpSelect w v) s = .next t ∧
      t.kvp.selPart = (if w = .part then v.toNat % 32 else s.kvp.selPart) ∧
      t.kvp.selLo = (if w = .vaLo then v &&& 0xFFFF8000 else s.kvp.selLo) ∧
      t.kvp.selHi = (if w = .vaHi then v &&& 0xFFFF else s.kvp.selHi) ∧
      (∀ q va, kvPage t q va = kvPage s q va) ∧
      let p : PartId := Fin.ofNat 32 t.kvp.selPart
      let va := (t.kvp.selHi.toNat % 65536) * 2 ^ 32 + t.kvp.selLo.toNat / 32768 * 32768
      if (getPart s p).live = true ∧ inPool s p va = true then
        t.kvp.state = BitVec.ofNat 32 (4 + kvState (kvPage s p va)) ∧
        t.kvp.counts = BitVec.ofNat 32 ((kvPage s p va).refs * 65536 + (kvPage s p va).leases)
      else t.kvp.state = 0 ∧ t.kvp.counts = 0

/-! ### Fused attention (09_attention.md, R206 to R224) -/

/-- Which keys a query row sees (Table 9.5): positions are unsigned 32-bit integers, and a bound below 0 is taken as 0,
which is left out as every bound is (the model's reading, log 32). -/
def Obligations.AttnMask : Prop :=
  ∀ (b : List Byte) (q : Nat) (p : W32),
    let here : W32 := BitVec.ofNat 32 (atQPos b + q)
    let low : W32 := if here.toNat < atWindow b then 0 else here - BitVec.ofNat 32 (atWindow b)
    (atMask b = 0 → atVisible b q p.toNat = true) ∧
    (atMask b = 1 → (atVisible b q p.toNat = true ↔ p ≤ here)) ∧
    (atMask b = 2 → (atVisible b q p.toNat = true ↔ low < p ∧ p ≤ here)) ∧
    (atMask b = 3 → (atVisible b q p.toNat = true ↔ p.toNat < atPrefix b ∨ p ≤ here))

/-- The rows that a returning fetch brings, put to those of their kind (R220). -/
def fetchRows (a : AttnRun) (f : AttnFetch) (t : Tbl (List Byte)) : Tbl (List Byte) :=
  (List.range f.rows).foldl (fun u r => tset u (f.key + r) ((f.data.drop (r * atB a.block)).take (atB a.block))) t

/-- An ATTN that starts in its turn (R210, R213) zeroes its tiles at their anchors and writes nothing but the work pair into a clean operand buffer; one that fetches waits while 8 transfers are active (R222). A fetch
that returns brings its rows; the last of a block starts the block's score pass, whose result is what the score tile holds; one that brings no
data fails the command. -/
def Claims.AttnRuns : Prop :=
  ∀ (s : State) (k : CoreId),
    (∀ (o : TOp) off ts b, (getCore s k).attn = none → nextGrant s k 0 = some o → o.kind = .attn off ts b → atMerge b = false →
      (atThin b = false → 8 ≤ activeCount s k → exec (.attnStart k) s = .next s) ∧
      ((atThin b = true ∨ activeCount s k < 8) → (∀ r ∈ (atRanges (getCore s k).opbuf.bytes b).drop 1, r.1 + r.2 ≤ 0x600000) →
        (attnReads (grant s k 0 o) k o b ((atRanges (getCore s k).opbuf.bytes b).drop 1)).2 ≠ none →
        (atOutTiles b).all (fun x => decide (x < 8) && decide (x ≠ atAccS b)) = true →
        ∃ t, exec (.attnStart k) s = .next t ∧ getTile t k (atAccS b) = zeroTile (atAS b) ∧
          (∀ x ∈ atOutTiles b, getTile t k x = zeroTile (atAO b)) ∧
          ((∀ x, blkDiff (getCore s k).opbuf x = 0) → ∀ x, ¬(131072 * atWork b ≤ x ∧ x < 131072 * (atWork b + 1)) →
            memRead (getCore t k).opbuf.bytes x = memRead (getCore s k).opbuf.bytes x))) ∧
    (∀ (a : AttnRun) i f ups, (getCore s k).attn = some a → a.fetches[i]? = some f → f.waits = 0 → coreClocked s k = true → a.failed = false → a.todo = [] →
      (f.err ≠ 0 → ∃ t, exec (.attnFetchReturn k i ups) s = .next t ∧ (getCore t k).att.evFault = true ∧ (getCore t k).tiles = (getCore s k).tiles) ∧
      (f.err = 0 → 1 < a.fetches.length →
        ∃ t x, exec (.attnFetchReturn k i ups) s = .next t ∧ (getCore t k).attn = some x ∧ x.fetches = dropAt a.fetches i ∧
          x.keys = (if f.value then a.keys else fetchRows a f a.keys) ∧ x.vals = (if f.value then fetchRows a f a.vals else a.vals) ∧
          (getCore t k).tiles = (getCore s k).tiles) ∧
      (f.err = 0 → a.fetches.length = 1 → (atOutTiles a.block).all (fun x => decide (x < 8) && decide (x ≠ atAccS a.block)) = true →
        let u := ups.getD 0 upset0
        let r := passTry (zeroTile (atAS a.block)) (scorePass { a with keys := if f.value then a.keys else fetchRows a f a.keys }) u.us u.parity
        r.2.2.1 = 0 →
          ∃ t, exec (.attnFetchReturn k i ups) s = .next t ∧ (getTile t k (atAccS a.block)).els = r.1.map (fun x => x.1) ∧
            (getTile t k (atAccS a.block)).anchor = atAS a.block)) ∧
    (∀ j e cls id l a c p, arrives s j = some ⟨e, .ctx k c, cls, .thinSums id l none⟩ → (getCore s k).attn = some a → partOfCore s k = some p → a.failed = false →
      (∀ h, a.thin.find? (fun y => y.id = id) = some h → (a.thin.filter (fun y => y.id != id)).isEmpty = false →
        ∃ t x, exec (.thinSumReturn j) s = .next t ∧ t.mesh = dropAt s.mesh j ∧ (getCore t k).attn = some x ∧ x.sums = a.sums ++ sumsOf h l ∧
          x.thin = a.thin.filter (fun y => y.id != id)) ∧
      (a.thin.find? (fun y => y.id = id) = none → ∃ t, exec (.thinSumReturn j) s = .next t ∧
        { t with meshTiles := s.meshTiles, pairs := s.pairs } = { s with mesh := dropAt s.mesh j })) ∧
    (∀ (a : AttnRun), (getCore s k).attn = some a → a.failed = false → a.stage = .output → coreClocked s k = true → atPartial a.block = false →
      (∀ x, blkDiff (getCore s k).opbuf x = 0) → (∀ o ∈ atOutTiles a.block, tileSofts (getCore s k) o = []) → a.off % 64 = 0 →
      let b := a.block
      let outs := (List.range (atM b)).map (fun q => (List.range (atD b)).map (fun d => atOut b (atElem s k b q d) (a.l.getD q 0)))
      let bytes := outs.flatMap (fun r => packBytes (fmtBits (atOutFmt b)) (r.map (fun o => o.1.bits)))
      (a.off + 64 ≤ atOutOff b ∨ atOutOff b + bytes.length ≤ a.off) →
      ∃ t, exec (.attnComplete k) s = .next t ∧ (getCore t k).attn = none ∧ (getCore t k).att.cmds = (getCore s k).att.cmds + 1 ∧
        memReadBytes (getCore t k).opbuf.bytes (atOutOff b) bytes.length = bytes ∧
        ((memRead (getCore t k).opbuf.bytes (a.off + 56)).getLsbD 4 = outs.any (fun r => r.any (fun o => o.2))) ∧
        ((memRead (getCore t k).opbuf.bytes (a.off + 56)).getLsbD 3 = outs.any (fun r => r.any (fun o => o.1.sat))) ∧
        ((memRead (getCore t k).opbuf.bytes (a.off + 56)).getLsbD 5 = atThin b) ∧
        (∀ x, ¬(atOutOff b ≤ x ∧ x < atOutOff b + bytes.length) → ¬(a.off + 56 ≤ x ∧ x < a.off + 64) →
          memRead (getCore t k).opbuf.bytes x = memRead (getCore s k).opbuf.bytes x))

/-- The shift of R215 is the floor of the quotient, and says whether it dropped a bit; a zero stays zero and drops nothing, however far it is shifted. -/
def Claims.AttnShift : Prop :=
  ∀ (n : BitVec 128) (k : Nat),
    (shiftX n k).1.toInt = n.toInt / 2 ^ min k 127 ∧
    ((shiftX n k).2 = true ↔ (shiftX n k).1.toInt * 2 ^ min k 127 ≠ n.toInt) ∧ shiftX 0 k = (0, false)

/-! ### The fault log (16_faults.md, R369 to R371) -/

/-- The hub writes the records one at a time in the order in which they were raised (R370, R371): the log keeps the last 4,096, the index after 0xFFFFFFFE is 0,
FLT_EVENT.RECORD is set, which raises vector 1, or holds it pending while it is masked, and a record that names a partition leaves it unserviced, with its FAULT event. -/
def Claims.FaultLog : Prop :=
  ∀ (s : State),
    (s.flt.waiting = [] → exec .faultRecordWrite s = .next s) ∧
    (∀ r rs, s.flt.waiting = r :: rs →
      ∃ t q, exec .faultRecordWrite s = .next t ∧ t.flt.waiting = rs ∧ q = { r with seq := q.seq, dseq := q.dseq } ∧
        (s.flt.log.length ≤ 4096 → t.flt.log = (if s.flt.log.length < 4096 then s.flt.log else s.flt.log.drop 1) ++ [q]) ∧
        t.flt.head = (if s.flt.head = 0xFFFFFFFE then 0 else s.flt.head + 1) ∧ t.flt.evRecord = true ∧
        (s.flt.evRecord = false → if (Fn.pf, 1) ∈ s.hst.mask then (Fn.pf, 1) ∈ t.hst.pend else (Fn.pf, 1) ∈ t.irqs) ∧
        (∀ p, recPart r = some p → t.flt.partUnserviced.getLsbD p.val = true ∧ (getPst t p).evFault = true) ∧
        (recPart r = none → t.flt.partUnserviced = s.flt.partUnserviced))

/-! ### Chip-link ports (11_chip_links.md, R263 to R271) -/

/-- A frame whose fields fit their places (Table 11.3). -/
def frameFits (f : LinkFrame) : Prop :=
  kindKnown f.kind = true ∧ f.kind < 256 ∧ f.tree < 8 ∧ f.seq < 65536 ∧ f.srcRank < 8192 ∧ f.op < 2 ^ 32 ∧ f.dstRank < 8192 ∧ f.chunk < 2 ^ 18 ∧
    f.data.length ≤ 4096 ∧ f.data.length % 64 = 0

/-- The header and payload of a frame give the frame back, and a receiver takes exactly that frame from a flit body that it fills with
padding behind (R268). -/
def Obligations.LinkFrameRoundTrip : Prop :=
  ∀ (f : LinkFrame), frameFits f → frameOf (frameBytes f) = f ∧ (frameBytes f).length = 16 + f.data.length ∧
    ∀ n, parseFrames 17 (frameBytes f ++ List.replicate n 0) [] = ([], [f])

/-- A port after the report of a flit's codeword pair, which counts once: the symbols of codewords with at most 15 wrong ones are corrected,
and a codeword with more is uncorrectable, which makes the flits of its pair bad (R265, R287). -/
def pairSeen (x : LinkPort) (q : RxPair) : LinkPort :=
  if x.rxPair = some q.seq then x
  else
    { x with
      fecCorr := x.fecCorr + BitVec.ofNat 64 ((if q.errA < 16 then q.errA else 0) + (if q.errB < 16 then q.errB else 0))
      uncorr := x.uncorr + BitVec.ofNat 64 ((if q.errA < 16 then 0 else 1) + (if q.errB < 16 then 0 else 1))
      evUncorr := x.evUncorr || decide (16 ≤ q.errA ∨ 16 ≤ q.errB), rxPair := some q.seq, rxLost := decide (16 ≤ q.errA ∨ 16 ≤ q.errB) }

/-- Flits are taken in the order of their SEQ only (R267): a damaged one, of any type, or one out of order is discarded, and a NAK goes out at the
next link-control slot, once for the flits that come out of order; the expected one delivers its frames that have a tree, and is acknowledged there. An ACK
releases the flits up to the one it names. A flit of a pair with an uncorrectable codeword counts as damaged (R265). A port that is not UP takes none. A
flit that is laid out has a good CRC, its TYPE and its SEQ (R266). (That the port reaches its next link-control slot after each flit is the
model's choice, log 29.) -/
def Claims.LinkFlits : Prop :=
  ∀ (s : State) (p : Fin 24) (b : List Byte) (q : RxPair) (pos : Fin 5),
    let x := getPort s p.val
    let z := pairSeen x q
    let good := z.rxLost = false ∧ flitOk b = true
    let slot := z.slot / 80 * 80 + 79
    (x.st ≠ .up → exec (.linkDataFlit p b q pos) s = .next s ∧ exec (.linkCtlFlit p ⟨b, q, pos⟩) s = .next s) ∧
    (∀ c ∈ [Instr.linkDataFlit p b q pos, .linkCtlFlit p ⟨b, q, pos⟩], x.st = .up → ¬ good →
      exec c s = .next (modPort s p.val (fun _ =>
        { z with nak := true, slot := nextSlot slot, out := z.out ++ [(slot, ctlFlit z true)] }))) ∧
    (x.st = .up → good → flitType b = 1 → flitSeq b ≠ x.rxSeq →
      exec (.linkDataFlit p b q pos) s = .next (modPort s p.val (fun _ =>
        { z with nak := true, slot := nextSlot slot, out := z.out ++ [(slot, ctlFlit z (!z.nak))] }))) ∧
    (x.st = .up → good → flitType b = 1 → flitSeq b = x.rxSeq →
      let r := parseFrames 17 (x.rxRest ++ (b.drop 2).take 250) []
      ∃ t, exec (.linkDataFlit p b q pos) s = .next t ∧ (getPort t p.val).rxSeq = (x.rxSeq + 1) % 4096 ∧
        (getPort t p.val).nak = false ∧ (getPort t p.val).rxRest = r.1 ∧
        (getPort t p.val).rxq = x.rxq ++ r.2.filter (fun f => kindKnown f.kind && (frameEdge s p.val f.tree).isSome) ∧
        (getPort t p.val).fecCorr = z.fecCorr ∧ (getPort t p.val).uncorr = z.uncorr ∧
        (getPort t p.val).out = x.out ++ [(slot, ctlFlit (getPort t p.val) false)]) ∧
    (x.st = .up → good → flitType b = 2 → x.txq = [] → x.txRest = [] → x.rsq = [] →
      let ack := leNat ((b.drop 2).take 2)
      (leNat ((b.drop 4).take 2)).testBit 15 = false → ack.testBit 15 = true →
      ∀ before e after, x.replay = before ++ e :: after → e.1 = ack % 4096 → (∀ g ∈ before, g.1 ≠ ack % 4096) →
        exec (.linkCtlFlit p ⟨b, q, pos⟩) s = .next (modPort s p.val (fun _ => { z with replay := after }))) ∧
    (∀ type seq body, type < 4 → seq < 4096 → body.length = 250 →
      flitOk (mkFlit type seq body) = true ∧ flitType (mkFlit type seq body) = type ∧ flitSeq (mkFlit type seq body) = seq ∧
      ((mkFlit type seq body).drop 2).take 250 = body)

/-- A port that starts one full training after one with saved settings has failed (R271). -/
def fullAgain (x y : LinkPort) : Prop :=
  y = { x with saved := false, step := .detect, width := 0, quads := 0, peer := 0, reversed := false, polarity := 0, ident := [] }

/-- Training goes through its steps in their order (R269, Table 11.5): each gives what it found, a width of no quad fails, identification makes the port UP, and a step
that takes too long makes the port FAILED with its cause. With saved settings, fewer lanes than they reached or another neighbour than they name lead to
one full training, and the same neighbour makes the port UP, its settings kept (R271). -/
def Claims.PortTraining : Prop :=
  ∀ (s : State) (p : Fin 24),
    let x := getPort s p.val
    (x.st ≠ .training → exec (.portTrainTimeout p) s = .next s ∧ ∀ r, exec (.portTrainStepDone p r) s = .next s) ∧
    (x.st = .training →
      (x.step = .detect → exec (.portTrainStepDone p .detected) s = .next (modPort s p.val (fun y => { y with step := .equalize }))) ∧
      (x.step = .equalize → exec (.portTrainStepDone p .equalized) s = .next (modPort s p.val (fun y => { y with step := .deskew }))) ∧
      (∀ rev pol, x.step = .deskew → exec (.portTrainStepDone p (.deskewed rev pol)) s =
        .next (modPort s p.val (fun y => { y with step := .width, reversed := rev, polarity := pol }))) ∧
      (∀ q : BitVec 4, x.step = .width → q ≠ 0 → (x.saved = true → ∀ v, savedFor x = some v → v.width ≤ 4 * popc q) → exec (.portTrainStepDone p (.widths q)) s =
        .next (modPort s p.val (fun y => { y with step := .identify, quads := q, width := 4 * popc q }))) ∧
      (∀ (q : BitVec 4) v, x.step = .width → x.saved = true → savedFor x = some v → 4 * popc q < v.width →
        ∃ t, exec (.portTrainStepDone p (.widths q)) s = .next t ∧ fullAgain x (getPort t p.val)) ∧
      (x.step = .width → (x.saved = true → ∀ v, savedFor x = some v → v.width = 0) →
        ∃ t, exec (.portTrainStepDone p (.widths 0)) s = .next t ∧ (getPort t p.val).st = .failed ∧
        (getPort t p.val).cause = 2 ∧ (getPort t p.val).evFailed = true) ∧
      (∀ id peer v, x.step = .identify → id.length = 16 → peer < 32 → x.saved = true → savedFor x = some v → (v.ident ≠ id ∨ v.peer ≠ peer) →
        ∃ t, exec (.portTrainStepDone p (.identified id peer)) s = .next t ∧ fullAgain x (getPort t p.val)) ∧
      (∀ id peer v, x.step = .identify → id.length = 16 → peer < 32 → x.replay = [] → x.saved = true → savedFor x = some v → v.ident = id →
        v.peer = peer →
        ∃ t, exec (.portTrainStepDone p (.identified id peer)) s = .next t ∧ (getPort t p.val).st = .up ∧ (getPort t p.val).sets = x.sets) ∧
      (∀ id peer, x.step = .identify → id.length = 16 → peer < 32 → x.replay = [] → x.saved = false →
        ∃ t, exec (.portTrainStepDone p (.identified id peer)) s = .next t ∧ (getPort t p.val).st = .up ∧ (getPort t p.val).ident = id ∧
          (getPort t p.val).peer = peer ∧ (getPort t p.val).evNarrowed = (x.evNarrowed || decide (x.width < x.prevWidth)) ∧
          (getPort t p.val).evRetrained = (x.evRetrained || x.again) ∧
          tget ⟨[], 0, 0⟩ (getPort t p.val).sets x.band = ⟨id, peer, x.width⟩) ∧
      ∃ t, exec (.portTrainTimeout p) s = .next t ∧ (getPort t p.val).st = .failed ∧ (getPort t p.val).evFailed = true ∧
        (getPort t p.val).cause = (match x.step with | .detect => 1 | .equalize => 2 | .deskew => 3 | .width => 2 | .identify => 4))

/-- Retraining (R270, R287): an UP port that loses lock on an active lane, that Tops or LNK_RETRAIN asks for, trains again from DETECT and keeps its
unacknowledged flits; LNK_RETRAIN also starts a FAILED port; LNK_FULL makes the next training a full one,
but for a port of an absent link die. -/
def Claims.PortRetraining : Prop :=
  ∀ (s : State) (p : Fin 24) (lane : Fin 16) (c : Instr),
    exec (.lnkFull p) s = .next
      (if (linkMask s).getLsbD (p.val / 8) then modPort s p.val (fun x => { x with full := true }) else s) ∧
    ((c = .portRetrain p ∧ (getPort s p.val).st = .up) ∨ (c = .lnkRetrain p ∧ ((getPort s p.val).st = .up ∨ (getPort s p.val).st = .failed)) ∨
      (c = .chipLaneLockLoss p lane ∧ (getPort s p.val).st = .up ∧ (getPort s p.val).quads.getLsbD (lane.val / 4) = true) →
      ∃ t, exec c s = .next t ∧ (getPort t p.val).st = .training ∧ (getPort t p.val).step = .detect ∧
        (getPort t p.val).retrains = (getPort s p.val).retrains + 1 ∧ (getPort t p.val).replay = (getPort s p.val).replay ∧
        (getPort t p.val).txq = (getPort s p.val).txq ∧ (getPort t p.val).width = 0 ∧ (getPort t p.val).again = true ∧
        (getPort t p.val).prevWidth = (if (getPort s p.val).st = .up then (getPort s p.val).width else (getPort s p.val).prevWidth)) ∧
    ((c = .portRetrain p ∧ (getPort s p.val).st ≠ .up) ∨ (c = .lnkRetrain p ∧ (getPort s p.val).st ≠ .up ∧ (getPort s p.val).st ≠ .failed) ∨
      (c = .chipLaneLockLoss p lane ∧ ((getPort s p.val).st ≠ .up ∨ (getPort s p.val).quads.getLsbD (lane.val / 4) = false)) →
      exec c s = .next s)

/-! ### Trees and their engines (11_chip_links.md, R272 to R285) -/

/-- The oldest frame of a port is of an edge of a tree, next in its sequence where it has one, and the tree's owner is not being reset. -/
def frontFrame (s : State) (port : Fin 24) (f : LinkFrame) (p : PartId) (e : Nat) (x : Tree) (r : TreeRec) : Prop :=
  (getPort s port.val).rxq.head? = some f ∧ frameEdge s port.val f.tree = some (p, e) ∧ findTree s p f.tree = some x ∧ treeRec s p f.tree = some r ∧
    (kindSequenced f.kind = true → f.seq = (getEdge x e).rxSeq) ∧ partResetting s p = false ∧ e < x.edges.length

/-- Confirmation (R275, Table 11.6): a HELLO that agrees confirms its edge, one that does not breaks a CONFIRMING tree with MISWIRED, and any one breaks a READY tree with
PEER_RESET; SUBTREE gives the ranks behind its edge; READY from the parent makes the tree READY; TREE_RESET breaks a READY tree, and a CONFIRMING tree
ignores it. -/
def Claims.TreeStates : Prop :=
  ∀ (s : State) (port : Fin 24) (f : LinkFrame) (p : PartId) (e : Nat) (x : Tree) (r : TreeRec), frontFrame s port f p e x r →
    (f.kind = 0x10 → x.st = .confirming → helloAgrees s p r e port.val f.data = true →
      ∃ t y, exec (.hello port) s = .next t ∧ findTree t p f.tree = some y ∧ (getEdge y e).confirmed = true) ∧
    (f.kind = 0x10 → x.st = .confirming → helloAgrees s p r e port.val f.data = false →
      ∃ t y, exec (.hello port) s = .next t ∧ findTree t p f.tree = some y ∧ y.st = .broken ∧ y.cause = 2) ∧
    (f.kind = 0x10 → x.st = .ready →
      ∃ t y, exec (.hello port) s = .next t ∧ findTree t p f.tree = some y ∧ y.st = .broken ∧ y.cause = 4) ∧
    (f.kind = 0x10 → x.st = .broken → exec (.hello port) s = .next (modPort s port.val (fun y => { y with rxq := y.rxq.eraseIdx 0 }))) ∧
    (f.kind = 0x11 → x.st = .confirming →
      ∃ t y, exec (.subtree port) s = .next t ∧ findTree t p f.tree = some y ∧
        (getEdge y e).ranks = (getEdge x e).ranks ++ (if f.data.isEmpty then [] else subtreeRanks f.data)) ∧
    (f.kind = 0x12 → x.st = .confirming → parentEdge r = some e →
      ∃ t y, exec (.ready port) s = .next t ∧ findTree t p f.tree = some y ∧ y.st = .ready ∧ y.stash = []) ∧
    (f.kind = 0x13 → x.st = .ready →
      ∃ t y, exec (.treeReset port) s = .next t ∧ findTree t p f.tree = some y ∧ y.st = .broken ∧ y.cause = 4) ∧
    (f.kind = 0x13 → x.st = .confirming → exec (.treeReset port) s = .next (modPort s port.val (fun y => { y with rxq := y.rxq.eraseIdx 0 })))

/-- Operations at an engine (R278 to R283): a descriptor makes its operation known; a part of a child waits to be combined; a result goes on to the chip's own root node;
a failure discards the operation and is recorded; an ACK releases the frames up to the one that it names. -/
def Claims.EngineFrames : Prop :=
  ∀ (s : State) (port : Fin 24) (f : LinkFrame) (p : PartId) (e : Nat) (x : Tree) (r : TreeRec), frontFrame s port f p e x r →
    (f.kind = 0x16 → x.dead.contains f.op = false → findOp x f.op = none →
      ∃ t y, exec (.desc port) s = .next t ∧ findTree t p f.tree = some y ∧ findOp y f.op = some ⟨f.op, f.data.take 64, [], false, 0, [], [], []⟩) ∧
    (∀ o, f.kind = 1 → findOp x f.op = some o → colReduces o.desc = true →
      ∃ t y, exec (.up port) s = .next t ∧ findTree t p f.tree = some y ∧
        findOp y f.op = some { o with parts := o.parts ++ [(e, f.chunk, f.data)] }) ∧
    (∀ o d, f.kind = 2 → findOp x f.op = some o → colOp o.desc = 1 → homeDie r = some d →
      ∃ t y, exec (.down port) s = .next t ∧ findTree t p f.tree = some y ∧
        (findOp y f.op).map (fun z => z.delivered) = some (o.delivered + 1) ∧
        ∃ g ∈ t.mesh, g.src = .link d ∧ g.dst = .red (rootRegion s p) ∧ ∃ c, g.body = .red c ∧ c.op = f.op ∧ c.chunk = f.chunk ∧ c.data = f.data) ∧
    (f.kind = 0x14 → f.op ≠ 0 → x.dead.contains f.op = false →
      ∃ t y rec, exec (.fail port) s = .next t ∧ findTree t p f.tree = some y ∧ y.dead.contains f.op = true ∧ findOp y f.op = none ∧
        t.flt.waiting = s.flt.waiting ++ [rec] ∧ rec.cls = 0x3B ∧ rec.part = BitVec.ofNat 8 p.val) ∧
    (f.kind = 3 → (getEdge x e).waitq = [] → ∀ before g after, (getEdge x e).unacked = before ++ g :: after → g.seq = f.seq → (∀ h ∈ before, h.seq ≠ f.seq) →
      ∃ t y, exec (.frameAck port) s = .next t ∧ findTree t p f.tree = some y ∧ (getEdge y e).unacked = after) ∧
    (f.kind = 0x15 → ∃ t, exec (.throttleNotice port) s = .next t ∧ (vget t.links (Fin.ofNat 3 (port.val / 8))).evNoticeRx = true ∧
      (vget t.links (Fin.ofNat 3 (port.val / 8))).notice =
        (bitAt ((f.data.getD 4 0).getLsbD 0) 31 ||| fieldAt (f.data.getD 3 0).toNat 28 3 ||| fieldAt (f.data.getD 2 0).toNat 23 5 |||
          fieldAt (leNat (f.data.take 2) % 8192) 10 13 ||| fieldAt port.val 5 5))

/-- Left-to-right combination of the own chunk with those of the children. -/
def engSum (d : List Byte) (k : Nat) (own : List Byte) (cs : List (List Byte)) : List Byte × Bool :=
  cs.foldl (fun a c => ((combChunk d (4096 * k) a.1 c).1, a.2 || (combChunk d (4096 * k) a.1 c).2)) (own, false)

/-- ENGINE_COMBINE at the root of an ALL_REDUCE combines the chip's own chunk with those of its children, strictly left to right in the order of the
edges, and delivers the result on the chip; with a child's chunk missing it waits (R282), and so it does while the grant of its link die's engine
goes to another partition (R18). HELLO_SEND sends a HELLO on an edge that is not confirmed, and nothing for a tree that is not CONFIRMING. -/
def Claims.EngineCombine : Prop :=
  ∀ (s : State) (p : PartId) (n : Fin 8) (x : Tree) (r : TreeRec), findTree s p n.val = some x → treeRec s p n.val = some r →
    (∀ i o k own cs d, x.ops[i]? = some o → findOp x o.op = some o → x.st = .ready → colOp o.desc = 1 → parentEdge r = none → homeDie r = some d →
      o.parts.find? (fun q => q.1 = 255) = some (255, k, own) →
      (childEdges r).map (fun e => (o.parts.find? (fun q => q.1 = e && q.2.1 = k)).map (fun q => q.2.2)) = cs.map some →
      (engSum o.desc k own cs).2 = false → o.ovf = false →
      ∀ g, wrrPick 32 (linkWork s d) (wLink s) (vget s.links (Fin.ofNat 3 d)).rr = some g → g.1 = p.val →
      ∃ t y, exec (.engineCombine p n i) s = .next t ∧ findTree t p n.val = some y ∧
        (findOp y o.op).map (fun z => z.parts) = some (o.parts.filter (fun q => q.2.1 != k || q.1 = 254)) ∧
        ∃ g ∈ t.mesh, g.src = .link d ∧ g.dst = .red (rootRegion s p) ∧ ∃ c, g.body = .red c ∧ c.op = o.op ∧ c.chunk = k ∧
          c.data = (engSum o.desc k own cs).1) ∧
    (∀ i d g, homeDie r = some d → wrrPick 32 (linkWork s d) (wLink s) (vget s.links (Fin.ofNat 3 d)).rr = some g → g.1 ≠ p.val →
      exec (.engineCombine p n i) s = .next s) ∧
    (∀ i o k own e, x.ops[i]? = some o → o.parts.find? (fun q => q.1 = 255) = some (255, k, own) → e ∈ childEdges r →
      o.parts.find? (fun q => q.1 = e && q.2.1 = k) = none → exec (.engineCombine p n i) s = .next s) ∧
    (x.st ≠ .confirming → exec (.helloSend p n) s = .next s) ∧
    (∀ ed, x.st = .confirming → x.edges = [ed] → ed.confirmed = false → (getPort s (activePort r x 0)).st = .up →
      (getPort s (activePort r x 0)).txq = [] → (getPort s (activePort r x 0)).txRest = [] →
      (getPort s (activePort r x 0)).rsq = [] → (getPort s (activePort r x 0)).replay.length < 1024 →
      ∃ t, exec (.helloSend p n) s = .next t ∧
        (getPort t (activePort r x 0)).replay = (getPort s (activePort r x 0)).replay ++
          [((getPort s (activePort r x 0)).txSeq, frameBytes (plainFrame 0x10 n.val 0 (helloData r 0)) ++ List.replicate 170 0)] ∧
        (getPort t (activePort r x 0)).txData = (getPort s (activePort r x 0)).txData + 1)

/-! ### Accesses to registers (00_scope.md, R4 to R10; 01_structure.md, R33) -/

/-- An access of a function reaches the registers: the hub answers requests, and the function exists. -/
def accessOpen (s : State) (fn : Fn) (off : Nat) : Prop :=
  taprootUp s = true ∧ fnLive s fn = true ∧ ∀ k, accCore ⟨fn, off, 4, none⟩ = some k → (getRegion s (regionOf k)).power = .awake

/-- An access of another size or alignment than naturally aligned 32 or 64 bits, or to no register, ends with a bus error and changes no register: all that it leaves is
the answer and a fault record (R5, R33). -/
def Obligations.BusErrors : Prop :=
  ∀ (s : State) (fn : Fn) (off size : Nat) (c : Instr), taprootUp s = true → fnLive s fn = true →
    (c = .registerRead fn off size ∨ ∃ v, c = .registerWrite fn off size v) →
    ((size ≠ 4 ∧ size ≠ 8) ∨ off % size ≠ 0 ∨ regRead s fn off = none ∨ (size = 8 ∧ regRead s fn (off + 4) = none)) →
      ∃ t r, exec c s = .next t ∧ { t with resps := s.resps, flt := s.flt } = s ∧ t.resps = s.resps ++ [.busError] ∧
        t.flt = { s.flt with waiting := s.flt.waiting ++ [r] } ∧ r.cls = 0x3D ∧ r.address = BitVec.ofNat 64 off

/-- A 64-bit counter at two registers: a 32-bit read of the low half captures the high half, the next read of the high half returns what was captured, and
a 64-bit read returns both halves (R6). A register that is no counter answers its value; the command that names the low half of a counter finds none there and does nothing (the model's choice,
log 1). -/
def Obligations.CounterReads : Prop :=
  ∀ (s : State) (fn : Fn) (off : Nat) (c : BitVec 64), off % 4 = 0 → accessOpen s fn off →
    (regRead s fn off = some (.lo c) → ∀ i, i ∈ [Instr.counterLowRead fn off, .registerRead fn off 4] →
      ∃ t, exec i s = .next t ∧ t.resps = s.resps ++ [.value (c &&& 0xFFFFFFFF)] ∧
        t.hub.shadow.find? (fun e => e.1 = shadowKey fn (off + 4)) = some (shadowKey fn (off + 4), c.extractLsb' 32 32) ∧
        { t with hub := s.hub, resps := s.resps, freeCtr := s.freeCtr } = s) ∧
    (∀ x, regRead s fn off = some (.hi c) → s.hub.shadow.find? (fun e => e.1 = shadowKey fn off) = some (shadowKey fn off, x) →
      ∃ t, exec (.registerRead fn off 4) s = .next t ∧ t.resps = s.resps ++ [.value (x.setWidth 64)] ∧
        t.hub.shadow.find? (fun e => e.1 = shadowKey fn off) = none) ∧
    (regRead s fn off = some (.lo c) → regRead s fn (off + 4) = some (.hi c) → off % 8 = 0 →
      ∃ t, exec (.registerRead fn off 8) s = .next t ∧ t.resps = s.resps ++ [.value c] ∧ t.hub = s.hub) ∧
    (∀ n, regRead s fn off = some (.word n) → exec (.counterLowRead fn off) s = .next s ∧
      ∃ t, exec (.registerRead fn off 4) s = .next t ∧ t.resps = s.resps ++ [.value ((BitVec.ofNat 32 n).setWidth 64)] ∧ t.hub = s.hub)

/-- Writes by the access codes (R4, Table 0.5): an RW field takes the value written, a write of an RO register is ignored without error, and writing 1 clears an event bit but for one that
hardware sets in the same cycle. Hardware that is asked for a core of a region that sleeps wakes the region first (R338). -/
def Claims.RegisterWrites : Prop :=
  ∀ (s : State) (v hw : W32), taprootUp s = true →
    (s.clk.enHub.getLsbD 0 = true → exec (.registerWrite .pf 0x100008 4 (v.setWidth 64)) s = .next { s with cfg := { s.cfg with srcLo := v } }) ∧
    (s.clk.enHub.getLsbD 1 = true → exec (.registerWrite .pf 0x200018 4 (v.setWidth 64)) s = .next { s with sec := { s.sec with imgLo := v } }) ∧
    (s.clk.enHub.getLsbD 3 = true →
      exec (.registerWrite .pf 0x50000C 4 (v.setWidth 64)) s = .next { s with flt := { s.flt with logSel := v } } ∧
      exec (.registerWrite .pf 0x500008 4 (v.setWidth 64)) s = .next s ∧
      ∃ t, exec (.rw1cClear .pf 0x500004 v hw) s = .next t ∧
        t.flt.evRecord = (s.flt.evRecord && !(v.getLsbD 0 && !hw.getLsbD 0)) ∧ t.flt.evWrap = (s.flt.evWrap && !(v.getLsbD 1 && !hw.getLsbD 1)) ∧
        t.flt.evPart = (s.flt.evPart && !(v.getLsbD 2 && !hw.getLsbD 2)) ∧ t.flt.evSevered = (s.flt.evSevered && !(v.getLsbD 3 && !hw.getLsbD 3)) ∧
        t.flt.evOos = (s.flt.evOos && !(v.getLsbD 4 && !hw.getLsbD 4)) ∧ t.flt.log = s.flt.log) ∧
    (s.clk.enHub.getLsbD 4 = true →
      exec (.registerWrite .pf 0x60000C 4 (v.setWidth 64)) s = .next { s with hst := { s.hst with barGib := v.toNat % 512 } }) ∧
    (∀ (n : Fin 8), s.clk.enStack.getLsbD n.val = true → dieDown s (dieStack n.val) = false →
      exec (.registerWrite .pf (0x200004C + n.val * 0x100000) 4 (v.setWidth 64)) s =
        .next (modStack s n.val (fun t => { t with tg := { t.tg with seed := v } }))) ∧
    (∀ off size k, accCore ⟨.pf, off, size, none⟩ = some k → accessOk s ⟨.pf, off, size, none⟩ = true → (getRegion s (regionOf k)).power = .asleep →
      ∃ t, exec (.registerRead .pf off size) s = .next t ∧ (getRegion t (regionOf k)).power = .waking ∧ t.resps = s.resps ∧
        t.hub.waitAcc = s.hub.waitAcc ++ [⟨.pf, off, size, none⟩])

/-- The first 256 bytes of each partition's status block are a read-only copy of the capability block (R10), and the capabilities say
which dies a version of the device lacks (R2, R3). -/
def Obligations.CapabilityCopy : Prop :=
  ∀ (s : State) (p : PartId) (off : Nat), off < 0x100 →
    (s.clk.enHub.getLsbD 4 = true →
      regRead s (.vf p) off = regRead s .pf (0x1000 + off) ∧ regRead s .pf (0x680000 + p.val * 0x4000 + off) = regRead s .pf (0x1000 + off) ∧
      (∀ v, off % 4 = 0 → taprootUp s = true → (getPart s p).live = true →
        exec (.registerWrite (.vf p) off 4 v) s = .next s ∧ exec (.registerWrite .pf (0x1000 + off) 4 v) s = .next s)) ∧
    (s.fuses.code = 2 → ∃ n, regRead s .pf 0x1020 = some (.word n) ∧ n / 2 ^ 24 = 3) ∧
    (s.fuses.code = 3 → ∃ n, regRead s .pf 0x101C = some (.word n) ∧ n / 2 ^ 24 = 0x3F)

/-- Configuration requests are retried until Taproot runs; then one to a virtual function without its partition is an Unsupported Request, and another is served. What
configuration space holds is not this specification's: the data of a read are free (log 48). A vector that is masked under MSI-X is held pending, and sent when it is
unmasked (R304). -/
def Claims.ConfigRequests : Prop :=
  ∀ (s : State) (fn : Fn) (a : ConfigAcc),
    (hubRuns s = false → exec (.configRequest fn a) s = .next s) ∧
    (hubRuns s = true → taprootUp s = false → exec (.configRequest fn a) s = .next { s with resps := s.resps ++ [.retry] }) ∧
    (taprootUp s = true → fnLive s fn = false → exec (.configRequest fn a) s = .next { s with resps := s.resps ++ [.unsupported] }) ∧
    (taprootUp s = true → fnLive s fn = true → ∃ t r, exec (.configRequest fn a) s = .next t ∧ t.resps = s.resps ++ [r] ∧ r ≠ .retry ∧ r ≠ .unsupported) ∧
    (taprootUp s = true → fnLive s fn = true → ∀ v, v < vectorsOf fn →
      (∃ t, exec (.configRequest fn (.mask v true)) s = .next t ∧ (fn, v) ∈ t.hst.mask ∧ t.irqs = s.irqs) ∧
      (∃ t, exec (.configRequest fn (.mask v false)) s = .next t ∧ (fn, v) ∉ t.hst.mask ∧ (fn, v) ∉ t.hst.pend ∧
        t.irqs = s.irqs ++ (if (fn, v) ∈ s.hst.pend then [(fn, v)] else [])))

/-! ### The host interface (12_host.md, R288 to R305) -/

/-- Windows and messages (R291 to R294): a window write stores its bytes, modulo the window's size, and no other, and one to a
function without its partition is an Unsupported Request (R289); a taken message that passes every check enters the channel's buffer and
becomes LAST_ACCEPTED; one that fails leaves an ERROR entry with its code, and a wrong CRC stops the channel. (A write while the channel is STOPPED marks
no message: the model's reading, log 63.) -/
def Claims.HostWindows : Prop :=
  ∀ (s : State) (p : PartId) (c : Fin 8), chanRec s p c.val ≠ none →
    ((getPart s p).live = false → ∀ off data, exec (.windowWrite p c off data) s = .next { s with resps := s.resps ++ [.unsupported] }) ∧
    ((getPart s p).live = true → ∀ off data, data.length ≤ 65536 →
      ∃ t, exec (.windowWrite p c off data) s = .next t ∧
        (∀ i, i < data.length → some (memRead (getCh t p c.val).win ((off + i) % 65536)) = data[i]?) ∧
        (∀ a, (∀ i, i < data.length → (off + i) % 65536 ≠ a) → memRead (getCh t p c.val).win a = memRead (getCh s p c.val).win a) ∧
        ((getCh s p c.val).stopped = true → (getCh t p c.val).marks = (getCh s p c.val).marks)) ∧
    ((getCh s p c.val).stopped = true ∨ (getCh s p c.val).marks = [] ∨ devRoom s p c.val = false → exec (.messageTake p c) s = .next s) ∧
    ((getCh s p c.val).stopped = false → (getCh s p c.val).marks ≠ [] → devRoom s p c.val = true →
      let x := getCh s p c.val
      let hdr := winRead x.win x.d 64
      let n := ((hdr.getD 4 0).toNat % 64 + 1) * 64
      let body := winRead x.win (x.d + 64) n
      let hseq : W32 := BitVec.ofNat 32 (leNat (hdr.take 4))
      let code := if msgCheck x hdr body = 0 ∧ partResetting s p = true then 7 else msgCheck x hdr body
      ∃ t, exec (.messageTake p c) s = .next t ∧ vget (vget t.meters p) 11 = vget (vget s.meters p) 11 + BitVec.ofNat 64 (64 + n) ∧
        (getCh t p c.val).d = (if code = 1 then x.d else (x.d + 64 + n) % 65536) ∧ (getCh t p c.val).stopped = decide (code = 1) ∧
        (code = 0 → (getCh t p c.val).accepted = hseq ∧ ∃ m, (getCh t p c.val).buf = x.buf ++ [m] ∧ m.hseq = hseq ∧ m.body = body ∧ m.sent = false) ∧
        (code ≠ 0 → (getCh t p c.val).accepted = x.accepted ∧ (getCh t p c.val).buf = x.buf ∧ (getCh t p c.val).errs = x.errs + 1 ∧
          (getCh t p c.val).ring.held = x.ring.held ++ [⟨1, errBody hseq code 0xFFFFFFFF, 0, false⟩]))

/-- The body that the hub forwards next: partition and channel by their weights, and the record and body there (R293). -/
def forwardNext (s : State) : Option (PartId × Nat × HostWinRec × HostMsg) :=
  (wrrPick 32 (fun p => (List.range 8).any (chanWork s (Fin.ofNat 32 p))) (fun p => (getPart s (Fin.ofNat 32 p)).weights.getD 2 1) s.hst.rr).bind
    (fun rr =>
      let p : PartId := Fin.ofNat 32 rr.1
      (wrrPick 8 (chanWork s p) (fun c => ((chanRec s p c).map (fun w => w.weight)).getD 1) (getPst s p).rr).bind (fun cr =>
        match chanRec s p cr.1, nextBody (getCh s p cr.1) with
        | some w, some m => some (p, cr.1, w, m)
        | _, _ => none))

/-- A forwarded body goes to the context that its HOST_WINDOW record names and stays in the buffer until it is answered, or leaves it for the page manager (R293), where it is queued behind the others as a request
with its channel, its HSEQ and its entries, none of them applied, or, where its count disagrees with its length or its padding is not
zero, is refused with code NOT_POOL and 0 entries applied (R227). -/
def Claims.HostForwards : Prop :=
  ∀ (s : State),
    (forwardNext s = none → exec .hostBodyForward s = .next s) ∧
    (∀ p c w m k, forwardNext s = some (p, c, w, m) → m.dest = 0 → coreOfPcn (maskOf s p) w.core = some k →
      ∃ t, exec .hostBodyForward s = .next t ∧
        t.mesh = s.mesh ++ [⟨.host p c, .ctx k (Fin.ofNat 4 w.context), 0, .msg m.id (BitVec.ofNat 16 (0x400 + c))
          (BitVec.ofNat 16 (w.core * 4 + w.context)) m.tag (getCh s p c).epoch m.body⟩] ∧
        (getCh t p c).buf = updIf (fun y => y.id = m.id) (fun y => { y with sent := true }) (getCh s p c).buf) ∧
    (∀ p c w m, forwardNext s = some (p, c, w, m) → m.dest = 1 →
      let n := leNat (m.body.take 8)
      let good := 1 ≤ n ∧ n ≤ 255 ∧ m.body.length = (8 + 16 * n + 63) / 64 * 64 ∧ ∀ x ∈ m.body.drop (8 + 16 * n), x = 0
      let word := fun (i : Nat) => BitVec.ofNat 64 (leNat ((m.body.drop i).take 8))
      let new : KvReq := ⟨p, c, m.hseq, (List.range n).map (fun i => (word (8 + 16 * i), word (16 + 16 * i))), 0, none, none, 0, false, [], []⟩
      let front := (kvFront s p).getD new
      ∃ t, exec .hostBodyForward s = .next t ∧ t.mesh = s.mesh ∧ (getCh t p c).buf = (getCh s p c).buf.filter (fun y => y.id != m.id) ∧
        (good → front.ended = none → (∀ e, kvEntry front = some e → 1 ≤ kvOp e ∧ kvOp e ≤ 4) → kvEntry front ≠ none →
          t.kvp.reqs = s.kvp.reqs ++ [new]) ∧
        (¬ good → kvFront s p = none → devRoom s p c = true → t.kvp.evRefused = true ∧ t.kvp.reqs = s.kvp.reqs ∧
          (getCh t p c).ring.held = (getCh s p c).ring.held ++ [⟨2, leBytes 4 m.hseq.toNat ++ [0, 0, 1] ++ List.replicate 37 0, 0, false⟩]))

/-- The vector of a ring. -/
def ringVector : RingId → Fn × Nat
  | .ch p c => (.vf p, c.val)
  | .nr r => (.pf, 2 + r.val)

/-- The rings (R296 to R299): an entry that is written goes to its place in the ring, with the ring's tail and sequence number one on and ARM cleared, and raises the ring's vector where ARM was set, which is held pending while masked (R304); one that
cannot be written disables the ring with a record; one that fails its check at the egress is replaced by an ERROR entry. ENABLE from 0 to 1 empties the ring, and the size changes only while it is off. -/
def Claims.Rings : Prop :=
  ∀ (s : State) (q : RingId), ringExists s q = true →
    (∀ f b, (ringReady (getRing s q) = false ∨ (getRing s q).held = []) → exec (.entryWrite q f b) s = .next s) ∧
    (∀ e es, ringReady (getRing s q) = true → (getRing s q).held = e :: es →
      let r := getRing s q
      let addr := r.baseHi.toNat * 2 ^ 32 + r.baseLo.toNat + 64 * (r.tail.toNat % 2 ^ r.log2)
      (∃ t w, exec (.entryWrite q false false) s = .next t ∧ t.hostWrites = s.hostWrites ++ [w] ∧ w.addr = addr ∧ w.data.length = 20 + e.body.length ∧
        (getRing t q).tail = r.tail + 1 ∧ (getRing t q).issued = r.issued + 1 ∧ (getRing t q).arm = false ∧
        (r.arm = true → if ringVector q ∈ s.hst.mask then ringVector q ∈ t.hst.pend else ∃ l, t.irqs = s.irqs ++ ringVector q :: l)) ∧
      (∀ b, ∃ t x, exec (.entryWrite q true b) s = .next t ∧ t.hostWrites = s.hostWrites ∧ (getRing t q).enable = false ∧ (getRing t q).arm = false ∧
        t.flt.waiting = s.flt.waiting ++ [x] ∧ x.cls = 0x46 ∧ x.address = BitVec.ofNat 64 addr) ∧
      (∃ t w x, exec (.entryWrite q false true) s = .next t ∧ t.hostWrites = s.hostWrites ++ [w] ∧ w.addr = addr ∧ w.data[14]? = some 1 ∧
        t.flt.waiting = s.flt.waiting ++ [x] ∧ x.cls = 0x40 ∧ t.hst.evOutCheck = true)) ∧
    (∀ log2 arm, ∃ t, exec (.ringEnable q log2 arm) s = .next t ∧ (getRing t q).enable = true ∧ (getRing t q).arm = arm ∧
      ((getRing s q).enable = false → (getRing t q).tail = 0 ∧ (getRing t q).head = 0 ∧
        (getRing t q).log2 = (if 6 ≤ log2 ∧ log2 ≤ 16 then log2 else (getRing s q).log2)) ∧
      ((getRing s q).enable = true → (getRing t q).tail = (getRing s q).tail ∧ (getRing t q).head = (getRing s q).head ∧
        (getRing t q).log2 = (getRing s q).log2)) ∧
    exec (.ringArm q) s = .next (modRing s q (fun r => { r with arm := true })) ∧
    (∀ v, exec (.ringHeadWrite q v) s = .next (modRing s q (fun r => if ((r.tail - v).toNat < 2 ^ 31) then { r with head := v } else r)))

/-- RESTART opens a STOPPED channel at offset 0 (R292); a function reset clears ENABLE and ARM of the function's rings and
nothing else but what configuration space holds, of which the model has the masked and pending vectors of that function (R289; log 48); SNAP copies a partition's meters (R305). -/
def Claims.HostControls : Prop :=
  ∀ (s : State) (p : PartId) (c : Fin 8),
    (chanRec s p c.val ≠ none → (getCh s p c.val).stopped = true →
      exec (.restart p c) s = .next (modCh s p c.val (fun x => { x with stopped := false, d := 0, marks := [] }))) ∧
    ((getCh s p c.val).stopped = false → exec (.restart p c) s = .next s) ∧
    (let off := fun (r : Ring) => { r with enable := false, arm := false }
     let vectors := fun (t : State) (fn : Fn) =>
       (∀ v, (fn, v) ∉ t.hst.mask ∧ (fn, v) ∉ t.hst.pend) ∧
       ∀ g v, g ≠ fn → ((g, v) ∈ t.hst.mask ↔ (g, v) ∈ s.hst.mask) ∧ ((g, v) ∈ t.hst.pend ↔ (g, v) ∈ s.hst.pend)
     (∃ t, exec (.vfFlr p) s = .next t ∧ vectors t (.vf p) ∧
       { t with pst := s.pst, hst := { t.hst with mask := s.hst.mask, pend := s.hst.pend } } = s ∧
       (∀ q, q ≠ p → getPst t q = getPst s q) ∧ { getPst t p with ch := (getPst s p).ch } = getPst s p ∧
       ∀ i : Fin 8, getCh t p i.val = { getCh s p i.val with ring := off (getCh s p i.val).ring }) ∧
     (∃ t, exec .pfFlr s = .next t ∧ vectors t .pf ∧
       { t with hst := { t.hst with mask := s.hst.mask, pend := s.hst.pend, rings := s.hst.rings } } = s ∧
       ∀ i : Fin 8, vget t.hst.rings i = { vget s.hst.rings i with ring := off (vget s.hst.rings i).ring })) ∧
    ((getPart s p).live = true → exec (.snap p) s = .next (modPst s p (fun x => { x with snap := vget s.meters p, snaps := x.snaps + 1 }))) ∧
    ((getPart s p).live = false → exec (.snap p) s = .next s)

/-- The aperture (R301): an access that it does not take is an Unsupported Request, and one to an absent stack is a bus error, which leaves a record with its
offset (R5, R34); a write that finds more than 3 MiB buffered is dropped, counted and reported;
another access sends its units to the stack controller. -/
def Claims.Aperture : Prop :=
  ∀ (s : State) (off : Nat),
    exec .bar4Enable s = .next { s with hst := { s.hst with barOn := true, barEver := true } } ∧
    (∀ len data, s.hst.barOn = true → off < 2 ^ 39 → (siteMask s).getLsbD ((s.hst.barGib * 2 ^ 30 + off) % 2 ^ 39 / 2 ^ 36) = false →
      ∀ c ∈ [Instr.bar4Read off len, .bar4Write off data],
        ∃ t r, exec c s = .next t ∧ t.resps = s.resps ++ [.unsupported] ∧ t.flt.waiting = s.flt.waiting ++ [r] ∧ r.cls = 0x3D ∧
          r.address = BitVec.ofNat 64 off ∧ { t with resps := s.resps, flt := s.flt } = s) ∧
    (∀ len data, (s.hst.barOn = false ∨ 2 ^ 39 ≤ off) →
      exec (.bar4Read off len) s = .next { s with resps := s.resps ++ [.unsupported] } ∧
      exec (.bar4Write off data) s = .next { s with resps := s.resps ++ [.unsupported] }) ∧
    (∀ a len, barAddr s off = some a → 0 < len →
      ∃ t us, exec (.bar4Read off len) s = .next t ∧ us = unitsOf (len / 512 + 2) 0 a len ∧
        t.hst.reads = s.hst.reads ++ [⟨s.hst.nextId, a, List.replicate len 0, us.length, false⟩] ∧
        (getStack t (a / 2 ^ 36)).units = (getStack s (a / 2 ^ 36)).units ++ us.map (fun u => ⟨.bar4 s.hst.nextId u.1, none, u.2.1, u.2.2, none⟩)) ∧
    (∀ a data, barAddr s off = some a → barBuffered s ≤ 0x300000 →
      ∃ t, exec (.bar4Write off data) s = .next t ∧ t.hst.drops = s.hst.drops ∧
        (getStack t (a / 2 ^ 36)).units = (getStack s (a / 2 ^ 36)).units ++ (unitsOf (data.length / 512 + 2) 0 a data.length).map (fun u =>
          ⟨.bar4 s.hst.nextId u.1, none, u.2.1, u.2.2, some ((data.drop u.1).take u.2.2)⟩)) ∧
    (∀ a data, barAddr s off = some a → 0x300000 < barBuffered s →
      ∃ t, exec (.bar4Write off data) s = .next t ∧ t.stks = s.stks ∧ t.hst.drops = s.hst.drops + 1 ∧ t.hst.evDrop = true)

/-! ### Configuration streams (02_configuration_stream.md, R44 to R56) -/

/-- A stream has ended without effect: its error and what it names, CFG_EVENT.REJECTED, and the floor, the partitions and the keys as they were. -/
def rejectedWith (s t : State) (code index : Nat) : Prop :=
  t.cfg.st = .rejected ∧ t.cfg.error = code ∧ t.cfg.index = index % 2 ^ 24 ∧ t.cfg.run = none ∧ t.cfg.evRejected = true ∧
    t.cfg.floor = s.cfg.floor ∧ t.parts = s.parts ∧ t.cfg.keys = s.cfg.keys ∧ t.cfg.pins = s.cfg.pins ∧ t.routes = s.routes ∧ t.trees = s.trees

/-- No stream waits for Taproot to end a fetch (R323). -/
def noStreamWaits (s : State) : Prop := ∀ q ∈ s.sec.waiting, ∀ tops len src, q ≠ .stream tops len src

/-- A stream is loaded while none is in progress, and refused with BUSY while one is, which goes on; one above 64 MiB is TOO_LARGE when it is served (Table 2.7, R52). It
waits while Taproot fetches an image or a key table (R323). (That Tops is answered with the code of the error is the model's choice, log 42.) A stream before its
commit can be abandoned, and one whose fetch fails is rejected with the place of the failed read (R50, R51). -/
def Claims.StreamBegins : Prop :=
  ∀ (s : State) (n : Nat), s.flt.held = [] →
    (cfgServed s = false → exec .load s = .next s) ∧ (topsRuns s = false → exec (.submitStream n) s = .next s) ∧
    (cfgServed s = true → s.cfg.run ≠ none ∨ ¬ noStreamWaits s → exec .load s = .next { s with cfg := { s.cfg with error := 0x1A } }) ∧
    (topsRuns s = true → s.cfg.run ≠ none ∨ ¬ noStreamWaits s → exec (.submitStream n) s = .next { s with sec := { s.sec with out := s.sec.out ++ [.answer 0x1A] } }) ∧
    (∀ c len tops, ((c = .load ∧ cfgServed s = true ∧ len = s.cfg.len.toNat ∧ tops = false) ∨ (c = .submitStream len ∧ topsRuns s = true ∧ tops = true)) →
      s.cfg.run = none → noStreamWaits s →
      let src := if tops then none else some (s.cfg.srcHi.toNat * 2 ^ 32 + s.cfg.srcLo.toNat)
      (len ≤ 2 ^ 26 → fetching s = false → s.sec.waiting = [] →
        ∃ t r, exec c s = .next t ∧ t.cfg.st = .fetch ∧ t.cfg.error = 0 ∧ t.cfg.run = some r ∧ r.tops = tops ∧ r.len = len ∧ r.wait = .fetch ∧
        r.src = src ∧ { t with cfg := s.cfg } = s) ∧
      (fetching s = true →
        exec c s = .next { s with sec := { s.sec with waiting := s.sec.waiting ++ [.stream tops len src] } }) ∧
      (2 ^ 26 < len → fetching s = false → s.sec.waiting = [] → ∃ t, exec c s = .next t ∧ rejectedWith s t 0x17 0)) ∧
    (s.cfg.run = none → exec .abort s = .next s) ∧
    (∀ r, s.cfg.run = some r → r.wait = .reset → exec .abort s = .next s) ∧
    (∀ r, s.cfg.run = some r → r.wait ≠ .reset → noStreamWaits s → ∃ t, exec .abort s = .next t ∧ rejectedWith s t 0x1E 0) ∧
    (∀ r off, s.cfg.run = some r → r.wait = .fetch → r.tops = false → off < r.len → noStreamWaits s →
      ∃ t, exec (.fetchFault off) s = .next t ∧ rejectedWith s t 0x1F (off / 64)) ∧
    (∀ r hdr, s.cfg.run = some r → r.wait = .fetch → r.hdr = none → 64 ≤ hdr.length → hdr.length ≤ r.len →
      exec (.streamHeaderFetched hdr) s = .next { s with cfg := { s.cfg with run := some { r with hdr := some ((streamHdr hdr).scope, (streamHdr hdr).part) } } })

/-- The state with a fetched stream in the staging area, from which Taproot reads it. -/
def withStaged (s : State) (bytes : List Byte) : State :=
  modRun (submitUnits (writeUnit s 0 0xFFC000000 bytes) none 0xFFC000000 bytes.length (fun _ => .taproot) none).1 (fun x => { x with bytes := bytes, hdr := some ((streamHdr bytes).scope, (streamHdr bytes).part) })

/-- A fetched stream is checked from its staging copy (R48, R51): the first check that it fails rejects it, and it changes nothing; one that passes them all enters APPLY, with the regions
of a CREATE stream held in reset (R50). While stack 0, which holds the staging copy, is in self-refresh the check has not begun (R340). (Which of several errors is named, and that every key
record counts as a change of the key table, are the model's choices, log 87.) -/
def Claims.StreamChecked : Prop :=
  ∀ (s : State) (r : CfgRun) (bytes : List Byte), s.flt.held = [] → noStreamWaits s → s.cfg.run = some r → r.wait = .fetch →
    bytes.length = r.len →
    ((getStack s 0).selfRef = true → exec (.streamFetchComplete bytes) s = .next s) ∧
    ((getStack s 0).selfRef = false →
    (∀ e, splitStream r.len bytes = .inl e → ∃ t, exec (.streamFetchComplete bytes) s = .next t ∧ rejectedWith s t e.code e.index) ∧
    (∀ x e, splitStream r.len bytes = .inr x → streamErr (withStaged s bytes) bytes x = some e →
      ∃ t, exec (.streamFetchComplete bytes) s = .next t ∧ rejectedWith s t e.code e.index) ∧
    (∀ x, splitStream r.len bytes = .inr x → streamErr (withStaged s bytes) bytes x = none →
      ∃ t y, exec (.streamFetchComplete bytes) s = .next t ∧ t.cfg.st = .apply ∧ t.cfg.floor = s.cfg.floor ∧ t.parts = s.parts ∧ t.cfg.run = some y ∧
        y.bytes = bytes ∧ y.wait = (if x.hdr.scope = 4 then .teardown else if changesKeys x then .table else .commit) ∧
        (x.hdr.scope = 2 → ∀ g ∈ regionsOfMask (x.mask (withStaged s bytes)), (getRegion t g).held = true)))

/-- The commit (R50): the floor rises to the stream's SEQUENCE and the stream is DONE; a CREATE stream's partition exists and owns its regions, an AMEND stream adds its digest, a CHIP stream's
digest becomes the chip's. An edge whose ports are not usable stops the commit (R273). -/
def Claims.StreamCommits : Prop :=
  ∀ (s : State) (r : CfgRun) (x : Strm), s.flt.held = [] → noStreamWaits s → s.cfg.run = some r → r.wait = .commit → stagedStream s = some x →
    (∀ e, portErr s x = some e → ∃ t, exec .streamCommit s = .next t ∧ rejectedWith s t e.code e.index) ∧
    (portErr s x = none →
      ∃ t, exec .streamCommit s = .next t ∧ t.cfg.st = .done ∧ t.cfg.error = 0 ∧ t.cfg.run = none ∧ t.cfg.evDone = true ∧
        t.cfg.floor = BitVec.ofNat 64 x.hdr.seq ∧
        (x.hdr.scope = 2 → (getPart t (Fin.ofNat 32 x.hdr.part)).live = true ∧ (getPart t (Fin.ofNat 32 x.hdr.part)).digest = x.digest ∧
          ∀ g ∈ regionsOfMask (partOf x).regions, (getRegion t g).owner = some (Fin.ofNat 32 x.hdr.part)) ∧
        (x.hdr.scope = 3 → (getPart t (Fin.ofNat 32 x.hdr.part)).amends = (getPart s (Fin.ofNat 32 x.hdr.part)).amends ++ [x.digest]) ∧
        (x.hdr.scope ≠ 2 → x.hdr.scope ≠ 3 → t.cfg.chipDigest = x.digest ∧ t.cfg.keys = keysAfter s.cfg.keys x.recs ∧ t.parts = s.parts))

/-- Commits with a step of their own: a TEARDOWN stream commits once no reset is in progress, with the start of its partition's reset (R52); a stream that changes keys commits once its sealed table
is stored, with the next fuse blown, and is rejected with APPLY_FAULT after 2^20 ticks without that (R318). -/
def Claims.SpecialCommits : Prop :=
  ∀ (s : State) (r : CfgRun) (x : Strm), s.flt.held = [] → noStreamWaits s → s.cfg.run = some r → stagedStream s = some x →
    (r.wait = .teardown → s.flt.run ≠ none → exec .teardownCommit s = .next s) ∧
    (r.wait = .teardown → s.flt.run = none → ∃ t, exec .teardownCommit s = .next t ∧ t.cfg.floor = BitVec.ofNat 64 x.hdr.seq ∧
      t.flt.run = some ⟨4, x.hdr.part, 0, true, 1, false⟩ ∧ t.cfg.run = some { r with wait := .reset }) ∧
    (r.wait = .table → x.hdr.scope = 1 → r.age ≤ 2 ^ 20 → ∃ t, exec .tableStored s = .next t ∧ t.fuses.enrolled = true ∧
      t.fuses.epoch = (if s.fuses.enrolled then s.fuses.epoch + 1 else 0) ∧ t.cfg.st = .done ∧ t.cfg.keys = keysAfter s.cfg.keys x.recs ∧
      t.sec.table = sealTable (keysAfter s.cfg.keys x.recs) t.fuses.epoch) ∧
    (r.wait = .table → 2 ^ 20 < r.age → ∃ t, exec .tableStored s = .next t ∧ rejectedWith s t 0x18 0x18) ∧
    (r.wait = .table → r.age < 2 ^ 20 → exec .tableStoredTimeout s = .next s) ∧
    (r.wait = .table → 2 ^ 20 ≤ r.age → ∃ t, exec .tableStoredTimeout s = .next t ∧ rejectedWith s t 0x18 0x18)

/-! ### Claims of Tops and the heartbeat pins (02_configuration_stream.md, R44, R46, R47) -/

/-- Tops may claim a pin or a timer that no applied stream owns, but never THERMTRIP_N (8) or CYCLE_REQ_N (9), and may release what it holds; a heartbeat pin goes low when its period has passed and
high again 16 ticks later. (The answers 0 and 1 to Tops are the model's choice, log 42, and so is that a CLAIM may name what Tops already holds, log 81.) -/
def Claims.PinClaims : Prop :=
  ∀ (s : State) (pin timer : Option Nat),
    (topsRuns s = false → exec (.claim pin timer) s = .next s ∧ exec (.release pin timer) s = .next s) ∧
    (topsRuns s = true → (∃ n, pin = some n ∧ (n = 8 ∨ n = 9)) ∨ s.cfg.pins.any (fun y => y.owner = .stream && pinNames y pin timer) = true →
      exec (.claim pin timer) s = .next { s with sec := { s.sec with out := s.sec.out ++ [.answer 1] } }) ∧
    (topsRuns s = true → (pin ≠ none ∨ timer ≠ none) → (∀ n, pin = some n → n ≤ 7) → (∀ n, timer = some n → n ≤ 15) →
      s.cfg.pins.any (fun y => y.owner = .stream && pinNames y pin timer) = false →
      ∃ t y, exec (.claim pin timer) s = .next t ∧ y ∈ t.cfg.pins ∧ y.owner = .tops ∧ y.pin = pin ∧ y.timer = timer ∧ t.sec.out = s.sec.out ++ [.answer 0] ∧
        (∀ z ∈ s.cfg.pins, z.owner = .stream → z ∈ t.cfg.pins)) ∧
    (topsRuns s = true → s.cfg.pins.any (fun y => y.owner = .tops && y.pin == pin && y.timer == timer) = true →
      ∃ t, exec (.release pin timer) s = .next t ∧ t.sec.out = s.sec.out ++ [.answer 0] ∧
        t.cfg.pins.any (fun y => y.owner = .tops && y.pin == pin && y.timer == timer) = false) ∧
    (∀ (n : Fin 8) y, s.cfg.pins = [y] → y.pin = some n.val → y.func = 1 →
      (y.low = false → y.period ≤ y.count → exec (.trayHeartbeat n) s = .next { s with cfg := { s.cfg with pins := [{ y with low := true, count := 0 }] } }) ∧
      (y.low = true → 16 ≤ y.count → exec (.trayHeartbeatEnd n) s = .next { s with cfg := { s.cfg with pins := [{ y with low := false }] } }) ∧
      (y.low = false → y.count < y.period → exec (.trayHeartbeat n) s = .next s) ∧ (y.low = true → y.count < 16 → exec (.trayHeartbeatEnd n) s = .next s))

/-! ### Firmware, identity and reports (13_trust.md) -/

/-- A request that Taproot serves at once: no stream and no fetch of Taproot is in progress, and no request waits. -/
def svcFree (s : State) : Prop :=
  taprootUp s = true ∧ s.cfg.run = none ∧ s.sec.imgFetch = none ∧ s.sec.ktFetch = none ∧ s.sec.waiting = []

/-- COMMIT raises the floors to the versions that run, REVOKE_KEY0 revokes image key 0 where everything that runs was signed under key 1, and neither ever lowers a floor (R313). While a stream, or a fetch
of Taproot, is in progress each request waits in its order. -/
def Claims.FloorsAndKeys : Prop :=
  ∀ (s : State),
    (taprootUp s = false → exec .commit s = .next s ∧ exec .revokeKey0 s = .next s) ∧
    (svcFree s → exec .commit s = .next { s with fuses := { s.fuses with
        patchFloor := max s.fuses.patchFloor ((s.sec.patch.map (fun i => i.svn)).getD 0),
        topsFloor := max s.fuses.topsFloor ((s.sec.topsImg.map (fun i => i.svn)).getD 0) } }) ∧
    (svcFree s → exec .revokeKey0 s = .next (if s.sec.topsImg.any (fun i => i.key = 1) && s.sec.patch.all (fun i => i.key = 1)
      then { s with fuses := { s.fuses with key0Revoked := true } } else s)) ∧
    (taprootUp s = true → s.cfg.run ≠ none ∨ s.sec.imgFetch ≠ none ∨ s.sec.ktFetch ≠ none →
      exec .commit s = .next { s with sec := { s.sec with waiting := s.sec.waiting ++ [.commit] } } ∧
      exec .revokeKey0 s = .next { s with sec := { s.sec with waiting := s.sec.waiting ++ [.revoke] } })

/-- Reports (R321 to R323): the answer to a request of a function or of Tops is its status with, where it is granted, the signed report; a virtual function may ask for its own partition only
(NOT_ALLOWED, 2), a partition that does not exist is NO_PARTITION (1), and a nonce that is not 32 bytes or non-zero reserved bytes are MALFORMED (3).
A function's request before Taproot runs is retried, and a fifth waiting request of a transport gets status 3. -/
def Claims.Reports : Prop :=
  ∀ (s : State) (fn : Fn) (q : ReportReq) (sc pad : Nat),
    let own : Option PartId := match fn with | .pf => none | .vf p => some p
    let granted : Nat → Nat := fun x => if own.any (fun p => p.val != x) then 2
      else if x ≠ 0xFF ∧ (31 < x ∨ (getPart s (Fin.ofNat 32 x)).live = false) then 1 else 0
    let status := if q.nonce.length ≠ 32 ∨ q.pad ≠ 0 then 3 else granted q.scope
    let chainStatus := if pad ≠ 0 then 3 else granted sc
    let about : Option PartId := if q.scope = 0xFF then none else some (Fin.ofNat 32 q.scope)
    (taprootUp s = false → exec (.doeReport fn q) s = .next { s with resps := s.resps ++ [.retry] } ∧
      exec (.doeChain ⟨fn, ⟨sc, pad⟩⟩) s = .next { s with resps := s.resps ++ [.retry] }) ∧
    (taprootUp s = true → fnLive s fn = false → exec (.doeReport fn q) s = .next { s with resps := s.resps ++ [.unsupported] } ∧
      exec (.doeChain ⟨fn, ⟨sc, pad⟩⟩) s = .next { s with resps := s.resps ++ [.unsupported] }) ∧
    (svcFree s → fnLive s fn = true →
      (∃ t b, exec (.doeReport fn q) s = .next t ∧ t.resps = s.resps ++ [.bytes 0x41 (leBytes 4 status ++ b)] ∧
        (status = 0 → b = signedReport s about q.nonce ∧ t.sec.reports = s.sec.reports + 1) ∧
        (status ≠ 0 → b = [] ∧ t.sec.reports = s.sec.reports)) ∧
      exec (.doeChain ⟨fn, ⟨sc, pad⟩⟩) s = .next { s with resps := s.resps ++ [.bytes 0x41 (leBytes 4 chainStatus ++ (if chainStatus = 0 then s.sec.chain else []))] }) ∧
    (topsRuns s = false → exec (.report q) s = .next s) ∧
    (topsRuns s = true → svcFree s → fn = .pf →
      ∃ t b, exec (.report q) s = .next t ∧ t.sec.out = s.sec.out ++ [.report (leBytes 4 status ++ b)] ∧ (status = 0 → b = signedReport s about q.nonce)) ∧
    (taprootUp s = true → fnLive s fn = true → 4 ≤ (s.sec.waiting.filter (fun r => sameTransport (.doe fn 1 q.scope q.pad q.nonce) r)).length →
      exec (.doeReport fn q) s = .next { s with resps := s.resps ++ [.bytes 0x41 (leBytes 4 3)] })

/-- Images and key tables from the operator (R314, R319): a command is served as Taproot's other requests are, and one that the state of the device does not allow is
refused with code 9; otherwise Taproot fetches from the address in its source register. An image that passes its checks becomes the running Tops, one that fails leaves its code and its event;
a table that passes is adopted and goes to both copies in flash. -/
def Claims.ImagesAndTables : Prop :=
  ∀ (s : State) (b : List Byte),
    (svcFree s →
      (s.sec.imgDone = true → exec .imgLoad s = .next { s with sec := (if s.sec.tops = .noImage
        then { s.sec with imgDone := false, imgFetch := some (s.sec.imgHi.toNat * 2 ^ 32 + s.sec.imgLo.toNat, s.sec.imgLen.toNat) }
        else { s.sec with imgDone := true, imgCode := 9 }) }) ∧
      (s.sec.ktDone = true → exec .recover s = .next { s with sec := (if s.sec.kt = .unrecovered
        then { s.sec with ktDone := false, ktFetch := some (s.sec.ktHi.toNat * 2 ^ 32 + s.sec.ktLo.toNat) }
        else { s.sec with ktDone := true, ktCode := 9 }) })) ∧
    (taprootUp s = true → s.cfg.run ≠ none →
      (s.sec.imgDone = true → exec .imgLoad s = .next { s with sec := { s.sec with imgDone := false, waiting := s.sec.waiting ++ [.load] } }) ∧
      (s.sec.ktDone = true → exec .recover s = .next { s with sec := { s.sec with ktDone := false, waiting := s.sec.waiting ++ [.recover] } })) ∧
    (taprootUp s = false → exec .imgLoad s = .next s ∧ exec .recover s = .next s) ∧
    (s.sec.imgFetch = none → exec (.imgFetchComplete b) s = .next s) ∧ (s.sec.ktFetch = none → exec (.ktFetchComplete b) s = .next s) ∧
    (∀ a, s.sec.imgFetch = some (a, b.length) → s.sec.tops = .noImage → s.sec.waiting = [] →
      ∃ t, exec (.imgFetchComplete b) s = .next t ∧ t.sec.imgDone = true ∧ t.sec.imgFetch = none ∧ t.sec.imgCode = imgCheck s 2 true b ∧
        (imgCheck s 2 true b = 0 → t.sec.tops = .recovery ∧ t.sec.topsImg = some (imgOf 2 b) ∧ t.sec.evImg = s.sec.evImg ∧ t.hub.phase = .b ∧
          t.sec.codeRam = (b.drop 64).take (blkField b 16 4) ∧ t.sec.entry = some (blkField b 20 4)) ∧
        (imgCheck s 2 true b ≠ 0 → t.sec.tops = .noImage ∧ t.sec.topsImg = s.sec.topsImg ∧ t.sec.evImg = true)) ∧
    (s.sec.ktFetch ≠ none → s.sec.kt = .unrecovered → s.sec.waiting = [] →
      ∃ t, exec (.ktFetchComplete b) s = .next t ∧ t.sec.ktDone = true ∧ t.sec.ktFetch = none ∧ t.sec.ktCode = tableCheck s b ∧
        (tableCheck s b = 0 → t.sec.kt = .valid ∧ t.cfg.keys = tableKeys b ∧ t.sec.evRecovered = true ∧ t.sec.out = s.sec.out ++ [.table 0 b, .table 1 b]) ∧
        (tableCheck s b ≠ 0 → t.sec.kt = .unrecovered ∧ t.cfg.keys = s.cfg.keys))

/-- Guest certificates (R324, R325): a certificate that fails its checks is rejected at once; one that passes them is challenged, and becomes the site's with a good signature within 2^16 ticks; any other answer, or none in time, rejects it.
The challenge is of 32 free bytes (log 16) and is sent to the guest. A failing offer or answer leaves a certificate accepted earlier as it was (the model's
reading, log 65). -/
def Claims.GuestCertificates : Prop :=
  ∀ (s : State) (g : Fin 2) (b : List Byte),
    (taprootUp s = false ∨ (getGuest s g.val).st ≠ .admitted → exec (.guestCertOffer g b) s = .next s) ∧
    (taprootUp s = true → (getGuest s g.val).st = .admitted → certGood s b = false →
      exec (.guestCertOffer g b) s = .next { s with sec := { s.sec with trial := vset s.sec.trial g none, evReject := true } }) ∧
    (taprootUp s = true → (getGuest s g.val).st = .admitted → certGood s b = true →
      ∃ t c ch, exec (.guestCertOffer g b) s = .next t ∧ vget t.sec.trial g = some (c, ch, 0) ∧ c.pub = (b.drop 40).take 57 ∧ c.id = (b.drop 8).take 16 ∧
        ch.length = 32 ∧ vget t.sec.cert g = vget s.sec.cert g ∧ (getGuest t g.val).side = (getGuest s g.val).side ++ [ch]) ∧
    (vget s.sec.trial g = none → exec (.guestChallengeResponse g b) s = .next s ∧ exec (.guestChallengeTimeout g) s = .next s) ∧
    (∀ c ch age, vget s.sec.trial g = some (c, ch, age) →
      (age ≤ 2 ^ 16 → s.cfg.keys.getD c.issuer [] = c.issuerKey → edVerify c.pub ctxGst (shake256 64 (ch ++ c.id)) b = true →
        exec (.guestChallengeResponse g b) s = .next { s with sec := { s.sec with trial := vset s.sec.trial g none, cert := vset s.sec.cert g (some c), evAccept := true } }) ∧
      (2 ^ 16 < age ∨ edVerify c.pub ctxGst (shake256 64 (ch ++ c.id)) b = false →
        exec (.guestChallengeResponse g b) s = .next { s with sec := { s.sec with trial := vset s.sec.trial g none, evReject := true } }) ∧
      (age < 2 ^ 16 → exec (.guestChallengeTimeout g) s = .next s) ∧
      (2 ^ 16 ≤ age → exec (.guestChallengeTimeout g) s = .next { s with sec := { s.sec with trial := vset s.sec.trial g none, evReject := true } }))

/-- What a read by Tops of a register of BAR0 returns: a word; of a counter the low half, whose read keeps the high half for the next read of
it, or that high half (R6). -/
def topsReads (s t : State) (addr : Nat) (v : W32) : Prop :=
  (∀ n, regRead s .pf addr = some (.word n) → v = BitVec.ofNat 32 n ∧ t.hub = s.hub) ∧
  (∀ c, regRead s .pf addr = some (.lo c) → v = c.setWidth 32 ∧
    t.hub.shadow.find? (fun e => e.1 = shadowKey .pf (addr + 4)) = some (shadowKey .pf (addr + 4), c.extractLsb' 32 32)) ∧
  (∀ c x, regRead s .pf addr = some (.hi c) → s.hub.shadow.find? (fun e => e.1 = shadowKey .pf addr) = some (shadowKey .pf addr, x) → v = x)

/-- Watching Tops (R309, R377, R378): a running Tops whose heartbeat has not moved by the check, or whose data memory fails, is restarted with a record; an access that Table 13.2 does not allow ends with a bus error and a record,
a misaligned register and one of a unit that the table does not give to Tops among them;
a read that it allows answers the register or the memory, a write that it allows is done, and a request code that Table 13.3 does not list is refused;
a memory of Taproot that fails resets the chip. (The answer 1 to such a code is the model's choice, log 42; that a write moves the heartbeat by one step is its
reading, log 63.) -/
def Claims.WatchingTops : Prop :=
  ∀ (s : State),
    (s.tick % 2 ^ 16 ≠ 0 → exec .heartbeatCheck s = .next s) ∧
    (s.tick % 2 ^ 16 = 0 → topsRuns s = true → s.flt.heartbeat ≠ s.flt.lastBeat →
      exec .heartbeatCheck s = .next { s with flt := { s.flt with lastBeat := s.flt.heartbeat } }) ∧
    (∀ c, (c = .heartbeatCheck ∧ s.tick % 2 ^ 16 = 0 ∧ s.flt.heartbeat = s.flt.lastBeat) ∨ c = .hubMemUncorrectable .topsData →
      topsRuns s = true → s.flt.topsCount ≤ 2 → s.cfg.run = none →
      ∃ t r, exec c s = .next t ∧ t.sec.tops = .restarting ∧ t.sec.evRestart = true ∧ t.flt.waiting = s.flt.waiting ++ [r] ∧
        r.cls = (if c = .heartbeatCheck then 0x42 else 0x43) ∧ (∀ y ∈ t.cfg.pins, y.owner ≠ .tops) ∧ t.parts = s.parts) ∧
    (∀ u w off addr, topsRuns s = true → topsMay s u w.isSome off addr = false →
      ∃ t r, exec (.topsBusAccess u w off addr) s = .next t ∧ t.sec.out = s.sec.out ++ [.busError] ∧ t.flt.waiting = s.flt.waiting ++ [r] ∧ r.cls = 0x41 ∧
        r.address = BitVec.ofNat 64 addr) ∧
    (∀ w off addr, topsRuns s = true → (addr % 4 ≠ 0 ∨ (∀ q, fnPlace .pf addr = some q → telemetryPlace q = false) ∧ (w = none ∨ addr ≠ 0x500038)) →
      ∃ t, exec (.topsBusAccess .telemetry w off addr) s = .next t ∧ t.sec.out = s.sec.out ++ [.busError]) ∧
    (∀ w addr, topsRuns s = true → ∀ off, off % 4 ≠ 0 → ∃ t, exec (.topsBusAccess .sec w off addr) s = .next t ∧ t.sec.out = s.sec.out ++ [.busError]) ∧
    (∀ u off addr, topsRuns s = true → topsMay s u false off addr = true →
      ∃ t v, exec (.topsBusAccess u none off addr) s = .next t ∧
        (u = .sec → v = BitVec.ofNat 32 (regNow s .pf (0x200000 + off))) ∧ (u = .telemetry → topsReads s t addr v) ∧
        (u = .topsCode → v = BitVec.ofNat 32 (leNat ((s.sec.codeRam.drop off).take 4))) ∧
        (u = .topsData → v = BitVec.ofNat 32 (leNat (memReadBytes s.sec.dataRam off 4))) ∧ (u ≠ .telemetry → t.hub = s.hub) ∧
        t = { s with freeCtr := t.freeCtr, hub := t.hub, sec := { s.sec with out := s.sec.out ++ [.word v] } }) ∧
    (∀ off addr (val : W32), topsRuns s = true → off + 4 ≤ 2 ^ 23 →
      ∃ t, exec (.topsBusAccess .topsData (some val) off addr) s = .next t ∧ { t with sec := s.sec } = s ∧
        (∀ i, i < 4 → memRead t.sec.dataRam (off + i) = val.extractLsb' (8 * i) 8) ∧
        ∀ a, (a < off ∨ off + 4 ≤ a) → memRead t.sec.dataRam a = memRead s.sec.dataRam a) ∧
    (∀ off addr val q, topsRuns s = true → addr ≠ 0x500038 → topsMay s .telemetry true off addr = true → fnPlace .pf addr = some q →
      exec (.topsBusAccess .telemetry (some val) off addr) s = .next (writeAt s val q)) ∧
    (∀ off addr val, topsRuns s = true → val.toNat = 0 ∨ 7 < val.toNat →
      exec (.topsBusAccess .mailbox (some val) off addr) s = .next { s with sec := { s.sec with out := s.sec.out ++ [.answer 1] } }) ∧
    (∀ off val, topsRuns s = true → topsMay s .telemetry true off 0x500038 = true → exec (.topsBusAccess .telemetry (some val) off 0x500038) s = .next { s with flt := { s.flt with heartbeat := s.flt.heartbeat + 1 } }) ∧
    (∀ m, m ∈ [HubMem.rom, .patch, .data] → taprootUp s = true → ∃ t, exec (.hubMemUncorrectable m) s = .next t ∧ t.flt.chipCause = 4 ∧ t.parts = State.reset.parts) ∧
    (taprootUp s = true → ∃ t, exec (.hubMemUncorrectable .topsCode) s = .next t ∧ t.flt.chipCause = 7)

/-! ### Resets (16_faults.md, R379 to R388) -/

/-- A request for a unit that the operator may reset: the device is in service, the unit is owned, nothing is being reset, and no reset of it is recent. -/
def mayReset (s : State) (u t c : Nat) : Prop :=
  s.flt.oos = false ∧ targetOwned s u t = true ∧ s.flt.run = none ∧ recentReset s u t c = false

/-- The command asks for a reset of the unit. -/
def asksReset (k : CoreId) (c : CtxId) (r : RegionId) (p : PartId) (u : Nat) (q : Instr) : Prop :=
  (u = 1 ∧ q = .resetContext k c) ∨ (u = 2 ∧ q = .resetCore k) ∨ (u = 3 ∧ q = .resetRegion r) ∨ (u = 4 ∧ q = .resetPartition p)

/-- Requests for a reset (R380, R381, R385): refused out of service (3), with no partition's unit named (2), and while another reset is in progress that does not contain the unit (1), but for a
partition that a stream in progress may concern, whose request waits; one for a unit within the reset in progress completes with it; otherwise the reset starts and stops
the unit: the contexts it covers are HALTED with their inboxes empty and without refusal marks. -/
def Claims.ResetRequests : Prop :=
  ∀ (s : State) (k : CoreId) (c : CtxId) (r : RegionId) (p : PartId) (u : Nat) (q : Instr), asksReset k c r p u q →
    let x := if u ≤ 2 then k.val else if u = 3 then r.val else p.val
    let c' := if u = 1 then c.val else 0
    (s.flt.oos = true → exec q s = .next { s with flt := { s.flt with stDone := true, stUnit := u, stCode := 3 } }) ∧
    (s.flt.oos = false → targetOwned s u x = false → exec q s = .next { s with flt := { s.flt with stDone := true, stUnit := u, stCode := 2 } }) ∧
    (∀ y, s.flt.oos = false → targetOwned s u x = true → s.flt.run = some y → resetContains s y u x c' = true →
      exec q s = .next { s with flt := { s.flt with stDone := false, stUnit := y.unit, stCode := 0 } }) ∧
    (∀ y, s.flt.oos = false → targetOwned s u x = true → s.flt.run = some y → resetContains s y u x c' = false → u = 4 → recentReset s u x c' = false →
      waitsOnStream s p.val = true →
      ∃ t, exec q s = .next t ∧ t.flt.run = some y ∧ t.flt.stDone = false ∧ t.flt.stUnit = 4 ∧ t.flt.held = s.flt.held ++ [⟨4, p.val, 0, false, 0, false⟩] ∧
        { t with flt := s.flt } = s) ∧
    (∀ y, s.flt.oos = false → targetOwned s u x = true → s.flt.run = some y → resetContains s y u x c' = false → recentReset s u x c' = false →
      (u = 4 → waitsOnStream s p.val = false) →
      exec q s = .next { s with flt := { s.flt with stDone := true, stUnit := u, stCode := 1 } }) ∧
    (mayReset s u x c' → u ≤ 3 →
      ∃ t, exec q s = .next t ∧ t.flt.run = some ⟨u, x, c', false, 1, false⟩ ∧ t.flt.stDone = false ∧ t.flt.stUnit = u ∧ t.flt.stCode = 0 ∧
        (u = 1 → (getCtx t k c).st = .halted ∧ vget (getCore t k).inbox c = [] ∧ (∀ m ∈ (getCore t k).marks, m.ctx ≠ c) ∧ (getCore t k).imem = (getCore s k).imem ∧ (getCore t k).opbuf = (getCore s k).opbuf) ∧
        (u = 2 → ∀ d, (getCtx t k d).st = .halted ∧ (getCore t k).passes = [] ∧ (getCore t k).opbuf = (getCore s k).opbuf) ∧
        (u = 3 → ∀ k' ∈ regionCores r, ∀ d, (getCtx t k' d).st = .halted)) ∧
    (mayReset s u x c' → u = 4 → waitsOnStream s p.val = false →
      ∃ t, exec q s = .next t ∧ t.flt.run = some ⟨4, p.val, 0, false, 1, false⟩ ∧ ∀ k' ∈ coresOfMask (maskOf s p), ∀ d, (getCtx t k' d).st = .halted) ∧
    (mayReset s u x c' → u = 4 → waitsOnStream s p.val = true →
      ∃ t, exec q s = .next t ∧ t.flt.run = none ∧ t.flt.stDone = false ∧ t.flt.held = s.flt.held ++ [⟨4, p.val, 0, false, 0, false⟩] ∧ t.cores = s.cores)

/-- The contexts of a core that a reset ends start again as its image says: those in CTX_MASK READY at their ENTRY, the others as the reset left them, HALTED; where the
header of the image is bad, those in CTX_MASK are FAULTED (R59, R63). -/
def startsAgain (s t : State) (k : CoreId) (c : CtxId) : Prop :=
  ∀ g, imageOf s k = some g →
    (headerBad (getCore s k).imem g = false →
      (getCtx t k c).st = (if g.ctxMask.testBit c.val then .ready else .halted) ∧
      (g.ctxMask.testBit c.val = true → pcOf t k c = BitVec.ofNat 18 (g.entry.getD c.val 0))) ∧
    (headerBad (getCore s k).imem g = true → (getCtx t k c).st = (if g.ctxMask.testBit c.val then .faulted else .halted))

/-- The end of a reset (R379, R382): once nothing that it covers is in flight, the unit's contexts, which the request has HALTED, start again as the image says and the reset enters the
history; a region returns to Asleep, from where a context that starts READY wakes it (the model's reading, log 52); a partition's reset also forgets its sync objects,
its messages, in the inboxes and on their way out, and its pages, and leaves a record. -/
def Claims.ResetEnds : Prop :=
  ∀ (s : State) (y : ResetRun), s.flt.run = some y → s.flt.held = [] →
    (drained s y = false → exec .resetComplete s = .next s ∧ exec .partitionResetDrained s = .next s) ∧
    (y.unit = 4 → exec .resetComplete s = .next s) ∧ (y.unit ≠ 4 → exec .partitionResetDrained s = .next s) ∧
    (1 ≤ y.unit → y.unit ≤ 3 → drained s y = true → y.teardown = false →
      ∃ t, exec .resetComplete s = .next t ∧ t.flt.run = none ∧ t.flt.stDone = true ∧ t.flt.stUnit = y.unit ∧
        t.flt.hist.head? = some ⟨y.unit, if y.unit = 1 then y.target * 4 + y.ctx else y.target, s.tick⟩ ∧
        (∀ k ∈ resetCores s y.unit y.target, ∀ c : CtxId, (y.unit = 1 → c.val = y.ctx) → (getCtx s k c).st = .halted → startsAgain s t k c) ∧
        (y.unit = 3 → (getRegion t (Fin.ofNat 32 y.target)).power = .asleep ∨ (getRegion t (Fin.ofNat 32 y.target)).power = .waking)) ∧
    (y.unit = 4 → drained s y = true → y.teardown = false →
      let p : PartId := Fin.ofNat 32 y.target
      ∃ t, exec .partitionResetDrained s = .next t ∧ t.flt.run = none ∧ t.flt.stDone = true ∧ (getPst t p).evReset = true ∧
        t.flt.partFaulted.getLsbD p.val = false ∧ (∀ g ∈ regionsOfMask (maskOf s p), (getRegion t g).objs = [] ∧ (getRegion t g).waits = []) ∧
        (∀ k ∈ coresOfMask (maskOf s p), (getCore t k).xfers = [] ∧ (getCore t k).reqs = [] ∧ (getCore t k).marks = [] ∧ (getCore t k).cols = [] ∧
          (getCore t k).outbox = [] ∧ ∀ c, vget (getCore t k).inbox c = [] ∧ startsAgain s t k c) ∧
        (∀ e ∈ t.kvp.pages, e.1 / 2 ^ 33 ≠ p.val) ∧
        ∃ r ∈ t.flt.waiting, r.cls = 0x44 ∧ r.part = BitVec.ofNat 8 p.val)

/-- A chip reset (Table 16.3 unit 5, R386) loses every partition and the fault log, keeps the memories, the fuses and the sequence floor, and counts its cause but for the operator's, to at most 3 within 2^28
ticks of the first; its time limit, and a request for
a power cycle, drive CYCLE_REQ_N (R388). A RESET request of Tops is answered (its codes 0 and 1 are the model's choice, log 42). -/
def Claims.ChipResets : Prop :=
  ∀ (s : State),
    (s.hub.powered = true → s.hub.phase ∉ [Phase.noVaux, .noVin, .perst] →
      ∃ t, exec .resetChip s = .next t ∧ t.flt.chipCause = 1 ∧ t.flt.chipCounted = false ∧ t.flt.chipCount = s.flt.chipCount ∧ t.flt.log = [] ∧ t.flt.waiting = [] ∧
        (∀ p, (getPart t p).live = false) ∧ (∀ k, (getCore t k).opbuf = (getCore s k).opbuf ∧ (getCore t k).imem = (getCore s k).imem) ∧
        (∀ n : Fin 8, (vget t.stks n).mem = (vget s.stks n).mem) ∧ (∀ i : Fin 160, (vget t.near i).mem = (vget s.near i).mem) ∧
        t.fuses = s.fuses ∧ t.cfg.floor = s.cfg.floor ∧ t.cfg.run = none ∧ t.mesh = []) ∧
    (s.hub.powered = false → exec .resetChip s = .next s) ∧
    exec .resetPowerCycle s = .next { s with hub := { s.hub with cycleReq := true }, flt := { s.flt with run := some ⟨6, 0, 0, false, 1, false⟩, stDone := false, stUnit := 6, stCode := 0 } } ∧
    (s.hub.booting = true → 2 ^ 24 ≤ s.hub.bootAge → exec .chipResetTimeout s = .next { s with hub := { s.hub with cycleReq := true } }) ∧
    (s.hub.booting = false ∨ s.hub.bootAge < 2 ^ 24 → exec .chipResetTimeout s = .next s) ∧
    (∀ u x c, topsRuns s = false → exec (.resetRequest u x c) s = .next s) ∧
    (∀ u x c, topsRuns s = true → (u = 0 ∨ 5 < u) → exec (.resetRequest u x c) s = .next { s with sec := { s.sec with out := s.sec.out ++ [.answer 1] } }) ∧
    (∀ u x c, topsRuns s = true → 1 ≤ u → u ≤ 3 → mayReset s u x c →
      ∃ t, exec (.resetRequest u x c) s = .next t ∧ t.flt.run = some ⟨u, x, c, false, 1, true⟩ ∧ t.sec.out = s.sec.out ++ [.answer 0]) ∧
    (∀ x c, topsRuns s = true → ∃ t, exec (.resetRequest 5 x c) s = .next t ∧ t.flt.chipCause = 2 ∧ t.flt.chipCounted = true ∧
      t.flt.chipCount = (if s.flt.chipCount = 0 ∨ 2 ^ 28 ≤ s.flt.chipAge then 1 else min 3 (s.flt.chipCount + 1)))

/-! ### Power, clocks and temperature (14_power_clocks.md, 15_thermal.md) -/

/-- A value in range, or the present one. -/
def capOf (old v lo hi : Nat) : Nat := if lo ≤ v ∧ v ≤ hi then v else old

/-- The package cap (R333): its reset value is 2,500 W; a write by the operator or a request of Tops, for a management client too, within 500 to 2,500 W is in force, and one outside the range changes nothing. The codes of the answers, 0 and 1, are the model's choice (logs 42 and 56). -/
def Obligations.PackageCap : Prop :=
  State.reset.pwr.cap = 2500 ∧
  ∀ (s : State) (v : Nat),
    let s' := { s with pwr := { s.pwr with cap := capOf s.pwr.cap v 500 2500 } }
    exec (.pwrCapWrite v) s = .next s' ∧
    (topsRuns s = true → exec (.powerCap v) s = .next { s' with sec := { s.sec with out := s.sec.out ++ [.answer (if 500 ≤ v ∧ v ≤ 2500 then 0 else 1)] } }) ∧
    (topsRuns s = true → exec (.setPowerCap v) s = .next { s' with resps := s.resps ++ [.bytes respMgmt (leBytes 4 (if 500 ≤ v ∧ v ≤ 2500 then 0 else 1))] })

/-- The chip ramp (R334) lies in 20 to 250 W, a write outside the range changes nothing; a POWER_CAP request while Tops does not run changes nothing. -/
def Claims.ChipRamp : Prop :=
  ∀ (s : State) (v : Nat),
    exec (.pwrRampWrite v) s = .next { s with pwr := { s.pwr with ramp := capOf s.pwr.ramp v 20 250 } } ∧
    (topsRuns s = false → exec (.powerCap v) s = .next s ∧ exec (.setPowerCap v) s = .next s)

/-- A control round (R331, R332, R335): it takes the measurements; a region keeps its state and, where it is not Awake or belongs to no partition, keeps its level unless the brake begins; an Awake region of a partition stands at or below
its ceiling (350 MHz under the brake, else the lower of ACLK_MAX and the thermal ceiling), rises by 50 MHz at most, and does not rise while the brake's hold lasts, its partition exceeds its envelope or the package its cap. -/
def Obligations.ControlRound : Prop :=
  ∀ (s : State) (watts : List Nat) (pkg mv amps : Nat), hubRuns s = true →
    ∃ t, exec (.controlRound watts pkg mv amps) s = .next t ∧ t.pwr.pkg = pkg ∧ t.pwr.mv = mv ∧ t.pwr.amps = amps ∧
      (∀ r : RegionId, (getRegion t r).power = (getRegion s r).power ∧ (getRegion t r).watts = watts.getD r.val 0 ∧
        ((getRegion s r).power ≠ .awake → getRegion t r = { getRegion s r with watts := watts.getD r.val 0 })) ∧
      (∀ (r : RegionId) (p : PartId), (getRegion s r).power = .awake → partOfRegion s r = some p →
        (getRegion t r).ceil = (if brakeOn t then 7 else min ((envOf s p).aclkMax / 50) (vget s.thm.ceil r)) ∧
        (getRegion t r).level ≤ (getRegion t r).ceil ∧
        (brakeOn t = false → (getRegion t r).level ≤ (getRegion s r).level + 1 ∧
          (t.pwr.hold = true ∨ 10 * s.pwr.cap < pkg ∨ 10 * (envOf s p).watts < partWatts t p → (getRegion t r).level ≤ (getRegion s r).level))) ∧
      (10 * s.pwr.cap < pkg → t.pwr.capLimit = true ∧ t.pwr.evCapLimit = true) ∧ t.cores = s.cores ∧ t.thm = s.thm

/-- The brake (R335): its assertion takes every Awake region to 350 MHz at once, and clears a hold in progress (the model's reading, log 56); its release starts the hold, which ends; while the supply is low the release ends nothing. -/
def Claims.Brake : Prop :=
  ∀ (s : State),
    (brakeOn s = false → ∃ t, exec .brakeAssert s = .next t ∧ t.pwr.pin = true ∧ t.pwr.evBrake = true ∧ t.pwr.hold = false ∧
      ∀ r : RegionId, ((getRegion s r).power = .awake → (getRegion t r).level = 7) ∧ ((getRegion s r).power ≠ .awake → getRegion t r = getRegion s r)) ∧
    (s.pwr.pin = true → exec .brakeAssert s = .next s) ∧
    (s.pwr.pin = true → s.pwr.vinLow = false → exec .brakeRelease s = .next { s with pwr := { s.pwr with pin := false, hold := true } }) ∧
    (s.pwr.pin = true → s.pwr.vinLow = true → exec .brakeRelease s = .next { s with pwr := { s.pwr with pin := false } }) ∧
    exec .brakeHoldEnd s = .next { s with pwr := { s.pwr with hold := false } }

/-- Region states (R336 to R339): an idle Awake region dozes, a Dozing one idle for SLEEP_DELAY ticks sleeps at 0.40 V, neither while its delay is 0 or it is not idle; a wake that completes leaves it Awake at 350 MHz with the voltage of that level,
and no wake completes in a region that is held in reset. -/
def Claims.RegionStates : Prop :=
  ∀ (s : State) (r : RegionId),
    let g := getRegion s r
    let with' := fun (g' : Region) => { s with regions := vset s.regions r g' }
    (g.power = .awake → s.pwr.doze ≠ 0 → regionIdle s r = true → exec (.dozeEntry r) s = .next (with' { g with power := .dozing, dozeTicks := 0 })) ∧
    (g.power ≠ .awake ∨ s.pwr.doze = 0 ∨ regionIdle s r = false → exec (.dozeEntry r) s = .next s) ∧
    (g.power = .dozing → s.pwr.sleep ≠ 0 → s.pwr.sleep ≤ g.dozeTicks → regionIdle s r = true → exec (.sleepEntry r) s = .next (with' { g with power := .asleep, volt := 200 })) ∧
    (g.power ≠ .dozing ∨ s.pwr.sleep = 0 ∨ g.dozeTicks < s.pwr.sleep ∨ regionIdle s r = false → exec (.sleepEntry r) s = .next s) ∧
    (g.power ≠ .waking ∨ (g.held = true ∧ g.owner ≠ none) → exec (.wakeComplete r) s = .next s) ∧
    (g.power = .waking → g.held = false ∨ g.owner = none → (∀ k ∈ regionCores r, (getCore s k).notices = [] ∧ (getCore s k).nsl.test = none) → s.hub.waitAcc = [] →
      ∃ t, exec (.wakeComplete r) s = .next t ∧ getRegion t r = { g with power := .awake, level := 7, volt := Config.levelVolt r.val 7, moved := true, dozeTicks := 0 } ∧
        (∀ r', r' ≠ r → getRegion t r' = getRegion s r') ∧ t.cores = s.cores ∧ t.stks = s.stks ∧ t.mesh = s.mesh) ∧
    (∀ (n : Fin 8), (stackUnused s n.val = true → 1024 ≤ (vget s.stks n).idleTicks → exec (.stackSelfRefreshEntry n) s = .next { s with stks := vset s.stks n { vget s.stks n with selfRef := true } }) ∧
      (stackUnused s n.val = false → exec (.stackSelfRefreshExit n) s = .next { s with stks := vset s.stks n { vget s.stks n with selfRef := false, idleTicks := 0 } }))

/-- The count of a monitor window lies within 75 % to 125 % of the expected one (R343). -/
def countGood (mhz n : Nat) : Prop := 3 * 4096 * mhz ≤ 4 * 400 * n ∧ 4 * 400 * n ≤ 5 * 4096 * mhz

/-- Clock monitors and the loss of rails (R343 to R345, R16): a window whose counts are good changes nothing but the memory of bad windows; a count of zero fails an ACLK to the backup oscillator with a record of its region, fails HCLK or SYSREF with a chip
reset, and FCLK of a die, an MCLK of a stack, a lane clock of a link die and the forwarded clock of a die link sever the die and are a non-maskable event of Taproot; a die on its backup oscillator is not judged again; a failed rail raises one record.
The event bit of a lost SYSREF stands after its chip reset (the model's reading, log 43). After SYSREF is back the device leaves its reset. -/
def Claims.Clocks : Prop :=
  ∀ (s : State),
    (∀ die c n, hubRuns s = true → (∀ r, c ≠ MonClk.aclk r) → s.clk.backup.getLsbD die = true ∨ (0 < n ∧ countGood (clkMhz s c) n) →
      exec (.clockMonitorWindow die [(c, n)]) s = .next { s with clk := { s.clk with bad := s.clk.bad.filter (· != (die, c)) } }) ∧
    (∀ die r, hubRuns s = true → coreClocked s (coreOf r.val 0) = true → (getRegion s r).moved = false →
      ∃ t x, exec (.clockMonitorWindow die [(.aclk r, 0)]) s = .next t ∧ (getRegion t r).onBackup = true ∧ coreClocked t (coreOf r.val 0) = false ∧ t.clk.evRegion = true ∧
        t.clk.failRegion = r.val ∧ t.flt.waiting = s.flt.waiting ++ [x] ∧ x.cls = 0x23 ∧ x.region = BitVec.ofNat 8 r.val ∧ t.stks = s.stks) ∧
    (∀ die, hubRuns s = true → s.clk.backup.getLsbD die = false → ∃ t, exec (.clockMonitorWindow die [(.sysref, 0)]) s = .next t ∧ t.flt.chipCause = 5 ∧ t.hub.phase = .sysref ∧ t.clk.evSysref = true ∧ t.clk.sysref = false) ∧
    (hubRuns s = true → s.clk.backup.getLsbD dieHub = false → ∃ t, exec (.clockMonitorWindow dieHub [(.hclk, 0)]) s = .next t ∧ t.flt.chipCause = 6) ∧
    (∀ d c, hubRuns s = true → d < 24 → (c = .fclk ∨ c = .mclk ∨ (∃ l, c = .lane l) ∨ c = .dieLink) → s.clk.backup.getLsbD d = false → s.flt.severed.getLsbD d = false → s.cfg.run = none → ∃ t, exec (.clockMonitorWindow d [(c, 0)]) s = .next t ∧ t.flt.severed.getLsbD d = true ∧ t.clk.evDie = true ∧ t.clk.failDie = d ∧
      t.clk.backup.getLsbD d = true ∧ t.clk.nmis = s.clk.nmis + 1) ∧
    (∀ r, (getRegion s r).railOk = true → ∃ t x, exec (.regionRailFault r) s = .next t ∧ getRegion t r = { getRegion s r with railOk := false } ∧ t.flt.waiting = s.flt.waiting ++ [x] ∧
      x.cls = 0x25 ∧ x.region = BitVec.ofNat 8 r.val ∧ t.cores = s.cores) ∧
    (s.hub.phase = .sysref → exec .sysrefRestored s = .next { s with clk := { s.clk with sysref := true }, hub := { s.hub with phase := .start } })

/-- The Tuber trim (R346): a window records its count while SYSREF passes; TRIMMED is set by the fourth window in a row within ±102 counts; the code moves by one step at most, and only where the count is more than 51 off. That the code stops at its two ends, 0 and 1,023, is the model's choice (log 57). -/
def Claims.TuberTrim : Prop :=
  ∀ (s : State) (n : Nat),
    (s.clk.sysref = false → exec (.trimWindow n) s = .next s) ∧
    (s.clk.sysref = true → s.clk.wins ≤ 4 → s.clk.code < 1024 →
      ∃ t, exec (.trimWindow n) s = .next t ∧ t.clk.count = n ∧ t.clk.code < 1024 ∧ t.clk.code ≤ s.clk.code + 1 ∧ s.clk.code ≤ t.clk.code + 1 ∧
        (102349 ≤ n → n ≤ 102451 → t.clk.code = s.clk.code) ∧
        (102298 ≤ n → n ≤ 102502 → (3 ≤ s.clk.wins → t.clk.trimmed = true) ∧ (s.clk.wins < 3 → t.clk.trimmed = s.clk.trimmed)) ∧
        (n < 102298 ∨ 102502 < n → t.clk.wins = 0 ∧ t.clk.trimmed = s.clk.trimmed))

/-- What a list of readings answers for a sensor. -/
def answerOf (rs : List Reading) (n : Fin 301) : Reading := (rs.find? (fun r => r.id = n)).getD ⟨n, none, 0⟩

/-- The answer is a temperature from −40 °C to 150 °C, and the inlet's thermistor reads between 100 Ω and 500 kΩ. -/
def goodAnswer (a : Reading) : Prop := (∃ c, a.temp = some c ∧ -320 ≤ c ∧ c ≤ 1200) ∧ (a.id.val = 300 → 100 ≤ a.ohms ∧ a.ohms ≤ 500000)

/-- Readings (R349): whenever a sensor is read, in its slot of the fast schedule, in a round, or before phase D for the shutdown, its reading is valid if it answered in the slot, lies from −40 °C to 150 °C and is not masked, and only then; the inlet's also needs a thermistor between 100 Ω and 500 kΩ (R403). -/
def Obligations.ReadingsValid : Prop :=
  (∀ (s : State) (n : Fin 301) (a : Option Int) (o : Nat), s.tick % 64 = 0 → (readMode s = .full ∧ s.tick % 1024 ≠ 0 ∧ (vget s.thm.sensors n).fast = true) ∨ readMode s = .shutdownOnly →
    ∃ t, exec (.sensorRead [⟨n, a, o⟩]) s = .next t ∧
      ((vget t.thm.sensors n).valid = true ↔ goodAnswer ⟨n, a, o⟩ ∧ (vget s.thm.sensors n).masked = false) ∧
      (∀ c, a = some c → (vget t.thm.sensors n).temp = c) ∧ (∀ m, m ≠ n → (vget t.thm.sensors m).valid = (vget s.thm.sensors m).valid)) ∧
  (∀ (s : State) (rs : List Reading), readMode s = .full → s.tick % 1024 = 0 →
    ∃ t, exec (.housekeepingRound rs) s = .next t ∧
      ∀ n, ((vget t.thm.sensors n).valid = true ↔ goodAnswer (answerOf rs n) ∧ (vget t.thm.sensors n).masked = false))

/-- The schedule of readings (R350): sensors are read only at multiples of 64 ticks, the round at multiples of 1,024, none while the supply is absent; a reading of a sensor that is not on the fast schedule counts in rounds only.
After a round every site has the value that its sensors' readings give, and a ceiling rises by 50 MHz at most (from 350 MHz where it stood lower);
once the shutdown latch is set every ceiling is 350 MHz. -/
def Claims.ReadingSchedule : Prop :=
  ∀ (s : State) (rs : List Reading),
    (s.tick % 64 ≠ 0 ∨ readMode s = .none → exec (.sensorRead rs) s = .next s) ∧
    (s.tick % 1024 ≠ 0 ∨ readMode s ≠ .full → exec (.housekeepingRound rs) s = .next s) ∧
    (s.hub.vin = false → readMode s = .none) ∧
    (readMode s = .full → (∀ x ∈ rs, (vget s.thm.sensors x.id).fast = false) → exec (.sensorRead rs) s = .next s) ∧
    (readMode s = .full → s.tick % 1024 = 0 → ∃ t, exec (.housekeepingRound rs) s = .next t ∧
      (∀ i : Fin 251, (vget t.thm.sites i).val = siteReads t i.val) ∧
      (∀ r : RegionId, vget t.thm.ceil r ≤ max 28 (vget s.thm.ceil r) ∧ vget t.thm.ceil r ≤ max 7 (vget s.thm.ceil r) + 1 ∧ (t.thm.latch = true → vget t.thm.ceil r = 7))) ∧
    (∀ id, id < 301 → (getSensor s id).masked = true → ∃ t, exec (.thmUnmask id) s = .next t ∧ (getSensor t id).masked = false ∧
      ∀ m : Fin 301, m.val ≠ id → vget t.thm.sensors m = vget s.thm.sensors m)

/-- The throttle target of R356, in MHz: 1,400 MHz at or below the throttle point, and otherwise 100 MHz less for each kelvin begun, with a floor of 350 MHz; and the inlet's of R360. -/
def Claims.ThrottleTargets : Prop :=
  (∀ (t p : Int), 50 * (throttleCeil t p : Int) = if t ≤ p then 1400 else max 350 (1400 - 100 * (-((p - t) / 8)))) ∧
  (∀ (s : State), (siteVal s siteInlet = none → inletCeil s 0 = 28) ∧
    ∀ t, siteVal s siteInlet = some t → 50 * (inletCeil s 0 : Int) = if t ≤ 280 then 1400 else if t ≤ 360 then max 350 (1400 - 100 * (-((280 - t) / 8))) else 350)

/-- The value of a site (R351): the hotter of its valid readings; the other twin's reading plus 3 K where one twin is masked; none without a valid reading. -/
def Obligations.SiteValues : Prop :=
  ∀ (s : State) (i : Fin 251),
    (∀ a b, siteSensors i.val = [a, b] → (getSensor s a).masked = false → (getSensor s b).masked = false →
      siteReads s i.val = if (getSensor s a).valid then (if (getSensor s b).valid then some (max (getSensor s a).temp (getSensor s b).temp) else some (getSensor s a).temp)
        else if (getSensor s b).valid then some (getSensor s b).temp else none) ∧
    (∀ a b, siteSensors i.val = [a, b] → (getSensor s a).masked = true → siteReads s i.val = if (getSensor s b).valid then some ((getSensor s b).temp + 24) else none) ∧
    (∀ a b, siteSensors i.val = [a, b] → (getSensor s a).masked = false → (getSensor s b).masked = true → siteReads s i.val = if (getSensor s a).valid then some ((getSensor s a).temp + 24) else none) ∧
    (∀ a, siteSensors i.val = [a] → siteReads s i.val = if (getSensor s a).valid then some (getSensor s a).temp else none) ∧
    (∃ a b, siteSensors i.val = [a] ∨ siteSensors i.val = [a, b])

/-- The coolant's flow and the shutdown (R361 to R363, R367): a pulse is counted and ends a stop while the flow input is used, and does nothing while it is not; 2,048 ticks without one begin the emergency hold where the flow input is used; a stop takes every region's ceiling to 350 MHz at once;
after a trip the rails go off and stay off with the latch, which clears when VIN is applied again after it was below 6 V;
the life counts go to Tops, which saves them in flash, at every 2^30 ticks while Tops runs. -/
def Claims.CoolantAndShutdown : Prop :=
  ∀ (s : State),
    (flowUsed s = false → exec .flowPulse s = .next s) ∧
    (flowUsed s = true → ∃ t, exec .flowPulse s = .next t ∧ t.thm.stopped = false ∧ t.thm.flowSince = s.tick ∧ t.thm.pulses.head? = some s.tick) ∧
    (s.thm.flowOn = true → s.thm.ppl ≠ 0 → s.thm.flowSince + 2048 ≤ s.tick → s.thm.stopped = false →
      ∃ t, exec .flowStop s = .next t ∧ t.thm.stopped = true ∧ t.thm.evFlowStop = true ∧ t.thm.emergency = true ∧ t.thm.latch = s.thm.latch ∧ ∀ r : RegionId, vget t.thm.ceil r ≤ 7) ∧
    (s.thm.flowOn = false ∨ s.thm.ppl = 0 ∨ s.tick < s.thm.flowSince + 2048 ∨ s.thm.stopped = true → exec .flowStop s = .next s) ∧
    (s.thm.latch = true → s.hub.powered = true →
      ∃ t, exec .shutdownRailsOff s = .next t ∧ t.hub.powered = false ∧ t.thm.latch = true ∧ t.thm.tripSensor = s.thm.tripSensor ∧ t.thm.tripTemp = s.thm.tripTemp ∧
        t.flt.waiting = [] ∧ t.fuses = s.fuses) ∧
    (s.thm.latch = true → s.hub.vin = false → s.hub.lowVin = false → ∃ t, exec .vinUp s = .next t ∧ t.hub.powered = false ∧ t.thm.latch = true) ∧
    (∃ t, exec .vinBelow6v s = .next t ∧ t.thm.latch = s.thm.latch ∧ t.hub.lowVin = true ∧ t.hub.vin = false ∧ t.hub.powered = false ∧ t.hub.cycleReq = false) ∧
    (s.hub.vin = false → s.hub.lowVin = true → ∃ t, exec .vinUp s = .next t ∧ t.thm.latch = false ∧ t.hub.lowVin = false) ∧
    (s.tick % 2 ^ 30 = 0 → topsRuns s = true → exec .lifeSave s = .next { s with sec := { s.sec with out := s.sec.out ++ [.life (s.thm.cycles.toList.map (fun c => c.count))] } }) ∧
    (s.tick % 2 ^ 30 ≠ 0 ∨ topsRuns s = false → exec .lifeSave s = .next s)

/-! ### Dies, die links and bring-up (16_faults.md, R389 to R394; 17_package.md, R400 to R416) -/

/-- The bundle of a pair. -/
def bundleAt (s : State) (pair : Fin 22) (b : Fin 8) : Bundle := vget (vget s.pairs pair).bundles b

/-- The bundle carries flits. -/
def carries (s : State) (pair : Fin 22) (b : Fin 8) : Prop :=
  b.val < bundlesOf pair.val ∧ ((bundleAt s pair b).st = .full ∨ (bundleAt s pair b).st = .half)

/-- The bundle takes flits: it carries them, and neither its pair nor a die of the pair is SEVERED (R389, R390). -/
def takesFlits (s : State) (pair : Fin 22) (b : Fin 8) : Prop := carries s pair b ∧ pairDown s pair.val = false

/-- A request for the reset of a die (R391): refused where no die reset names the die, as for a die that the assembly lacks (Table 16.11), or another reset is in progress that does not contain it; else the die is SEVERED, its PLLs lock again,
its bundles have to be trained again, and the contexts of a tile stand HALTED. -/
def Claims.DieResets : Prop :=
  ∀ (s : State) (d : Nat),
    (resettable s d = false → exec (.resetDie d) s = .next { s with flt := { s.flt with stDone := true, stUnit := 7, stCode := 2 } }) ∧
    (∀ y, resettable s d = true → s.flt.run = some y → y.unit ≤ 5 ∨ (y.unit = 7 ∧ y.target ≠ d) →
      exec (.resetDie d) s = .next { s with flt := { s.flt with stDone := true, stUnit := 7, stCode := 1 } }) ∧
    (∀ y, resettable s d = true → s.flt.run = some y → y.unit = 6 ∨ (y.unit = 7 ∧ y.target = d) →
      exec (.resetDie d) s = .next { s with flt := { s.flt with stDone := false, stUnit := y.unit, stCode := 0 } }) ∧
    (resettable s d = true → s.flt.run = none → s.cfg.run = none →
      ∃ t, exec (.resetDie d) s = .next t ∧ t.flt.run = some ⟨7, d, 0, false, 1, false⟩ ∧ t.flt.severed.getLsbD d = true ∧ t.clk.backup.getLsbD d = false ∧
        (∀ k ∈ pairsOfDie d, ∀ b, (vget (getPair t k).bundles b).st = .untrained) ∧
        (d < 4 → ∀ k : CoreId, tileOfCore k = d → ∀ c, (getCtx t k c).st = .halted) ∧
        (∀ p : PartId, (getPart s p).live = true → dependsOn s p d = true → s.flt.severed.getLsbD d = false → t.flt.partFaulted.getLsbD p.val = true))

/-- What a sender keeps once it is told the SEQ that the receiver awaits: the flits from that one on, nothing where it is the next one to be numbered, and all of them where it is neither. -/
def keptFlits (q : DlTx) (seq : Nat) (m : List (Nat × List Byte)) : Prop :=
  (∃ l b es, q.replay = l ++ m ∧ m = (seq, b) :: es ∧ ∀ e ∈ l, e.1 ≠ seq) ∨
  ((∀ e ∈ q.replay, e.1 ≠ seq) ∧ m = if seq = q.n % 4096 then [] else q.replay)

/-- Flits of a die link (R406, R407, R392): only the next DATA flit in order with a good CRC is accepted, whose ACK releases the flits that it covers; one out of order, or with a bad CRC, makes the receiver discard until the resend comes and send a NAK of the SEQ
that it expects; a NAK counts a replay, and the sender sends again from the flit that it names. A bundle that carries nothing, or whose pair or die is SEVERED, takes nothing, and of a damaged flit only the lane that its check words single out takes an event.
A sender gives a payload the next SEQ and the ACK of the other direction, and keeps it until it is covered; with 512 flits kept a payload waits, and goes out when there is room. The IDLE flit that carries the ACK of a flit taken, a SEQ that names no kept flit, and a flit of TYPE 3 are the model's choice (log 39).
A flit that is laid out has a good CRC, its TYPE, SEQ and ACK, and no lane of it fails its check. -/
def Claims.DieLinkFlits : Prop :=
  (∀ (s : State) (pair : Fin 22) (b : Fin 8) (dir : Fin 2) (f : List Byte) (l : List Nat),
    let x := bundleAt s pair b
    let good := f.length = 264 ∧ (crc32 (f.take 260)).toNat = leNat ((f.drop 256).take 8) / 2 ^ 32
    let typ := (leNat ((f.drop 256).take 8) / 64) % 4
    let seq := (leNat ((f.drop 256).take 8) / 2 ^ 20) % 4096
    let ack := (leNat ((f.drop 256).take 8) / 2 ^ 8) % 4096
    let put := fun (y : Bundle) => { s with pairs := vset s.pairs pair { vget s.pairs pair with bundles := vset (vget s.pairs pair).bundles b y } }
    let nak := x.sent ++ [(1 - dir, dlFlit 2 0 (vget x.rx dir).1 (List.replicate 256 0))]
    let q := vget x.tx (1 - dir)
    let after := fun (y : Bundle) (m : List (Nat × List Byte)) => q.wait.foldl (dlSend (8 * pair.val + b.val) (1 - dir)) { y with tx := vset x.tx (1 - dir) ⟨q.n, m, []⟩ }
    (¬ takesFlits s pair b → exec (.dlFlitReceive pair b dir f l) s = .next s) ∧
    (takesFlits s pair b → good → typ = 1 → seq = (vget x.rx dir).1 → ∀ m, keptFlits q ((ack + 1) % 4096) m → exec (.dlFlitReceive pair b dir f l) s = .next (put
      (after { x with rx := vset x.rx dir ((seq + 1) % 4096, false), sent := x.sent ++ [(1 - dir, dlFlit 0 0 seq (List.replicate 256 0))] } m))) ∧
    (takesFlits s pair b → good → typ = 1 → seq ≠ (vget x.rx dir).1 → exec (.dlFlitReceive pair b dir f l) s = .next (put { x with rx := vset x.rx dir ((vget x.rx dir).1, true), sent := nak })) ∧
    (takesFlits s pair b → good → typ = 2 → ∀ m, keptFlits q ack m → exec (.dlFlitReceive pair b dir f l) s = .next (put
      (let y := after { x with replay := x.replay + 1 } m
       { y with sent := y.sent ++ (vget y.tx (1 - dir)).replay.map (fun e => (1 - dir, dlFlit 1 e.1 (((vget x.rx dir).1 + 4095) % 4096) e.2)) }))) ∧
    (takesFlits s pair b → good → typ = 0 → ∀ m, keptFlits q ((ack + 1) % 4096) m → exec (.dlFlitReceive pair b dir f l) s = .next (put (after x m))) ∧
    (takesFlits s pair b → good → typ = 3 → exec (.dlFlitReceive pair b dir f l) s = .next s) ∧
    (takesFlits s pair b → ¬ good → (∀ j, badLanes x f l ≠ [j]) →
      exec (.dlFlitReceive pair b dir f l) s = .next (put { x with crc := x.crc + 1, rx := vset x.rx dir ((vget x.rx dir).1, true), sent := nak }))) ∧
  (∀ (loc : Nat) (dir : Fin 2) (x : Bundle) (p : List (Option Byte)), p.length = 256 →
    let q := vget x.tx dir
    (512 ≤ q.replay.length → dlSend loc dir x p = { x with tx := vset x.tx dir { q with wait := q.wait ++ [p] } }) ∧
    (q.replay.length < 512 → ∃ bs : List Byte, bs.length = 256 ∧ (∀ (i : Nat) (v : Byte), p[i]? = some (some v) → bs[i]? = some v) ∧
      dlSend loc dir x p = { x with tx := vset x.tx dir { q with n := q.n + 1, replay := q.replay ++ [(q.n % 4096, bs)] },
                                    sent := x.sent ++ [(dir, dlFlit 1 (q.n % 4096) (((vget x.rx (1 - dir)).1 + 4095) % 4096) bs)] })) ∧
  (∀ (type seq ack : Nat) (p : List Byte), type < 4 → seq < 4096 → ack < 4096 → p.length = 256 →
    let f := dlFlit type seq ack p
    let h := leNat ((f.drop 256).take 8)
    f.length = 264 ∧ f.take 256 = p ∧ (crc32 (f.take 260)).toNat = h / 2 ^ 32 ∧ (h / 64) % 4 = type ∧ (h / 2 ^ 20) % 4096 = seq ∧ (h / 2 ^ 8) % 4096 = ack ∧
    ∀ w ∈ laneWords f, crc4 (w.extractLsb' 0 64).toNat = (w.extractLsb' 64 4).toNat)

/-- The retirement of a lasting lane (R393, Table 16.8): a lane that loses lock in a bundle whose lanes are all good is replaced by spare 32, the next one by spare 33, a third leaves the bundle HALF on the other half, and a lane of the half in use then puts it OUT;
a lane of the unused half changes nothing. A pair whose last bundle goes OUT is SEVERED with a record of its own.
Without its forwarded clock every lane of a bundle is lasting at once, which puts a bundle with no lane retired, or one that still uses a lane of its half, OUT. -/
def Claims.LaneRetirement : Prop :=
  ∀ (s : State) (pair : Fin 22) (b : Fin 8) (n : Fin 34),
    let x := bundleAt s pair b
    (carries s pair b → ∃ t, exec (.dlLaneLockLoss pair b (some n)) s = .next t) ∧
    (¬ carries s pair b → exec (.dlLaneLockLoss pair b (some n)) s = .next s) ∧
    (carries s pair b → n.val < 32 → n.val ∉ x.lanes → x.sp32 ≠ some n.val → x.sp33 ≠ some n.val →
      (x.st = .full → x.sp32 = none → 32 ∉ x.lanes → ∃ t, exec (.dlLaneLockLoss pair b (some n)) s = .next t ∧
        bundleAt t pair b = { x with sp32 := some n.val, lanes := x.lanes ++ [n.val] } ∧ (vget t.pairs pair).evSpared = true ∧ ∃ r, t.flt.waiting = s.flt.waiting ++ [r] ∧ r.cls = 0x30) ∧
      (x.st = .full → x.sp32 ≠ none → x.sp33 = none → 33 ∉ x.lanes → ∃ t, exec (.dlLaneLockLoss pair b (some n)) s = .next t ∧
        bundleAt t pair b = { x with sp33 := some n.val, lanes := x.lanes ++ [n.val] } ∧ ∃ r, t.flt.waiting = s.flt.waiting ++ [r] ∧ r.cls = 0x30) ∧
      (x.st = .full → x.sp32 ≠ none → x.sp33 ≠ none → ∃ t, exec (.dlLaneLockLoss pair b (some n)) s = .next t ∧
        bundleAt t pair b = { x with st := .half, half := decide (n.val < 16), lanes := x.lanes ++ [n.val] } ∧ ∃ r, t.flt.waiting = s.flt.waiting ++ [r] ∧ r.cls = 0x31) ∧
      (x.st = .half → x.half = decide (n.val < 16) → ∃ t, exec (.dlLaneLockLoss pair b (some n)) s = .next t ∧
        bundleAt t pair b = { x with lanes := x.lanes ++ [n.val] } ∧ t.flt.waiting = s.flt.waiting) ∧
      (x.st = .half → x.half ≠ decide (n.val < 16) → (∃ b', b' ≠ b ∧ b'.val < bundlesOf pair.val ∧ (bundleAt s pair b').st ≠ .out) → ∃ t, exec (.dlLaneLockLoss pair b (some n)) s = .next t ∧
        (bundleAt t pair b).st = .out ∧ ∃ r, t.flt.waiting = s.flt.waiting ++ [r] ∧ r.cls = 0x32) ∧
      (x.st = .half → x.half ≠ decide (n.val < 16) → s.cfg.run = none → (∀ b', b' ≠ b → b'.val < bundlesOf pair.val → (bundleAt s pair b').st = .out) →
        ∃ t, exec (.dlLaneLockLoss pair b (some n)) s = .next t ∧ (bundleAt t pair b).st = .out ∧ (vget t.pairs pair).severed = true ∧ ∃ r ∈ t.flt.waiting, r.cls = 0x33)) ∧
    (carries s pair b → s.cfg.run = none →
      (x.st = .full ∧ x.lanes = [] ∧ x.sp32 = none ∧ x.sp33 = none) ∨
        (x.st = .half ∧ ∃ m, m < 32 ∧ x.half ≠ decide (m < 16) ∧ m ∉ x.lanes ∧ x.sp32 ≠ some m ∧ x.sp33 ≠ some m) → ∃ t, exec (.dlLaneLockLoss pair b none) s = .next t ∧ (bundleAt t pair b).st = .out ∧ (vget t.pairs pair).evOut = true)

/-- Bundles are trained again (R391, R408, R415): a retrain stops the bundle until its training ends, and what it has not delivered moves to the pair's other working bundles or is held; then it is FULL with the lanes of the fuses and those retired earlier retired again, in the order of Table 16.8,
or OUT without a forwarded clock; saved settings are used unless they fail or a FULL request has dropped them. A lane retired at a start raises its record, one that is retired again in service raises none (the model's reading, log 59). A severed pair stays severed, unless a die reset trains it again for the first time. -/
def Claims.BundleTraining : Prop :=
  ∀ (s : State) (pair : Fin 22) (b : Fin 8) (bad : List Nat), b.val < bundlesOf pair.val →
    let x := bundleAt s pair b
    (∃ t, exec (.bundleRetrain pair b) s = .next t ∧ { bundleAt t pair b with tx := x.tx } = { x with st := .untrained } ∧ (∀ q, q ≠ pair → vget t.pairs q = vget s.pairs q) ∧
      ((∃ b', b' ≠ b ∧ carries s pair b') → ∀ d, vget (bundleAt t pair b).tx d = ⟨0, [], []⟩) ∧
      ((vget s.pairs pair).severed = false → (∀ b' : Fin 8, b' ≠ b → b'.val < bundlesOf pair.val → (bundleAt s pair b').st = .out) → ∀ d, (vget (bundleAt t pair b).tx d).wait = dlPending x d)) ∧
    (∃ t, exec (.bundleFull pair b) s = .next t ∧ bundleAt t pair b = { x with again := true } ∧ ∀ q, q ≠ pair → vget t.pairs q = vget s.pairs q) ∧
    (x.st ≠ .untrained → ∀ clock, exec (.bundleTrainComplete pair b clock bad) s = .next s) ∧
    (x.st = .untrained → s.flt.run = none → s.cfg.run = none → ∃ t, exec (.bundleTrainComplete pair b .none bad) s = .next t ∧ (bundleAt t pair b).st = .out) ∧
    (∀ clock, clock ≠ .none → x.st = .untrained → s.fuses.lanes = [] →
      (s.flt.run = none → x.lanes = [] →
        ∃ t, exec (.bundleTrainComplete pair b clock []) s = .next t ∧ (bundleAt t pair b).st = .full ∧ (bundleAt t pair b).lanes = [] ∧
          (bundleAt t pair b).sp32 = none ∧ (bundleAt t pair b).again = false ∧ (bundleAt t pair b).band = (vget s.pairs pair).band.band ∧
          (bundleAt t pair b).saved = (clock == .locked && !x.again && x.sets.contains (vget s.pairs pair).band.band) ∧ (∀ d, vget (bundleAt t pair b).rx d = (0, false)) ∧
          (vget t.pairs pair).severed = (vget s.pairs pair).severed) ∧
      (s.flt.run = none → ∀ n, n < 32 → x.lanes = [n] →
        ∃ t, exec (.bundleTrainComplete pair b clock []) s = .next t ∧ (bundleAt t pair b).st = .full ∧ (bundleAt t pair b).lanes = [n] ∧ (bundleAt t pair b).sp32 = some n ∧
          (s.hub.phase = .b → (vget t.pairs pair).evSpared = true ∧ ∃ r, t.flt.waiting = s.flt.waiting ++ [r] ∧ r.cls = 0x30) ∧ (s.hub.phase ≠ .b → t.flt.waiting = s.flt.waiting)) ∧
      (∀ y, s.flt.run = some y → y.unit = 7 → pair.val ∈ pairsOfDie y.target → pairPresent s pair.val = true → x.lanes = [] → (∃ b' : Fin 8, b' ≠ b ∧ b'.val < bundlesOf pair.val ∧ (bundleAt s pair b').st = .untrained) →
        ∃ t, exec (.bundleTrainComplete pair b clock []) s = .next t ∧ (bundleAt t pair b).st = .full ∧ t.flt.run = some y ∧
          (vget t.pairs pair).severed = ((vget s.pairs pair).severed && (vget s.pairs pair).lost)))

/-- The supplies (R400, R404, R405): the Tuber domain leaves reset on its fused trim when VAUX is up and is cleared when VAUX is lost; the rails start with VIN, unless the shutdown latch, which VIN below 6 V lets clear, or a needed power cycle keeps them off; a failed VIN needs a power cycle,
which VIN below 6 V completes; PERST_N low is a chip reset with cause 9, and its release begins bring-up. -/
def Claims.Supplies : Prop :=
  ∀ (s : State),
    (s.hub.vaux = false → exec .vauxUp s = .next { s with hub := { s.hub with vaux := true, phase := .noVin }, clk := { s.clk with code := Config.trimCode } }) ∧
    (s.hub.vaux = true → exec .vauxUp s = .next s ∧
      ∃ t, exec .vauxLoss s = .next t ∧ t.hub.vaux = false ∧ t.hub.powered = false ∧ t.thm = State.reset.thm ∧ t.flt = State.reset.flt ∧ t.tick = 0 ∧ t.fuses = s.fuses ∧ t.cores = State.reset.cores) ∧
    (s.hub.vin = false → ∃ t, exec .vinUp s = .next t ∧ t.hub.vin = true ∧
      (t.hub.powered = true ↔ s.hub.vaux = true ∧ s.hub.needCycle = false ∧ (s.thm.latch = false ∨ s.hub.lowVin = true)) ∧ (t.hub.powered = true → t.hub.phase = .perst)) ∧
    (s.hub.vin = true → ∃ t, exec .vinFail s = .next t ∧ t.hub.vin = false ∧ t.hub.powered = false ∧ t.hub.needCycle = true ∧ t.cores = State.reset.cores ∧ t.parts = State.reset.parts ∧
      t.cfg.floor = s.cfg.floor ∧ t.tick = s.tick) ∧
    (∃ t, exec .vinBelow6v s = .next t ∧ t.hub.needCycle = false ∧ t.hub.cycleReq = false ∧ t.hub.lowVin = true ∧ t.thm.latch = s.thm.latch ∧ t.hub.powered = false ∧ t.cfg = State.reset.cfg) ∧
    (s.hub.powered = true → ∃ t, exec .perstAssert s = .next t ∧ t.hub.perst = true ∧ t.hub.phase = .perst ∧ t.hub.ready = false ∧ t.flt.chipCause = 9 ∧ t.flt.chipCount = s.flt.chipCount ∧
      ∀ n : Fin 8, (vget t.stks n).mem = (vget s.stks n).mem) ∧
    (s.hub.powered = true → s.hub.phase = .perst → exec .perstRelease s = .next { s with hub := { s.hub with perst := false, phase := .start, booting := true, bootAge := 0 } })

/-- The order of the phases (R415, R416): each command of bring-up acts only at the end of the phase before it, and READY is high from phase G and in no chip reset; link settings in flash count only under the device's identity prefix, and a start without any is one of full training; the phases enable the link dies, the hub's units, the tiles and the stacks that are present, served and not severed. -/
def Claims.BringUp : Prop :=
  ∀ (s : State),
    (s.hub.powered = true → s.hub.phase = .start → exec .phaseA s = .next { s with clk := { s.clk with sysref := true }, hub := { s.hub with phase := .a } }) ∧
    (s.hub.phase ≠ .start → exec .phaseA s = .next s) ∧ (∀ f r a l, s.hub.phase ≠ .a → exec (.phaseB f r a l) s = .next s) ∧
    (s.hub.phase ≠ .b → exec .phaseC s = .next s) ∧ (s.hub.phase ≠ .c → exec .phaseD s = .next s) ∧ (∀ m, s.hub.phase ≠ .d → exec (.phaseE m) s = .next s) ∧
    (s.hub.phase ≠ .e → exec .phaseF s = .next s) ∧ (s.hub.phase ≠ .f → exec .phaseG s = .next s) ∧
    (∀ f a l, s.hub.phase = .a → exec (.phaseB f true a l) s = .next { s with hub := { s.hub with cycleReq := true } }) ∧
    (∀ f a l, s.hub.phase = .a → s.flt.chipCounted = false → ∃ t, exec (.phaseB f false a l) s = .next t ∧
      t.sec.topsImg = (chooseSlot s 2 f.topsA f.topsB).1 ∧ t.sec.patch = (chooseSlot s 1 f.patchA f.patchB).1 ∧ t.hub.smbAddr = a ∧ t.clk.enHub.getLsbD 1 = true ∧ t.hst.width = l.width.val ∧
      (f.owner = idPrefix → t.hub.fullStart = false ∧ t.pairs = s.pairs ∧ t.ports = s.ports) ∧ (f.owner ≠ idPrefix → t.hub.fullStart = true ∧ ∀ (q : Fin 22) (b : Fin 8), (bundleAt t q b).sets = []) ∧
      (t.sec.topsImg.isSome = true → t.sec.tops = .running ∧ t.hub.phase = .b) ∧ (t.sec.topsImg = none → t.sec.tops = .noImage ∧ t.hub.phase = .noImage)) ∧
    (s.hub.phase = .b → (∀ k, k < 22 → pairPresent s k = true → pairUntrained s k = false) → ∃ t, exec .phaseC s = .next t ∧ t.hub.phase = .c ∧ t.hub.fieldWait = true ∧
      (∀ d : Fin 3, t.clk.enLink.getLsbD d.val = (diePresent s (dieLink d.val) && dieServed s (dieLink d.val) && !s.flt.severed.getLsbD (dieLink d.val))) ∧
      (s.thm.tripValid = true → t.sec.out = s.sec.out ++ [.trip s.thm.tripSensor s.thm.tripTemp] ∧ t.thm.tripValid = false)) ∧
    (s.hub.phase = .c → s.hub.fieldWait = false → ∃ t, exec .phaseD s = .next t ∧ t.hub.phase = .d ∧ t.clk.enHub = 0xFF ∧
      (∀ q : Fin 4, vget t.clk.enTile q = if tileUp s q.val then 0x1FF else 0) ∧ (∀ r : RegionId, (vget s.fuses.cores r).length < 4 → t.flt.regionBad.getLsbD r.val = true)) ∧
    (∀ m, s.hub.phase = .d → ∃ t, exec (.phaseE m) s = .next t ∧ t.hub.phase = .e ∧ t.hub.cold = false ∧ (s.hub.cold = false ∨ s.hub.fullStart = false → t.stks = s.stks) ∧
      (∀ n : Fin 8, t.clk.enStack.getLsbD n.val = (m.getLsbD n.val && (siteMask s).getLsbD n.val && dieServed s (dieStack n.val) && !s.flt.severed.getLsbD (dieStack n.val))) ∧
      (∀ p : Fin 24, s.clk.enLink.getLsbD (p.val / 8) = true → (vget t.ports p).st = .training)) ∧
    (s.hub.phase = .e → (∀ p : Fin 24, (vget s.ports p).st ≠ .training) → (∀ g : Fin 2, (vget s.guests g).st ≠ .training) → exec .phaseF s = .next { s with hub := { s.hub with phase := .f } }) ∧
    (s.hub.phase = .f → exec .phaseG s = .next { s with hub := { s.hub with phase := .g, ready := true } }) ∧
    (∀ cause, s.hub.powered = true → s.hub.phase ∉ [Phase.noVaux, .noVin, .perst] → (chipReset s cause).hub.ready = false)

/-- Field-repair records (R414, Table 17.12): the first count word in phase C applies the fuse map and then the 16-byte records in order, writes a status into byte 1 of each and hands them to Tops; records of types that are not used, and a core of a region or a sensor that does not exist, are skipped;
after 2^20 ticks without the word the fuses alone apply. Where the records and their count lie in Tops data RAM is the model's reading (log 66). -/
def Claims.FieldRepair : Prop :=
  ∀ (s : State) (recs : List Byte),
    let byte := fun (i j : Nat) => leNat ((recs.drop (16 * i + j)).take 1)
    let at_ := fun (i j : Nat) => 2 ^ 23 - 2 ^ 16 + 16 * i + j
    (s.hub.phase ≠ .c ∨ s.hub.fieldWait = false → exec (.fieldRepairCountWord recs) s = .next s ∧ exec .fieldRepairTimeout s = .next s) ∧
    (s.hub.phase = .c → s.hub.fieldWait = true → s.cfg.run = none →
      (∃ (t : State) (st : List Nat), exec (.fieldRepairCountWord recs) s = .next t ∧ t.hub.fieldWait = false ∧ t.sec.out = s.sec.out ++ [.fields st] ∧ st.length = recs.length / 16 ∧
        (∀ i : Nat, i < st.length → byte i 0 = 0 ∨ 7 < byte i 0 ∨ (1 ≤ byte i 0 ∧ byte i 0 ≤ 4 ∧ 32 ≤ byte i 2) ∨ (byte i 0 = 7 ∧ 300 < byte i 4 + 256 * byte i 5) → st[i]? = some 1) ∧
        (recs.length ≤ 65520 → memReadNat t.sec.dataRam (2 ^ 23 - 4) 4 = recs.length / 16 ∧
          ∀ i v : Nat, st[i]? = some v → (v = 0 ∨ v = 1) ∧ (memRead t.sec.dataRam (at_ i 1)).toNat = v ∧ ∀ j, j < 16 → j ≠ 1 → (memRead t.sec.dataRam (at_ i j)).toNat = byte i j)) ∧
      (s.hub.fieldAge < 2 ^ 20 → exec .fieldRepairTimeout s = .next s) ∧
      (2 ^ 20 ≤ s.hub.fieldAge → exec .fieldRepairTimeout s = .next { applyFuses s with hub := { s.hub with fieldWait := false, applied := .replicate 32 0 } }))

/-! ### Guest sites and the management bus (17_package.md, R410 to R412, R417 to R419) -/

/-- Admission (R411): a trained, powered site whose IDENT block has its form is ADMITTED with its rate code, 1 to 6, its modules, 1 to 4, and those at ×8, and with another block, or when a step takes too long, DOWN; a lost link or a faulted rail takes the guest down; a fitted site is admitted anew on request. -/
def Claims.GuestAdmission : Prop :=
  ∀ (s : State) (g : Fin 2) (b : List Byte) (rate : Fin 6) (modules : Fin 4) (x8 : BitVec 4),
    let x := vget s.guests g
    (x.st ≠ .training ∨ x.rail = false → exec (.guestIdent g b rate modules x8) s = .next s) ∧
    (x.st = .training → x.rail = true → (b.length ≠ 64 ∨ ∃ v ∈ b.drop 7, v ≠ 0) → ∃ t, exec (.guestIdent g b rate modules x8) s = .next t ∧ (vget t.guests g).st = .down ∧ (vget t.guests g).evDown = true) ∧
    (x.st = .training → x.rail = true → b.length = 64 → (∀ v ∈ b.drop 7, v = 0) →
      ∃ t, exec (.guestIdent g b rate modules x8) s = .next t ∧ vget t.guests g = { x with st := .admitted, evAdmitted := true, ident := b.take 7, rate := rate.val + 1, modules := modules.val + 1, x8 := x8 } ∧
        t.flt.severed.getLsbD (dieGuest g.val) = false) ∧
    (x.st = .training → ∃ t, exec (.guestTrainTimeout g) s = .next t ∧ (vget t.guests g).st = .down) ∧
    (x.st = .admitted → s.cfg.run = none → ∃ t, exec (.guestLinkDown g) s = .next t ∧ (vget t.guests g).st = .down ∧ (vget t.guests g).held = [] ∧ (vget t.guests g).dma = [] ∧
      vget t.sec.cert g = none ∧ t.flt.severed.getLsbD (dieGuest g.val) = true) ∧
    (s.fuses.fitted.getLsbD g.val = true → x.st ≠ .absent → ∃ t, exec (.guestRetrain g) s = .next t ∧ vget t.guests g = { x with st := .training, rate := 0, modules := 0, x8 := 0 } ∧ vget t.sec.cert g = none) ∧
    (s.fuses.fitted.getLsbD g.val = false → exec (.guestRetrain g) s = .next s) ∧
    (x.rail = true → s.cfg.run = none → ∃ t, exec (.guestPowerFault g) s = .next t ∧ (vget t.guests g).rail = false ∧ (vget t.guests g).evPower = true ∧ (vget t.guests g).st = .down)

/-- The command is the arrival of a guest's frame. -/
def guestCmd (g : Fin 2) (f : GuestFrame) (q : Instr) : Prop :=
  (f.kind = 1 ∧ f.addr = 0 ∧ q = .mboxSend g f.window f.cls f.tag f.dst f.data) ∨ (f.kind = 7 ∧ f.addr = 0 ∧ q = .meshMsg g f.window f.cls f.tag f.dst f.data) ∨
  (f.kind = 5 ∧ f.dst = 0 ∧ q = .dmaWr g f.window f.cls f.tag f.addr f.data) ∨ (f.kind = 8 ∧ f.dst = 0 ∧ q = .guestSyncAdd g f.window f.cls f.tag f.addr f.data) ∨
  (f.kind = 3 ∧ f.dst = 0 ∧ ∃ n : Fin 64, f.data = List.replicate (64 * (n.val + 1)) 0 ∧ q = .dmaRd g f.window f.cls f.tag f.addr n)

/-- Husk receives the frame: the site is admitted, no frame waits before it, and it has the form of Table 17.10. -/
def atHusk (s : State) (g : Fin 2) (f : GuestFrame) : Prop :=
  hubRuns s = true ∧ (vget s.guests g).st = .admitted ∧ (vget s.guests g).held = [] ∧ f.data.length % 64 = 0 ∧ 64 ≤ f.data.length ∧ f.data.length ≤ 4096 ∧ f.window < 256 ∧ f.cls < 256

/-- Husk (R412): of a guest's frames, one without a window, out of its range, or of a kind or class that the window does not allow is dropped and answered with an ERROR frame of its cause, counted and shown; one whose window's budget is used up is held, and everything behind it waits;
one that passes is charged and counted. A site that is not admitted takes nothing. Bytes whose kind no window allows (0x02, 0x04, 0x06, 0x0F and the unused kinds) are dropped with cause 3.
The classes are the model's reading (log 44), as are the addend of a SYNC_ADD in TAG and its handle in the low half of the address (log 46), and the charge of a DMA_RD by the length it asks for (log 67). -/
def Claims.HuskChecks : Prop :=
  (∀ (s : State) (g : Fin 2) (bs : List Byte),
    let f := guestFrameOf bs
    let x := vget s.guests g
    atHusk s g f → (huskWindow s g.val f.window).isSome = true → f.kind ∉ [1, 3, 5, 7, 8] →
      guestBytes s g.val bs = { s with guests := vset s.guests g { x with
        viol := x.viol + 1, evViol := true, vioWindow := f.window, vioKind := f.kind, vioCause := 3, out := x.out ++ [⟨0x0F, 3, 0, f.tag, 0, 0, []⟩] } }) ∧
  ∀ (s : State) (g : Fin 2) (f : GuestFrame) (q : Instr), guestCmd g f q →
    let x := vget s.guests g
    let dropped := fun (c : Nat) => { s with guests := vset s.guests g { x with
      viol := x.viol + 1, evViol := true, vioWindow := f.window, vioKind := f.kind, vioCause := c, out := x.out ++ [⟨0x0F, c, 0, f.tag, 0, 0, []⟩] } }
    (x.st ≠ .admitted → exec q s = .next s) ∧
    (hubRuns s = true → x.st = .admitted → ∀ h hs, x.held = h :: hs → huskFrame s g.val h = none → frameOk f = true →
      exec q s = .next { s with guests := vset s.guests g { x with held := x.held ++ [f] } }) ∧
    (atHusk s g f → huskWindow s g.val f.window = none → exec q s = .next (dropped 1)) ∧
    (∀ p w, atHusk s g f → huskWindow s g.val f.window = some (p, w) →
      ((f.kind = 3 ∨ f.kind = 5) → w.len < f.addr + f.data.length → exec q s = .next (dropped 2)) ∧
      (¬ ((f.kind = 3 ∨ f.kind = 5) ∧ w.len < f.addr + f.data.length) →
        (¬ ((f.kind = 1 ∧ (w.kind = 0 ∨ w.kind = 2)) ∨ ((f.kind = 3 ∨ f.kind = 5) ∧ (w.kind = 1 ∨ w.kind = 2)) ∨ ((f.kind = 7 ∨ f.kind = 8) ∧ w.kind = 2)) → exec q s = .next (dropped 3)) ∧
        (kindAllows f.kind w.kind = true → classAllows f w = false → exec q s = .next (dropped 4)) ∧
        (∀ p' w', huskCheck s g.val f = .ok (p', w') → partResetting s p' = false →
          (vget x.budget (Fin.ofNat 32 w'.window) ≤ 0 → exec q s = .next { s with guests := vset s.guests g { x with held := [f], heldNew := true } }) ∧
          (0 < vget x.budget (Fin.ofNat 32 w'.window) → ∃ t, exec q s = .next t ∧ (vget t.guests g).held = [] ∧ (vget t.guests g).viol = x.viol ∧
            (vget t.guests g).inBytes = x.inBytes + BitVec.ofNat 64 f.data.length ∧
            vget (vget t.guests g).budget (Fin.ofNat 32 w'.window) = vget x.budget (Fin.ofNat 32 w'.window) - (f.data.length : Int)))))

/-- What a frame that passes does (R412): a message enters the hub's buffer for its receiver, of the window's core for MBOX_SEND; a memory access of an unmapped or forbidden page is answered with cause 6; a SYNC_ADD goes to its object; and a read whose units are back is answered with its data at the grant of its partition (W_GUEST, R18).
The budgets are filled again at their tick, never above RATE. The addend of a SYNC_ADD in TAG and its handle in the address are the model's reading (log 46). -/
def Claims.HuskEffects : Prop :=
  ∀ (s : State) (g : Fin 2),
    (∀ f q p w d, guestCmd g f q → atHusk s g f → huskCheck s g.val f = .ok (p, w) → partResetting s p = false → 0 < vget (vget s.guests g).budget (Fin.ofNat 32 w.window) →
      (f.kind = 1 ∨ f.kind = 7) → guestDst s p w f = some d → (∀ y ∈ (vget s.guests g).msgs, y.id ≠ (vget s.guests g).nextId) →
      ∃ t m, exec q s = .next t ∧ (vget t.guests g).msgs = (vget s.guests g).msgs ++ [m] ∧ m.part = p ∧ m.dst = d ∧ m.tag = f.tag ∧ m.body = f.data) ∧
    (∀ f q p w, guestCmd g f q → atHusk s g f → huskCheck s g.val f = .ok (p, w) → partResetting s p = false → 0 < vget (vget s.guests g).budget (Fin.ofNat 32 w.window) →
      (f.kind = 3 ∨ f.kind = 5) → (∀ y ∈ (vget s.guests g).dma, y.id ≠ (vget s.guests g).nextId) →
      (dmaRanges (getPart s p) (f.kind != 3) 3 0 (w.va + f.addr) f.data.length = none → ∃ t, exec q s = .next t ∧ (vget t.guests g).out = (vget s.guests g).out ++ [⟨0x0F, 6, 0, f.tag, 0, 0, []⟩] ∧ t.stks = s.stks) ∧
      (∀ l, dmaRanges (getPart s p) (f.kind != 3) 3 0 (w.va + f.addr) f.data.length = some l →
        ∃ t d, exec q s = .next t ∧ (vget t.guests g).dma = (vget s.guests g).dma ++ [d] ∧ d.tag = f.tag ∧ d.read = (f.kind == 3) ∧ d.window = f.window)) ∧
    (∀ f q p w r o, guestCmd g f q → atHusk s g f → huskCheck s g.val f = .ok (p, w) → partResetting s p = false → 0 < vget (vget s.guests g).budget (Fin.ofNat 32 w.window) →
      f.kind = 8 → guestObj s p w f.addr = some (r, o) → ∃ t, exec q s = .next t ∧ t.mesh = s.mesh ++ [⟨.guest g.val, .sync r, 1, .syncAdd o (f.tag.setWidth 32)⟩]) ∧
    (∀ i, (vget s.guests g).dma[i]? = none → exec (.dmaRdData g i) s = .next s) ∧
    (∀ (i : Nat) (d : GuestDma), (vget s.guests g).dma[i]? = some d → (d.read = false ∨ d.waits ≠ 0 → exec (.dmaRdData g i) s = .next s) ∧
      (∀ r, d.read = true → d.waits = 0 → wrrPick 32 (guestWork s g.val) (wGuest s) (getGuest s g.val).rr = some r → r.1 ≠ d.part.val → exec (.dmaRdData g i) s = .next s) ∧
      (∀ r, d.read = true → d.waits = 0 → wrrPick 32 (guestWork s g.val) (wGuest s) (getGuest s g.val).rr = some r → r.1 = d.part.val →
        ∃ t, exec (.dmaRdData g i) s = .next t ∧ (vget t.guests g).rr = r ∧ (vget t.guests g).dma = (vget s.guests g).dma.eraseIdx i ∧
        (vget t.guests g).out = (vget s.guests g).out ++ [if d.bad then ⟨0x0F, 6, 0, d.tag, 0, 0, []⟩ else ⟨4, d.window, 3, d.tag, 0, 0, d.data⟩] ∧ t.stks = s.stks)) ∧
    ((vget s.guests g).held = [] → ∃ t, exec (.huskBudgetRefill g) s = .next t ∧ t.mesh = s.mesh ∧
      (∀ p w, (getPart s p).live = true → w ∈ (getPart s p).guestWins → w.site = g.val → vget (vget t.guests g).budget (Fin.ofNat 32 w.window) ≤ (w.rate : Int) ∨
        ∃ p' w', (p', w') ≠ (p, w) ∧ (getPart s p').live = true ∧ w' ∈ (getPart s p').guestWins ∧ w'.site = g.val ∧ w'.window % 32 = w.window % 32) ∧
      (∀ n, (∀ p w, (getPart s p).live = true → w ∈ (getPart s p).guestWins → w.site = g.val → w.window % 32 ≠ n.val) → vget (vget t.guests g).budget n = vget (vget s.guests g).budget n))

/-- The commands of the management bus that MCTP and PLDM define, with their answers (R417, R418); the bytes are the model's reading of those specifications (log 47). -/
def mgmtControl (s : State) (q : Instr) (b : List Byte) : Prop :=
  (q = .getEndpointId ∧ b = [0, BitVec.ofNat 8 s.hub.eid, 0, 0]) ∨ (q = .getMessageTypeSupport ∧ b = [0, 3, 0x00, 0x01, 0x7E]) ∨
  (∃ n, q = .getMctpVersionSupport n ∧ n ≠ 0xFF ∧ n ≠ 0 ∧ n ≠ 1 ∧ n ≠ 0x7E ∧ b = [0x80]) ∨
  (∃ n, q = .getMctpVersionSupport n ∧ (n = 0xFF ∨ n = 0 ∨ n = 1 ∨ n = 0x7E) ∧ b = [0, BitVec.ofNat 8 (Config.mctpVersions n).length] ++ (Config.mctpVersions n).flatMap (fun e => leBytes 4 e.toNat)) ∨
  (q = .getVendorDefinedMessageSupport ∧ b = [0, 0xFF, 0, BitVec.ofNat 8 (Config.vendorId / 256), BitVec.ofNat 8 Config.vendorId] ++ leBytes 2 Config.vendorVersion) ∨
  (q = .getTid ∧ b = [0, BitVec.ofNat 8 Config.tid]) ∨ (q = .getPldmTypes ∧ b = [0] ++ leBytes 8 5) ∨
  (∃ n, q = .getPldmVersion n ∧ (n = 0 ∨ n = 2) ∧ b = [0] ++ leBytes 4 0 ++ [5] ++ Config.pldmVersions n) ∨ (∃ n, q = .getPldmVersion n ∧ n ≠ 0 ∧ n ≠ 2 ∧ b = [0x83]) ∨
  (q = .getPldmCommands 0 ∧ b = [0] ++ leBytes 32 60) ∨ (q = .getPldmCommands 2 ∧ b = [0] ++ leBytes 32 131072) ∨ (∃ n, q = .getPldmCommands n ∧ n ≠ 0 ∧ n ≠ 2 ∧ b = [0x83]) ∨
  (q = .getStatus ∧ b = leBytes 4 0 ++ leBytes 4 s.hub.ready.toNat ++ leBytes 4 (topsCode s.sec.tops) ++ leBytes 4 (fltStatusWord s) ++ leBytes 4 (thmStatusWord s) ++ leBytes 4 (pwrStatusWord s)) ∨
  (∃ i, q = .getFaultLog i ∧ b = leBytes 4 0 ++ ((s.flt.log.dropWhile (fun r => r.index != i)).take 8).flatMap recBytes)

/-- The management bus answers only while Tops is RUNNING or in RECOVERY, and a command that only asks changes nothing else. A PLDM command that the device does not support is answered with ERROR_UNSUPPORTED_PLDM_CMD, a command byte outside Table 17.16 with MALFORMED.
The bytes of MCTP and PLDM are the model's reading of those specifications (log 47), those of GET_STATUS and GET_FAULT_LOG its choice (log 49). -/
def Claims.ManagementAnswers : Prop :=
  ∀ (s : State) (q : Instr) (b : List Byte), mgmtControl s q b →
    (topsRuns s = true → exec q s = .next { s with resps := s.resps ++ [.bytes respMgmt b] }) ∧ (topsRuns s = false → exec q s = .next s) ∧
    (topsRuns s = true →
      (∀ typ cmd, ¬ ((typ = 0 ∧ 2 ≤ cmd ∧ cmd ≤ 5) ∨ (typ = 2 ∧ cmd = 0x11)) → pldmOther typ cmd s = .next { s with resps := s.resps ++ [.bytes respMgmt [5]] }) ∧
      (∀ cmd, cmd = 0 ∨ 6 < cmd → mgmtOther cmd s = .next { s with resps := s.resps ++ [.bytes respMgmt (leBytes 4 2)] }))

/-- Sensors over PLDM (R418, Table 17.15): a temperature in units of 0.125 K, two bytes; the power, supply, flow and life readings, four bytes; an invalid reading reports that it is unavailable, and an ID that the table does not list is refused. The bytes around a reading are the model's reading of PLDM (log 47). -/
def Claims.SensorReadings : Prop :=
  ∀ (s : State) (id : Nat), topsRuns s = true →
    let ans := fun (b : List Byte) => Host.Outcome.next { s with resps := s.resps ++ [.bytes respMgmt b] }
    (1 ≤ id → id ≤ 301 → exec (.getSensorReading id) s = ans (if (getSensor s (id - 1)).valid then [0, 3, 0, 0, 0, 0, 0] ++ leBytes 2 (BitVec.ofInt 16 (getSensor s (id - 1)).temp).toNat else [0, 3, 2, 0, 0, 0, 0] ++ leBytes 2 0)) ∧
    (∀ v, (id = 0x200 ∧ v = s.pwr.pkg / 10) ∨ (id = 0x201 ∧ v = s.pwr.mv) ∨ (id = 0x202 ∧ v = s.pwr.amps) ∨ (id = 0x203 ∧ v = s.thm.flow) ∨ (id = 0x320 ∧ v = 50000) ∨
        (∃ r : RegionId, id = 0x300 + r.val ∧ v = (vget s.thm.cycles r).count) → exec (.getSensorReading id) s = ans ([0, 4, 0, 0, 0, 0, 0] ++ leBytes 4 v)) ∧
    (id = 0 ∨ (301 < id ∧ id < 0x200) ∨ (0x203 < id ∧ id < 0x300) ∨ 0x320 < id → exec (.getSensorReading id) s = ans [0x80])

/-- The other commands of the management bus (R417, R419): the endpoint ID is set to any ID but 0 and 0xFF (its answer's bytes are log 47); a reset of units 1 to 5 is Tops's request for it, with REFUSED for unit 6 and others, and a partition that a stream keeps waiting is reset later; events are read once, oldest first, in bytes that are the model's choice (log 49), which releases ALERT_N; an ATTEST request waits in Taproot's order
and is answered with its status and, where it is granted, the report or the chain. -/
def Claims.ManagementActs : Prop :=
  ∀ (s : State), topsRuns s = true →
    (∀ eid, 0 < eid → eid < 255 → exec (.setEndpointId eid) s = .next { s with hub := { s.hub with eid := eid }, resps := s.resps ++ [.bytes respMgmt [0, 0, BitVec.ofNat 8 eid, 0]] }) ∧
    (∀ eid, eid = 0 ∨ 255 ≤ eid → exec (.setEndpointId eid) s = .next { s with resps := s.resps ++ [.bytes respMgmt [2]] }) ∧
    (∀ u x c, u = 0 ∨ 5 < u → exec (.mgmtReset u x c) s = .next { s with resps := s.resps ++ [.bytes respMgmt (leBytes 4 1)] }) ∧
    (∀ x c, ∃ t, exec (.mgmtReset 5 x c) s = .next t ∧ t.flt.chipCause = 2 ∧ t.resps = s.resps ++ [.bytes respMgmt (leBytes 4 0)]) ∧
    (∀ u x c, 1 ≤ u → u ≤ 4 → s.flt.oos = true ∨ targetOwned s u x = false → ∃ t, exec (.mgmtReset u x c) s = .next t ∧ t.resps = s.resps ++ [.bytes respMgmt (leBytes 4 1)] ∧ t.flt.run = s.flt.run) ∧
    (∀ u x c y, 1 ≤ u → u ≤ 4 → s.flt.oos = false → targetOwned s u x = true → s.flt.run = some y → resetContains s y u x c = false → s.cfg.run = none →
      ∃ t, exec (.mgmtReset u x c) s = .next t ∧ t.resps = s.resps ++ [.bytes respMgmt (leBytes 4 3)] ∧ t.flt.run = s.flt.run) ∧
    (∀ (p : PartId) c, s.flt.oos = false → targetOwned s 4 p.val = true → recentReset s 4 p.val c = false → waitsOnStream s p.val = true → (∀ y, s.flt.run = some y → resetContains s y 4 p.val c = false) →
      ∃ t, exec (.mgmtReset 4 p.val c) s = .next t ∧ t.resps = s.resps ++ [.bytes respMgmt (leBytes 4 0)] ∧ t.flt.run = s.flt.run ∧ t.flt.held = s.flt.held ++ [⟨4, p.val, 0, false, 0, true⟩] ∧ t.cores = s.cores) ∧
    (∀ k : CoreId, s.flt.oos = false → targetOwned s 2 k.val = true → s.flt.run = none → recentReset s 2 k.val 0 = false →
      ∃ t, exec (.mgmtReset 2 k.val 0) s = .next t ∧ t.resps = s.resps ++ [.bytes respMgmt (leBytes 4 0)] ∧ t.flt.run = some ⟨2, k.val, 0, false, 1, true⟩ ∧ ∀ c, (getCtx t k c).st = .halted) ∧
    (exec .getEvents s = .next { s with hub := { s.hub with events := [] }, resps := s.resps ++ [.bytes respMgmt (leBytes 4 0 ++ s.hub.events.flatMap eventBytes)] }) ∧
    (∀ kind scope pad nonce, s.cfg.run ≠ none ∨ s.sec.imgFetch ≠ none ∨ s.sec.ktFetch ≠ none →
      (s.sec.waiting.filter (fun r => sameTransport (.mctp true kind scope pad nonce) r)).length < 4 →
      exec (.attest kind ⟨scope, pad⟩ nonce) s = .next { s with sec := { s.sec with waiting := s.sec.waiting ++ [.mctp true kind scope pad nonce] } }) ∧
    (∀ kind scope pad nonce, svcFree s → ∃ t b, exec (.attest kind ⟨scope, pad⟩ nonce) s = .next t ∧ t.resps = s.resps ++ [.bytes respMgmt b] ∧
      ((kind ≠ 1 ∧ kind ≠ 2) ∨ pad ≠ 0 ∨ (kind = 1 ∧ nonce.length ≠ 32) → b = leBytes 4 3) ∧
      (pad = 0 → kind = 2 ∨ (kind = 1 ∧ nonce.length = 32) →
        (scope ≠ 0xFF → 31 < scope ∨ (getPart s (Fin.ofNat 32 scope)).live = false → b = leBytes 4 1) ∧
        (scope = 0xFF → b = leBytes 4 0 ++ (if kind = 2 then s.sec.chain else signedReport s none nonce)) ∧
        (scope ≤ 31 → (getPart s (Fin.ofNat 32 scope)).live = true → b = leBytes 4 0 ++ (if kind = 2 then s.sec.chain else signedReport s (some (Fin.ofNat 32 scope)) nonce))))

/-- The Tuber tick: with VAUX it counts ticks and the ages that hang on them, and a Tops that restarts is back (at this tick: the model's choice, log 65); without VAUX nothing moves. -/
def Claims.TuberTick : Prop :=
  ∀ (s : State),
    (s.hub.vaux = false → exec .tuberTick s = .next s) ∧
    (s.hub.vaux = true → ∃ t, exec .tuberTick s = .next t ∧ t.tick = s.tick + 1 ∧ t.cores = s.cores ∧ t.near = s.near ∧ t.mesh = s.mesh ∧ t.pwr = s.pwr ∧ t.thm = s.thm ∧
      (s.sec.tops = .restarting → t.sec.tops = .running ∨ t.sec.tops = .recovery) ∧ (s.sec.tops ≠ .restarting → t.sec.tops = s.sec.tops) ∧
      (∀ (r : RegionId) (i : Fin 16), (vget (getRegion t r).cet i).age = if (vget (getRegion s r).cet i).valid then min (2 ^ 20) ((vget (getRegion s r).cet i).age + 1) else (vget (getRegion s r).cet i).age) ∧
      (∀ n : Fin 8, (vget t.stks n).mem = (vget s.stks n).mem))

/-! ### The whole machine -/

/-- What the fuses have once allowed no more is never allowed again: neither firmware floor falls, and the revocation of image key 0 and the enrolment stay (R313, R317). -/
def fusesAtLeast (a b : Fuses) : Prop :=
  a.patchFloor ≤ b.patchFloor ∧ a.topsFloor ≤ b.topsFloor ∧ (a.key0Revoked = true → b.key0Revoked = true) ∧ (a.enrolled = true → b.enrolled = true)

/-- Every step, whatever the command, leaves the fuses at least as strict (no command of any agent, no reset and no loss of a supply rolls the firmware floors back). -/
def Obligations.FusesNeverFall : Prop := ∀ s t : State, step s = .next t → fusesAtLeast s.fuses t.fuses

/-- The package cap and the chip ramp lie in their ranges (R333, R334). -/
def limitsInRange (s : State) : Prop := 500 ≤ s.pwr.cap ∧ s.pwr.cap ≤ 2500 ∧ 20 ≤ s.pwr.ramp ∧ s.pwr.ramp ≤ 250

/-- The limits stay in their ranges in every step. -/
def Obligations.LimitsStayInRange : Prop := ∀ s t : State, limitsInRange s → step s = .next t → limitsInRange t

/-- The context takes a fault at issue (R64, R80): FAULT_CLASS_ADDR names the instruction, a record of it waits for the hub, and the context is FAULTED or in its handler with the address of the instruction in G31. -/
def faultedAt (s t : State) (k : CoreId) (c : CtxId) : Prop :=
  (getCtx t k c).fltAddr = pcOf s k c ∧ (∃ l r l', t.flt.waiting = s.flt.waiting ++ l ++ r :: l' ∧ r.iaddr = iaddrOf (pcOf s k c) none) ∧
    ((getCtx t k c).st = .faulted ∨ ((getCtx t k c).handler = true ∧ gOf t k c 31 = (pcOf s k c).setWidth 64))

/-- Every command is answered by a next state that leaves the queue as it was; that one for which the state has no event leaves everything as it was is the model's choice (log 1). An instruction of a program that issues (R63, R64, R81) has exactly one of three outcomes, whichever instruction it is: it completes, and the count of retired instructions
goes up by one; it waits, its context BLOCKED with its pc and its count as they were; or its context takes a fault. -/
def Obligations.EveryCommandGoesOn : Prop :=
  (∀ (i : Instr) (s : State), ∃ t, exec i s = .next t ∧ t.pending = s.pending) ∧
  (∀ (i : Instr) (k : CoreId) (s : State) (c : CtxId), programCore i = some k → (∀ w, i = .nop k w → opListed w = false ∨ isNopWord w = true) →
    runningCtx s k = some c → coreClocked s k = true → resetCovers s k c.val = false → 64 ≤ (pcOf s k c).toNat →
    ∃ t, exec i s = .next t ∧
      ((getCtx t k c).ret = (getCtx s k c).ret + 1 ∨
        ((getCtx t k c).ret = (getCtx s k c).ret ∧ (((getCtx t k c).st = .blocked ∧ pcOf t k c = pcOf s k c) ∨ faultedAt s t k c))))

/-- The number formats of the lanes and of the operands (R67, R71): every bit pattern of FP32, BF16 or FP16 that is not a NaN encodes the value it decodes to, so that a conversion of a value that the format holds is exact. -/
def Claims.FormatRoundTrip : Prop :=
  ∀ f ∈ [fp32Fmt, bf16Fmt, fp16Fmt], ∀ w, w < 2 ^ (1 + f.eb + f.mb) → fDecode f w ≠ .nan → fEncode f (fDecode f w) = w

/-- A sum and a product of two lanes do not depend on their order (R71), in any of the three formats. -/
def Claims.FormatsCommute : Prop :=
  ∀ f ∈ [fp32Fmt, bf16Fmt, fp16Fmt], ∀ a b, fEncode f (fAdd (fDecode f a) (fDecode f b)) = fEncode f (fAdd (fDecode f b) (fDecode f a)) ∧
    fEncode f (fMul (fDecode f a) (fDecode f b)) = fEncode f (fMul (fDecode f b) (fDecode f a))

/-- The 64-bit words of a core's instructions and the instructions themselves (R69, Tables 3.7 to 3.13): every word is read as one instruction, whose fields give the word back; an instruction of a core that has a word is read back from it with every field. -/
def Obligations.WordsAndInstructions : Prop :=
  (∀ (k : CoreId) (w : BitVec 64), encodeInstr (decodeInstr k w) = some (k, w)) ∧
  (∀ (i : Instr) (k : CoreId) (w : BitVec 64), encodeInstr i = some (k, w) → decodeInstr k w = i)

/-- The header of a mesh message (R242, Table 10.2): its fields are read back from its 64 bits, whose low three are 0; a message's row of routers begins where its path does, and every port of an endpoint lies at a router of the tile it is a port of (Table 10.1). -/
def Claims.MeshHeader : Prop :=
  (∀ h : MeshHdr, hdrOfBits (hdrBits h) = h ∧ (hdrBits h).extractLsb' 0 3 = 0) ∧
  (∀ (s : State) (src dst : End) (cls : Nat), (frameRouters s src dst cls).head? = some (framePath s src dst cls).1) ∧
  (∀ (die : Fin 32) (t : Fin 4), ∀ p ∈ epPorts die.val t.val, tileAt p = t.val)

/-- The pins of Table 2.5 (R44): a pin that no claim names is high-impedance, as is one of function 0x00; the indicators 0x02, 0x03 and 0x04 are low exactly while the partition has an unserviced fault, the device is out of service, or a region is thermally throttled. -/
def Claims.PinLevels : Prop :=
  ∀ (s : State) (n : Nat),
    (hubRuns s = false → gpioLevel s n = .highZ) ∧
    ((∀ y ∈ s.cfg.pins, y.pin ≠ some n) → gpioLevel s n = .highZ) ∧
    (∀ y, hubRuns s = true → s.cfg.pins.find? (fun y => y.pin == some n) = some y → y.owner = .stream →
      (y.func = 0 → gpioLevel s n = .highZ) ∧
      (∀ p, y.func = 2 → y.part = some p → gpioLevel s n = (if s.flt.partUnserviced.getLsbD p then .low else .high)) ∧
      (y.func = 3 → gpioLevel s n = (if s.flt.oos then .low else .high)) ∧
      (y.func = 4 → ((∃ r : RegionId, vget s.thm.ceil r < 28) → gpioLevel s n = .low) ∧ ((∀ r : RegionId, 28 ≤ vget s.thm.ceil r) → gpioLevel s n = .high)))

/-! ### The statements that join claims of one subject -/

/-- Scalar arithmetic, immediates, tile-register moves and branches of a core: results and faults. -/
def Obligations.ScalarInstructions : Prop :=
  Claims.RegisterArithmetic ∧
  Claims.LoadImmediate ∧
  Claims.TileRegisterMoves ∧
  Claims.ScalarRegisterFile ∧
  Claims.Branches

/-- Loads and stores of local memory: results, address checks and poison. -/
def Obligations.LoadsAndStores : Prop :=
  Claims.Loads ∧
  Claims.Stores ∧
  Claims.LocalAccessFaults ∧
  Claims.LoadOfPoison ∧
  Claims.StoreThroughErrors ∧
  Claims.StoreWholeBlocks

/-- Vector instructions: lanes, bitwise operations, reductions, moves and illegal forms. -/
def Obligations.VectorInstructions : Prop :=
  Claims.VectorLanes ∧
  Claims.VectorBitwise ∧
  Claims.VectorReductions ∧
  Claims.VectorMoves ∧
  Claims.VectorSelects ∧
  Claims.VectorConversions ∧
  Claims.VectorIllegal

/-- FP32, BF16 and FP16: encode after decode is the identity, and sums and products commute. -/
def Obligations.NumberFormats : Prop :=
  Claims.FormatRoundTrip ∧
  Claims.FormatsCommute

/-- Tensor instructions at issue: what enters the queue, its bound, TWAIT, tile owners. -/
def Obligations.TensorIssues : Prop :=
  Claims.TensorIssue ∧
  Claims.AttnIssue ∧
  Claims.TensorQueueBound ∧
  Claims.TensorWait ∧
  Claims.AnchorFieldOfOthers ∧
  Claims.TileOwner

/-- Accumulator elements: classes, placement of a product, order of a pass, default anchors. -/
def Obligations.AccumulatorArithmetic : Prop :=
  Claims.ClassCombine ∧
  Claims.PlaceProduct ∧
  Claims.PassOrderFree ∧
  Claims.DefaultAnchorExact

/-- Tensor operations in their turn: ACCZ, ACCRD, ACCWR, passes, replays and epilogues. -/
def Obligations.TensorPasses : Prop :=
  Claims.AccumulatorOps ∧
  Claims.OperandsHeld ∧
  Claims.PassStart ∧
  Claims.PassCommit ∧
  Claims.ReplayStart ∧
  Claims.Epilogue

/-- The stream instructions STRM_SET, GO, FILL, WAIT, SWAP and CANCEL. -/
def Obligations.StreamInstructions : Prop :=
  Claims.StreamSet ∧
  Claims.StreamStart ∧
  Claims.StreamBlocked ∧
  Claims.StreamWait ∧
  Claims.StreamSwap ∧
  Claims.StreamCancel

/-- Requests of a transfer, their return, and deadlines. -/
def Obligations.StreamTransfers : Prop :=
  Claims.StreamRequests ∧
  Claims.StreamReturns

/-- SPR_ISSUE, SPR_FENCE and COL_ISSUE send their commands and wait as the rules say. -/
def Obligations.IssueToUnits : Prop :=
  Claims.SproutIssue ∧
  Claims.CollectiveIssue

/-- Sync and message instructions at issue. -/
def Obligations.SyncAndMessages : Prop :=
  Claims.SyncInstructions ∧
  Claims.SyncWait ∧
  Claims.Messages

/-- System instructions, tasks, unlisted words and the rotation of the issue slot. -/
def Obligations.SystemInstructions : Prop :=
  Claims.PlainSystem ∧
  Claims.UnlistedWord ∧
  Claims.StartContext ∧
  Claims.Tasks ∧
  Claims.IssueRotation ∧
  Claims.NoIssue

/-- What a fault of a context does: delivery, FAULTED contexts, aborted tasks. -/
def Obligations.ContextFaults : Prop :=
  Claims.FaultDelivered ∧
  Claims.FaultRaised ∧
  Claims.FaultAbortsTask

/-- Sync units: their operations, waits and replies. -/
def Obligations.SyncUnits : Prop :=
  Claims.SyncUnit ∧
  Claims.SyncWaits ∧
  Claims.SyncReplies

/-- Messages between contexts: admission, refusal, resume, acknowledgement, misroute, and the header. -/
def Obligations.MessageFrames : Prop :=
  Claims.MessageArrives ∧
  Claims.SenderSide ∧
  Claims.ResumeAndMisroute ∧
  Claims.MeshHeader

/-- Reductions on the mesh: combining at a node, and results at the cores. -/
def Obligations.Reductions : Prop :=
  Claims.NodeCombines ∧
  Claims.ResultArrives

/-- Stores and poison of a core's memories, the scrubber and the refresh of a slice. -/
def Obligations.LocalMemories : Prop :=
  Claims.StoresAndPoison ∧
  Claims.SliceScrubAndRefresh

/-- Correctable events, their tables, row repairs and the checker test mode. -/
def Obligations.CorrectableErrors : Prop :=
  Claims.CorrectableTable ∧
  Claims.CetEvents ∧
  Claims.RowRepairs ∧
  Claims.TestMode

/-- Stack controllers: grants, scrubbing, repair, refresh and the traffic generator. -/
def Obligations.StackControllers : Prop :=
  Claims.StackGrants ∧
  Claims.StackUpkeep ∧
  Claims.TrafficGenerator

/-- Sprout commands: arrival, run, completion and fences. -/
def Obligations.Sprouts : Prop :=
  Claims.SproutArrives ∧
  Claims.SproutRuns ∧
  Claims.SproutCompletes ∧
  Claims.SproutFences

/-- The KV page manager: entries, copies and the selection registers. -/
def Obligations.PageManager : Prop :=
  Claims.KvEntries ∧
  Claims.KvCopies ∧
  Claims.KvSelection

/-- ATTN in its turn: start, fetch, passes, completion, and the shift of its sums. -/
def Obligations.Attention : Prop :=
  Claims.AttnRuns ∧
  Claims.AttnShift

/-- Chip-link ports: flits in order, training and retraining. -/
def Obligations.LinkPorts : Prop :=
  Claims.LinkFlits ∧
  Claims.PortTraining ∧
  Claims.PortRetraining

/-- Collective trees: confirmation, operations at an engine and their combination. -/
def Obligations.CollectiveTrees : Prop :=
  Claims.TreeStates ∧
  Claims.EngineFrames ∧
  Claims.EngineCombine

/-- Register writes by access code, and configuration requests. -/
def Obligations.RegisterAccesses : Prop :=
  Claims.RegisterWrites ∧
  Claims.ConfigRequests

/-- Host windows, messages, rings, controls and the aperture. -/
def Obligations.HostChannels : Prop :=
  Claims.HostWindows ∧
  Claims.HostForwards ∧
  Claims.Rings ∧
  Claims.HostControls ∧
  Claims.Aperture

/-- Configuration streams: loading, checks, commits, key changes, teardown, pin claims and pin levels. -/
def Obligations.ConfigStreams : Prop :=
  Claims.StreamBegins ∧
  Claims.StreamChecked ∧
  Claims.StreamCommits ∧
  Claims.SpecialCommits ∧
  Claims.PinClaims ∧
  Claims.PinLevels

/-- Taproot's services: floors, reports, images, key tables and guest certificates. -/
def Obligations.TrustServices : Prop :=
  Claims.FloorsAndKeys ∧
  Claims.Reports ∧
  Claims.ImagesAndTables ∧
  Claims.GuestCertificates

/-- The fault log of the hub, and the watch over Tops and Taproot's memories. -/
def Obligations.FaultLogAndTops : Prop :=
  Claims.FaultLog ∧
  Claims.WatchingTops

/-- Requests for a reset, the end of a reset, and chip resets. -/
def Obligations.Resets : Prop :=
  Claims.ResetRequests ∧
  Claims.ResetEnds ∧
  Claims.ChipResets

/-- The chip ramp, the brake, the region states and the self-refresh of stacks. -/
def Obligations.PowerStates : Prop :=
  Claims.ChipRamp ∧
  Claims.Brake ∧
  Claims.RegionStates

/-- Clock monitors, lost rails, the loss of SYSREF and the Tuber trim. -/
def Obligations.ClockFailures : Prop :=
  Claims.Clocks ∧
  Claims.TuberTrim

/-- The schedule of readings, throttle targets, coolant, shutdown and the Tuber tick. -/
def Obligations.ThermalRules : Prop :=
  Claims.ReadingSchedule ∧
  Claims.ThrottleTargets ∧
  Claims.CoolantAndShutdown ∧
  Claims.TuberTick

/-- Die resets, flits of a die link, lane retirement and bundle training. -/
def Obligations.DiesAndDieLinks : Prop :=
  Claims.DieResets ∧
  Claims.DieLinkFlits ∧
  Claims.LaneRetirement ∧
  Claims.BundleTraining

/-- Supplies, PERST_N, the phases of bring-up and field-repair records. -/
def Obligations.BringUpAndSupplies : Prop :=
  Claims.Supplies ∧
  Claims.BringUp ∧
  Claims.FieldRepair

/-- Guest sites: admission, Husk's checks and what a frame does. -/
def Obligations.GuestSites : Prop :=
  Claims.GuestAdmission ∧
  Claims.HuskChecks ∧
  Claims.HuskEffects

/-- The management bus: MCTP, PLDM and the commands of Table 17.16. -/
def Obligations.ManagementBus : Prop :=
  Claims.ManagementAnswers ∧
  Claims.SensorReadings ∧
  Claims.ManagementActs
end

