-- ==== Sys2Proof/Laws/State.lean ====
section
/-!
SUPPORT. One lemma per field of the state and per update, so that no proof unfolds a record update: an update leaves every
field but its own as it was. Reading an updated unit comes after them.
-/

namespace Sys2Proof.Machine

/-! ### setCore -/

section
variable (s : State) (k : CoreId) (c : Core)

@[simp] theorem setCore_regions : (setCore s k c).regions = s.regions := rfl
@[simp] theorem setCore_parts : (setCore s k c).parts = s.parts := rfl
@[simp] theorem setCore_near : (setCore s k c).near = s.near := rfl
@[simp] theorem setCore_stks : (setCore s k c).stks = s.stks := rfl
@[simp] theorem setCore_kvp : (setCore s k c).kvp = s.kvp := rfl
@[simp] theorem setCore_pst : (setCore s k c).pst = s.pst := rfl
@[simp] theorem setCore_hst : (setCore s k c).hst = s.hst := rfl
@[simp] theorem setCore_irqs : (setCore s k c).irqs = s.irqs := rfl
@[simp] theorem setCore_resps : (setCore s k c).resps = s.resps := rfl
@[simp] theorem setCore_hostWrites : (setCore s k c).hostWrites = s.hostWrites := rfl
@[simp] theorem setCore_red : (setCore s k c).red = s.red := rfl
@[simp] theorem setCore_ports : (setCore s k c).ports = s.ports := rfl
@[simp] theorem setCore_trees : (setCore s k c).trees = s.trees := rfl
@[simp] theorem setCore_links : (setCore s k c).links = s.links := rfl
@[simp] theorem setCore_mesh : (setCore s k c).mesh = s.mesh := rfl
@[simp] theorem setCore_routes : (setCore s k c).routes = s.routes := rfl
@[simp] theorem setCore_meshTiles : (setCore s k c).meshTiles = s.meshTiles := rfl
@[simp] theorem setCore_meters : (setCore s k c).meters = s.meters := rfl
@[simp] theorem setCore_flt : (setCore s k c).flt = s.flt := rfl
@[simp] theorem setCore_fuses : (setCore s k c).fuses = s.fuses := rfl
@[simp] theorem setCore_cfg : (setCore s k c).cfg = s.cfg := rfl
@[simp] theorem setCore_sec : (setCore s k c).sec = s.sec := rfl
@[simp] theorem setCore_pwr : (setCore s k c).pwr = s.pwr := rfl
@[simp] theorem setCore_clk : (setCore s k c).clk = s.clk := rfl
@[simp] theorem setCore_thm : (setCore s k c).thm = s.thm := rfl
@[simp] theorem setCore_pairs : (setCore s k c).pairs = s.pairs := rfl
@[simp] theorem setCore_dl : (setCore s k c).dl = s.dl := rfl
@[simp] theorem setCore_guests : (setCore s k c).guests = s.guests := rfl
@[simp] theorem setCore_hub : (setCore s k c).hub = s.hub := rfl
@[simp] theorem setCore_tick : (setCore s k c).tick = s.tick := rfl
@[simp] theorem setCore_freeCtr : (setCore s k c).freeCtr = s.freeCtr := rfl
@[simp] theorem setCore_pending : (setCore s k c).pending = s.pending := rfl
end

/-! ### modCore -/

section
variable (s : State) (k : CoreId) (f : Core → Core)

@[simp] theorem modCore_regions : (modCore s k f).regions = s.regions := rfl
@[simp] theorem modCore_parts : (modCore s k f).parts = s.parts := rfl
@[simp] theorem modCore_near : (modCore s k f).near = s.near := rfl
@[simp] theorem modCore_stks : (modCore s k f).stks = s.stks := rfl
@[simp] theorem modCore_kvp : (modCore s k f).kvp = s.kvp := rfl
@[simp] theorem modCore_pst : (modCore s k f).pst = s.pst := rfl
@[simp] theorem modCore_hst : (modCore s k f).hst = s.hst := rfl
@[simp] theorem modCore_irqs : (modCore s k f).irqs = s.irqs := rfl
@[simp] theorem modCore_resps : (modCore s k f).resps = s.resps := rfl
@[simp] theorem modCore_hostWrites : (modCore s k f).hostWrites = s.hostWrites := rfl
@[simp] theorem modCore_red : (modCore s k f).red = s.red := rfl
@[simp] theorem modCore_ports : (modCore s k f).ports = s.ports := rfl
@[simp] theorem modCore_trees : (modCore s k f).trees = s.trees := rfl
@[simp] theorem modCore_links : (modCore s k f).links = s.links := rfl
@[simp] theorem modCore_mesh : (modCore s k f).mesh = s.mesh := rfl
@[simp] theorem modCore_routes : (modCore s k f).routes = s.routes := rfl
@[simp] theorem modCore_meshTiles : (modCore s k f).meshTiles = s.meshTiles := rfl
@[simp] theorem modCore_meters : (modCore s k f).meters = s.meters := rfl
@[simp] theorem modCore_flt : (modCore s k f).flt = s.flt := rfl
@[simp] theorem modCore_fuses : (modCore s k f).fuses = s.fuses := rfl
@[simp] theorem modCore_cfg : (modCore s k f).cfg = s.cfg := rfl
@[simp] theorem modCore_sec : (modCore s k f).sec = s.sec := rfl
@[simp] theorem modCore_pwr : (modCore s k f).pwr = s.pwr := rfl
@[simp] theorem modCore_clk : (modCore s k f).clk = s.clk := rfl
@[simp] theorem modCore_thm : (modCore s k f).thm = s.thm := rfl
@[simp] theorem modCore_pairs : (modCore s k f).pairs = s.pairs := rfl
@[simp] theorem modCore_dl : (modCore s k f).dl = s.dl := rfl
@[simp] theorem modCore_guests : (modCore s k f).guests = s.guests := rfl
@[simp] theorem modCore_hub : (modCore s k f).hub = s.hub := rfl
@[simp] theorem modCore_tick : (modCore s k f).tick = s.tick := rfl
@[simp] theorem modCore_freeCtr : (modCore s k f).freeCtr = s.freeCtr := rfl
@[simp] theorem modCore_pending : (modCore s k f).pending = s.pending := rfl
end

/-! ### modCtx -/

section
variable (s : State) (k : CoreId) (c : CtxId) (f : Ctx → Ctx)

@[simp] theorem modCtx_regions : (modCtx s k c f).regions = s.regions := rfl
@[simp] theorem modCtx_parts : (modCtx s k c f).parts = s.parts := rfl
@[simp] theorem modCtx_near : (modCtx s k c f).near = s.near := rfl
@[simp] theorem modCtx_stks : (modCtx s k c f).stks = s.stks := rfl
@[simp] theorem modCtx_kvp : (modCtx s k c f).kvp = s.kvp := rfl
@[simp] theorem modCtx_pst : (modCtx s k c f).pst = s.pst := rfl
@[simp] theorem modCtx_hst : (modCtx s k c f).hst = s.hst := rfl
@[simp] theorem modCtx_irqs : (modCtx s k c f).irqs = s.irqs := rfl
@[simp] theorem modCtx_resps : (modCtx s k c f).resps = s.resps := rfl
@[simp] theorem modCtx_hostWrites : (modCtx s k c f).hostWrites = s.hostWrites := rfl
@[simp] theorem modCtx_red : (modCtx s k c f).red = s.red := rfl
@[simp] theorem modCtx_ports : (modCtx s k c f).ports = s.ports := rfl
@[simp] theorem modCtx_trees : (modCtx s k c f).trees = s.trees := rfl
@[simp] theorem modCtx_links : (modCtx s k c f).links = s.links := rfl
@[simp] theorem modCtx_mesh : (modCtx s k c f).mesh = s.mesh := rfl
@[simp] theorem modCtx_routes : (modCtx s k c f).routes = s.routes := rfl
@[simp] theorem modCtx_meshTiles : (modCtx s k c f).meshTiles = s.meshTiles := rfl
@[simp] theorem modCtx_meters : (modCtx s k c f).meters = s.meters := rfl
@[simp] theorem modCtx_flt : (modCtx s k c f).flt = s.flt := rfl
@[simp] theorem modCtx_fuses : (modCtx s k c f).fuses = s.fuses := rfl
@[simp] theorem modCtx_cfg : (modCtx s k c f).cfg = s.cfg := rfl
@[simp] theorem modCtx_sec : (modCtx s k c f).sec = s.sec := rfl
@[simp] theorem modCtx_pwr : (modCtx s k c f).pwr = s.pwr := rfl
@[simp] theorem modCtx_clk : (modCtx s k c f).clk = s.clk := rfl
@[simp] theorem modCtx_thm : (modCtx s k c f).thm = s.thm := rfl
@[simp] theorem modCtx_pairs : (modCtx s k c f).pairs = s.pairs := rfl
@[simp] theorem modCtx_dl : (modCtx s k c f).dl = s.dl := rfl
@[simp] theorem modCtx_guests : (modCtx s k c f).guests = s.guests := rfl
@[simp] theorem modCtx_hub : (modCtx s k c f).hub = s.hub := rfl
@[simp] theorem modCtx_tick : (modCtx s k c f).tick = s.tick := rfl
@[simp] theorem modCtx_freeCtr : (modCtx s k c f).freeCtr = s.freeCtr := rfl
@[simp] theorem modCtx_pending : (modCtx s k c f).pending = s.pending := rfl
end

/-! ### setG -/

section
variable (s : State) (k : CoreId) (c : CtxId) (i : BitVec 5) (v : W64)

@[simp] theorem setG_regions : (setG s k c i v).regions = s.regions := rfl
@[simp] theorem setG_parts : (setG s k c i v).parts = s.parts := rfl
@[simp] theorem setG_near : (setG s k c i v).near = s.near := rfl
@[simp] theorem setG_stks : (setG s k c i v).stks = s.stks := rfl
@[simp] theorem setG_kvp : (setG s k c i v).kvp = s.kvp := rfl
@[simp] theorem setG_pst : (setG s k c i v).pst = s.pst := rfl
@[simp] theorem setG_hst : (setG s k c i v).hst = s.hst := rfl
@[simp] theorem setG_irqs : (setG s k c i v).irqs = s.irqs := rfl
@[simp] theorem setG_resps : (setG s k c i v).resps = s.resps := rfl
@[simp] theorem setG_hostWrites : (setG s k c i v).hostWrites = s.hostWrites := rfl
@[simp] theorem setG_red : (setG s k c i v).red = s.red := rfl
@[simp] theorem setG_ports : (setG s k c i v).ports = s.ports := rfl
@[simp] theorem setG_trees : (setG s k c i v).trees = s.trees := rfl
@[simp] theorem setG_links : (setG s k c i v).links = s.links := rfl
@[simp] theorem setG_mesh : (setG s k c i v).mesh = s.mesh := rfl
@[simp] theorem setG_routes : (setG s k c i v).routes = s.routes := rfl
@[simp] theorem setG_meshTiles : (setG s k c i v).meshTiles = s.meshTiles := rfl
@[simp] theorem setG_meters : (setG s k c i v).meters = s.meters := rfl
@[simp] theorem setG_flt : (setG s k c i v).flt = s.flt := rfl
@[simp] theorem setG_fuses : (setG s k c i v).fuses = s.fuses := rfl
@[simp] theorem setG_cfg : (setG s k c i v).cfg = s.cfg := rfl
@[simp] theorem setG_sec : (setG s k c i v).sec = s.sec := rfl
@[simp] theorem setG_pwr : (setG s k c i v).pwr = s.pwr := rfl
@[simp] theorem setG_clk : (setG s k c i v).clk = s.clk := rfl
@[simp] theorem setG_thm : (setG s k c i v).thm = s.thm := rfl
@[simp] theorem setG_pairs : (setG s k c i v).pairs = s.pairs := rfl
@[simp] theorem setG_dl : (setG s k c i v).dl = s.dl := rfl
@[simp] theorem setG_guests : (setG s k c i v).guests = s.guests := rfl
@[simp] theorem setG_hub : (setG s k c i v).hub = s.hub := rfl
@[simp] theorem setG_tick : (setG s k c i v).tick = s.tick := rfl
@[simp] theorem setG_freeCtr : (setG s k c i v).freeCtr = s.freeCtr := rfl
@[simp] theorem setG_pending : (setG s k c i v).pending = s.pending := rfl
end

/-! ### modNear -/

section
variable (s : State) (k : CoreId) (f : Near → Near)

@[simp] theorem modNear_cores : (modNear s k f).cores = s.cores := rfl
@[simp] theorem modNear_regions : (modNear s k f).regions = s.regions := rfl
@[simp] theorem modNear_parts : (modNear s k f).parts = s.parts := rfl
@[simp] theorem modNear_stks : (modNear s k f).stks = s.stks := rfl
@[simp] theorem modNear_kvp : (modNear s k f).kvp = s.kvp := rfl
@[simp] theorem modNear_pst : (modNear s k f).pst = s.pst := rfl
@[simp] theorem modNear_hst : (modNear s k f).hst = s.hst := rfl
@[simp] theorem modNear_irqs : (modNear s k f).irqs = s.irqs := rfl
@[simp] theorem modNear_resps : (modNear s k f).resps = s.resps := rfl
@[simp] theorem modNear_hostWrites : (modNear s k f).hostWrites = s.hostWrites := rfl
@[simp] theorem modNear_red : (modNear s k f).red = s.red := rfl
@[simp] theorem modNear_ports : (modNear s k f).ports = s.ports := rfl
@[simp] theorem modNear_trees : (modNear s k f).trees = s.trees := rfl
@[simp] theorem modNear_links : (modNear s k f).links = s.links := rfl
@[simp] theorem modNear_mesh : (modNear s k f).mesh = s.mesh := rfl
@[simp] theorem modNear_routes : (modNear s k f).routes = s.routes := rfl
@[simp] theorem modNear_meshTiles : (modNear s k f).meshTiles = s.meshTiles := rfl
@[simp] theorem modNear_meters : (modNear s k f).meters = s.meters := rfl
@[simp] theorem modNear_flt : (modNear s k f).flt = s.flt := rfl
@[simp] theorem modNear_fuses : (modNear s k f).fuses = s.fuses := rfl
@[simp] theorem modNear_cfg : (modNear s k f).cfg = s.cfg := rfl
@[simp] theorem modNear_sec : (modNear s k f).sec = s.sec := rfl
@[simp] theorem modNear_pwr : (modNear s k f).pwr = s.pwr := rfl
@[simp] theorem modNear_clk : (modNear s k f).clk = s.clk := rfl
@[simp] theorem modNear_thm : (modNear s k f).thm = s.thm := rfl
@[simp] theorem modNear_pairs : (modNear s k f).pairs = s.pairs := rfl
@[simp] theorem modNear_dl : (modNear s k f).dl = s.dl := rfl
@[simp] theorem modNear_guests : (modNear s k f).guests = s.guests := rfl
@[simp] theorem modNear_hub : (modNear s k f).hub = s.hub := rfl
@[simp] theorem modNear_tick : (modNear s k f).tick = s.tick := rfl
@[simp] theorem modNear_freeCtr : (modNear s k f).freeCtr = s.freeCtr := rfl
@[simp] theorem modNear_pending : (modNear s k f).pending = s.pending := rfl
end

/-! ### modRegion -/

section
variable (s : State) (r : RegionId) (f : Region → Region)

@[simp] theorem modRegion_cores : (modRegion s r f).cores = s.cores := rfl
@[simp] theorem modRegion_parts : (modRegion s r f).parts = s.parts := rfl
@[simp] theorem modRegion_near : (modRegion s r f).near = s.near := rfl
@[simp] theorem modRegion_stks : (modRegion s r f).stks = s.stks := rfl
@[simp] theorem modRegion_kvp : (modRegion s r f).kvp = s.kvp := rfl
@[simp] theorem modRegion_pst : (modRegion s r f).pst = s.pst := rfl
@[simp] theorem modRegion_hst : (modRegion s r f).hst = s.hst := rfl
@[simp] theorem modRegion_irqs : (modRegion s r f).irqs = s.irqs := rfl
@[simp] theorem modRegion_resps : (modRegion s r f).resps = s.resps := rfl
@[simp] theorem modRegion_hostWrites : (modRegion s r f).hostWrites = s.hostWrites := rfl
@[simp] theorem modRegion_red : (modRegion s r f).red = s.red := rfl
@[simp] theorem modRegion_ports : (modRegion s r f).ports = s.ports := rfl
@[simp] theorem modRegion_trees : (modRegion s r f).trees = s.trees := rfl
@[simp] theorem modRegion_links : (modRegion s r f).links = s.links := rfl
@[simp] theorem modRegion_mesh : (modRegion s r f).mesh = s.mesh := rfl
@[simp] theorem modRegion_routes : (modRegion s r f).routes = s.routes := rfl
@[simp] theorem modRegion_meshTiles : (modRegion s r f).meshTiles = s.meshTiles := rfl
@[simp] theorem modRegion_meters : (modRegion s r f).meters = s.meters := rfl
@[simp] theorem modRegion_flt : (modRegion s r f).flt = s.flt := rfl
@[simp] theorem modRegion_fuses : (modRegion s r f).fuses = s.fuses := rfl
@[simp] theorem modRegion_cfg : (modRegion s r f).cfg = s.cfg := rfl
@[simp] theorem modRegion_sec : (modRegion s r f).sec = s.sec := rfl
@[simp] theorem modRegion_pwr : (modRegion s r f).pwr = s.pwr := rfl
@[simp] theorem modRegion_clk : (modRegion s r f).clk = s.clk := rfl
@[simp] theorem modRegion_thm : (modRegion s r f).thm = s.thm := rfl
@[simp] theorem modRegion_pairs : (modRegion s r f).pairs = s.pairs := rfl
@[simp] theorem modRegion_dl : (modRegion s r f).dl = s.dl := rfl
@[simp] theorem modRegion_guests : (modRegion s r f).guests = s.guests := rfl
@[simp] theorem modRegion_hub : (modRegion s r f).hub = s.hub := rfl
@[simp] theorem modRegion_tick : (modRegion s r f).tick = s.tick := rfl
@[simp] theorem modRegion_freeCtr : (modRegion s r f).freeCtr = s.freeCtr := rfl
@[simp] theorem modRegion_pending : (modRegion s r f).pending = s.pending := rfl
end

/-! ### modPart -/

section
variable (s : State) (p : PartId) (f : PartCfg → PartCfg)

@[simp] theorem modPart_cores : (modPart s p f).cores = s.cores := rfl
@[simp] theorem modPart_regions : (modPart s p f).regions = s.regions := rfl
@[simp] theorem modPart_near : (modPart s p f).near = s.near := rfl
@[simp] theorem modPart_stks : (modPart s p f).stks = s.stks := rfl
@[simp] theorem modPart_kvp : (modPart s p f).kvp = s.kvp := rfl
@[simp] theorem modPart_pst : (modPart s p f).pst = s.pst := rfl
@[simp] theorem modPart_hst : (modPart s p f).hst = s.hst := rfl
@[simp] theorem modPart_irqs : (modPart s p f).irqs = s.irqs := rfl
@[simp] theorem modPart_resps : (modPart s p f).resps = s.resps := rfl
@[simp] theorem modPart_hostWrites : (modPart s p f).hostWrites = s.hostWrites := rfl
@[simp] theorem modPart_red : (modPart s p f).red = s.red := rfl
@[simp] theorem modPart_ports : (modPart s p f).ports = s.ports := rfl
@[simp] theorem modPart_trees : (modPart s p f).trees = s.trees := rfl
@[simp] theorem modPart_links : (modPart s p f).links = s.links := rfl
@[simp] theorem modPart_mesh : (modPart s p f).mesh = s.mesh := rfl
@[simp] theorem modPart_routes : (modPart s p f).routes = s.routes := rfl
@[simp] theorem modPart_meshTiles : (modPart s p f).meshTiles = s.meshTiles := rfl
@[simp] theorem modPart_meters : (modPart s p f).meters = s.meters := rfl
@[simp] theorem modPart_flt : (modPart s p f).flt = s.flt := rfl
@[simp] theorem modPart_fuses : (modPart s p f).fuses = s.fuses := rfl
@[simp] theorem modPart_cfg : (modPart s p f).cfg = s.cfg := rfl
@[simp] theorem modPart_sec : (modPart s p f).sec = s.sec := rfl
@[simp] theorem modPart_pwr : (modPart s p f).pwr = s.pwr := rfl
@[simp] theorem modPart_clk : (modPart s p f).clk = s.clk := rfl
@[simp] theorem modPart_thm : (modPart s p f).thm = s.thm := rfl
@[simp] theorem modPart_pairs : (modPart s p f).pairs = s.pairs := rfl
@[simp] theorem modPart_dl : (modPart s p f).dl = s.dl := rfl
@[simp] theorem modPart_guests : (modPart s p f).guests = s.guests := rfl
@[simp] theorem modPart_hub : (modPart s p f).hub = s.hub := rfl
@[simp] theorem modPart_tick : (modPart s p f).tick = s.tick := rfl
@[simp] theorem modPart_freeCtr : (modPart s p f).freeCtr = s.freeCtr := rfl
@[simp] theorem modPart_pending : (modPart s p f).pending = s.pending := rfl
end

/-! ### modPst -/

section
variable (s : State) (p : PartId) (f : PartStatus → PartStatus)

@[simp] theorem modPst_cores : (modPst s p f).cores = s.cores := rfl
@[simp] theorem modPst_regions : (modPst s p f).regions = s.regions := rfl
@[simp] theorem modPst_parts : (modPst s p f).parts = s.parts := rfl
@[simp] theorem modPst_near : (modPst s p f).near = s.near := rfl
@[simp] theorem modPst_stks : (modPst s p f).stks = s.stks := rfl
@[simp] theorem modPst_kvp : (modPst s p f).kvp = s.kvp := rfl
@[simp] theorem modPst_hst : (modPst s p f).hst = s.hst := rfl
@[simp] theorem modPst_irqs : (modPst s p f).irqs = s.irqs := rfl
@[simp] theorem modPst_resps : (modPst s p f).resps = s.resps := rfl
@[simp] theorem modPst_hostWrites : (modPst s p f).hostWrites = s.hostWrites := rfl
@[simp] theorem modPst_red : (modPst s p f).red = s.red := rfl
@[simp] theorem modPst_ports : (modPst s p f).ports = s.ports := rfl
@[simp] theorem modPst_trees : (modPst s p f).trees = s.trees := rfl
@[simp] theorem modPst_links : (modPst s p f).links = s.links := rfl
@[simp] theorem modPst_mesh : (modPst s p f).mesh = s.mesh := rfl
@[simp] theorem modPst_routes : (modPst s p f).routes = s.routes := rfl
@[simp] theorem modPst_meshTiles : (modPst s p f).meshTiles = s.meshTiles := rfl
@[simp] theorem modPst_meters : (modPst s p f).meters = s.meters := rfl
@[simp] theorem modPst_flt : (modPst s p f).flt = s.flt := rfl
@[simp] theorem modPst_fuses : (modPst s p f).fuses = s.fuses := rfl
@[simp] theorem modPst_cfg : (modPst s p f).cfg = s.cfg := rfl
@[simp] theorem modPst_sec : (modPst s p f).sec = s.sec := rfl
@[simp] theorem modPst_pwr : (modPst s p f).pwr = s.pwr := rfl
@[simp] theorem modPst_clk : (modPst s p f).clk = s.clk := rfl
@[simp] theorem modPst_thm : (modPst s p f).thm = s.thm := rfl
@[simp] theorem modPst_pairs : (modPst s p f).pairs = s.pairs := rfl
@[simp] theorem modPst_dl : (modPst s p f).dl = s.dl := rfl
@[simp] theorem modPst_guests : (modPst s p f).guests = s.guests := rfl
@[simp] theorem modPst_hub : (modPst s p f).hub = s.hub := rfl
@[simp] theorem modPst_tick : (modPst s p f).tick = s.tick := rfl
@[simp] theorem modPst_freeCtr : (modPst s p f).freeCtr = s.freeCtr := rfl
@[simp] theorem modPst_pending : (modPst s p f).pending = s.pending := rfl
end

/-! ### modCh -/

section
variable (s : State) (p : PartId) (c : Nat) (f : Channel → Channel)

@[simp] theorem modCh_cores : (modCh s p c f).cores = s.cores := rfl
@[simp] theorem modCh_regions : (modCh s p c f).regions = s.regions := rfl
@[simp] theorem modCh_parts : (modCh s p c f).parts = s.parts := rfl
@[simp] theorem modCh_near : (modCh s p c f).near = s.near := rfl
@[simp] theorem modCh_stks : (modCh s p c f).stks = s.stks := rfl
@[simp] theorem modCh_kvp : (modCh s p c f).kvp = s.kvp := rfl
@[simp] theorem modCh_hst : (modCh s p c f).hst = s.hst := rfl
@[simp] theorem modCh_irqs : (modCh s p c f).irqs = s.irqs := rfl
@[simp] theorem modCh_resps : (modCh s p c f).resps = s.resps := rfl
@[simp] theorem modCh_hostWrites : (modCh s p c f).hostWrites = s.hostWrites := rfl
@[simp] theorem modCh_red : (modCh s p c f).red = s.red := rfl
@[simp] theorem modCh_ports : (modCh s p c f).ports = s.ports := rfl
@[simp] theorem modCh_trees : (modCh s p c f).trees = s.trees := rfl
@[simp] theorem modCh_links : (modCh s p c f).links = s.links := rfl
@[simp] theorem modCh_mesh : (modCh s p c f).mesh = s.mesh := rfl
@[simp] theorem modCh_routes : (modCh s p c f).routes = s.routes := rfl
@[simp] theorem modCh_meshTiles : (modCh s p c f).meshTiles = s.meshTiles := rfl
@[simp] theorem modCh_meters : (modCh s p c f).meters = s.meters := rfl
@[simp] theorem modCh_flt : (modCh s p c f).flt = s.flt := rfl
@[simp] theorem modCh_fuses : (modCh s p c f).fuses = s.fuses := rfl
@[simp] theorem modCh_cfg : (modCh s p c f).cfg = s.cfg := rfl
@[simp] theorem modCh_sec : (modCh s p c f).sec = s.sec := rfl
@[simp] theorem modCh_pwr : (modCh s p c f).pwr = s.pwr := rfl
@[simp] theorem modCh_clk : (modCh s p c f).clk = s.clk := rfl
@[simp] theorem modCh_thm : (modCh s p c f).thm = s.thm := rfl
@[simp] theorem modCh_pairs : (modCh s p c f).pairs = s.pairs := rfl
@[simp] theorem modCh_dl : (modCh s p c f).dl = s.dl := rfl
@[simp] theorem modCh_guests : (modCh s p c f).guests = s.guests := rfl
@[simp] theorem modCh_hub : (modCh s p c f).hub = s.hub := rfl
@[simp] theorem modCh_tick : (modCh s p c f).tick = s.tick := rfl
@[simp] theorem modCh_freeCtr : (modCh s p c f).freeCtr = s.freeCtr := rfl
@[simp] theorem modCh_pending : (modCh s p c f).pending = s.pending := rfl
end

/-! ### modHst -/

section
variable (s : State) (f : Hst → Hst)

@[simp] theorem modHst_cores : (modHst s f).cores = s.cores := rfl
@[simp] theorem modHst_regions : (modHst s f).regions = s.regions := rfl
@[simp] theorem modHst_parts : (modHst s f).parts = s.parts := rfl
@[simp] theorem modHst_near : (modHst s f).near = s.near := rfl
@[simp] theorem modHst_stks : (modHst s f).stks = s.stks := rfl
@[simp] theorem modHst_kvp : (modHst s f).kvp = s.kvp := rfl
@[simp] theorem modHst_pst : (modHst s f).pst = s.pst := rfl
@[simp] theorem modHst_irqs : (modHst s f).irqs = s.irqs := rfl
@[simp] theorem modHst_resps : (modHst s f).resps = s.resps := rfl
@[simp] theorem modHst_hostWrites : (modHst s f).hostWrites = s.hostWrites := rfl
@[simp] theorem modHst_red : (modHst s f).red = s.red := rfl
@[simp] theorem modHst_ports : (modHst s f).ports = s.ports := rfl
@[simp] theorem modHst_trees : (modHst s f).trees = s.trees := rfl
@[simp] theorem modHst_links : (modHst s f).links = s.links := rfl
@[simp] theorem modHst_mesh : (modHst s f).mesh = s.mesh := rfl
@[simp] theorem modHst_routes : (modHst s f).routes = s.routes := rfl
@[simp] theorem modHst_meshTiles : (modHst s f).meshTiles = s.meshTiles := rfl
@[simp] theorem modHst_meters : (modHst s f).meters = s.meters := rfl
@[simp] theorem modHst_flt : (modHst s f).flt = s.flt := rfl
@[simp] theorem modHst_fuses : (modHst s f).fuses = s.fuses := rfl
@[simp] theorem modHst_cfg : (modHst s f).cfg = s.cfg := rfl
@[simp] theorem modHst_sec : (modHst s f).sec = s.sec := rfl
@[simp] theorem modHst_pwr : (modHst s f).pwr = s.pwr := rfl
@[simp] theorem modHst_clk : (modHst s f).clk = s.clk := rfl
@[simp] theorem modHst_thm : (modHst s f).thm = s.thm := rfl
@[simp] theorem modHst_pairs : (modHst s f).pairs = s.pairs := rfl
@[simp] theorem modHst_dl : (modHst s f).dl = s.dl := rfl
@[simp] theorem modHst_guests : (modHst s f).guests = s.guests := rfl
@[simp] theorem modHst_hub : (modHst s f).hub = s.hub := rfl
@[simp] theorem modHst_tick : (modHst s f).tick = s.tick := rfl
@[simp] theorem modHst_freeCtr : (modHst s f).freeCtr = s.freeCtr := rfl
@[simp] theorem modHst_pending : (modHst s f).pending = s.pending := rfl
end

/-! ### respond -/

section
variable (s : State) (r : Resp)

@[simp] theorem respond_cores : (respond s r).cores = s.cores := rfl
@[simp] theorem respond_regions : (respond s r).regions = s.regions := rfl
@[simp] theorem respond_parts : (respond s r).parts = s.parts := rfl
@[simp] theorem respond_near : (respond s r).near = s.near := rfl
@[simp] theorem respond_stks : (respond s r).stks = s.stks := rfl
@[simp] theorem respond_kvp : (respond s r).kvp = s.kvp := rfl
@[simp] theorem respond_pst : (respond s r).pst = s.pst := rfl
@[simp] theorem respond_hst : (respond s r).hst = s.hst := rfl
@[simp] theorem respond_irqs : (respond s r).irqs = s.irqs := rfl
@[simp] theorem respond_hostWrites : (respond s r).hostWrites = s.hostWrites := rfl
@[simp] theorem respond_red : (respond s r).red = s.red := rfl
@[simp] theorem respond_ports : (respond s r).ports = s.ports := rfl
@[simp] theorem respond_trees : (respond s r).trees = s.trees := rfl
@[simp] theorem respond_links : (respond s r).links = s.links := rfl
@[simp] theorem respond_mesh : (respond s r).mesh = s.mesh := rfl
@[simp] theorem respond_routes : (respond s r).routes = s.routes := rfl
@[simp] theorem respond_meshTiles : (respond s r).meshTiles = s.meshTiles := rfl
@[simp] theorem respond_meters : (respond s r).meters = s.meters := rfl
@[simp] theorem respond_flt : (respond s r).flt = s.flt := rfl
@[simp] theorem respond_fuses : (respond s r).fuses = s.fuses := rfl
@[simp] theorem respond_cfg : (respond s r).cfg = s.cfg := rfl
@[simp] theorem respond_sec : (respond s r).sec = s.sec := rfl
@[simp] theorem respond_pwr : (respond s r).pwr = s.pwr := rfl
@[simp] theorem respond_clk : (respond s r).clk = s.clk := rfl
@[simp] theorem respond_thm : (respond s r).thm = s.thm := rfl
@[simp] theorem respond_pairs : (respond s r).pairs = s.pairs := rfl
@[simp] theorem respond_dl : (respond s r).dl = s.dl := rfl
@[simp] theorem respond_guests : (respond s r).guests = s.guests := rfl
@[simp] theorem respond_hub : (respond s r).hub = s.hub := rfl
@[simp] theorem respond_tick : (respond s r).tick = s.tick := rfl
@[simp] theorem respond_freeCtr : (respond s r).freeCtr = s.freeCtr := rfl
@[simp] theorem respond_pending : (respond s r).pending = s.pending := rfl
end

/-! ### modFlt -/

section
variable (s : State) (f : Flt → Flt)

@[simp] theorem modFlt_cores : (modFlt s f).cores = s.cores := rfl
@[simp] theorem modFlt_regions : (modFlt s f).regions = s.regions := rfl
@[simp] theorem modFlt_parts : (modFlt s f).parts = s.parts := rfl
@[simp] theorem modFlt_near : (modFlt s f).near = s.near := rfl
@[simp] theorem modFlt_stks : (modFlt s f).stks = s.stks := rfl
@[simp] theorem modFlt_kvp : (modFlt s f).kvp = s.kvp := rfl
@[simp] theorem modFlt_pst : (modFlt s f).pst = s.pst := rfl
@[simp] theorem modFlt_hst : (modFlt s f).hst = s.hst := rfl
@[simp] theorem modFlt_irqs : (modFlt s f).irqs = s.irqs := rfl
@[simp] theorem modFlt_resps : (modFlt s f).resps = s.resps := rfl
@[simp] theorem modFlt_hostWrites : (modFlt s f).hostWrites = s.hostWrites := rfl
@[simp] theorem modFlt_red : (modFlt s f).red = s.red := rfl
@[simp] theorem modFlt_ports : (modFlt s f).ports = s.ports := rfl
@[simp] theorem modFlt_trees : (modFlt s f).trees = s.trees := rfl
@[simp] theorem modFlt_links : (modFlt s f).links = s.links := rfl
@[simp] theorem modFlt_mesh : (modFlt s f).mesh = s.mesh := rfl
@[simp] theorem modFlt_routes : (modFlt s f).routes = s.routes := rfl
@[simp] theorem modFlt_meshTiles : (modFlt s f).meshTiles = s.meshTiles := rfl
@[simp] theorem modFlt_meters : (modFlt s f).meters = s.meters := rfl
@[simp] theorem modFlt_fuses : (modFlt s f).fuses = s.fuses := rfl
@[simp] theorem modFlt_cfg : (modFlt s f).cfg = s.cfg := rfl
@[simp] theorem modFlt_sec : (modFlt s f).sec = s.sec := rfl
@[simp] theorem modFlt_pwr : (modFlt s f).pwr = s.pwr := rfl
@[simp] theorem modFlt_clk : (modFlt s f).clk = s.clk := rfl
@[simp] theorem modFlt_thm : (modFlt s f).thm = s.thm := rfl
@[simp] theorem modFlt_pairs : (modFlt s f).pairs = s.pairs := rfl
@[simp] theorem modFlt_dl : (modFlt s f).dl = s.dl := rfl
@[simp] theorem modFlt_guests : (modFlt s f).guests = s.guests := rfl
@[simp] theorem modFlt_hub : (modFlt s f).hub = s.hub := rfl
@[simp] theorem modFlt_tick : (modFlt s f).tick = s.tick := rfl
@[simp] theorem modFlt_freeCtr : (modFlt s f).freeCtr = s.freeCtr := rfl
@[simp] theorem modFlt_pending : (modFlt s f).pending = s.pending := rfl
end

/-! ### raiseRec -/

section
variable (s : State) (r : FaultRec)

@[simp] theorem raiseRec_cores : (raiseRec s r).cores = s.cores := rfl
@[simp] theorem raiseRec_regions : (raiseRec s r).regions = s.regions := rfl
@[simp] theorem raiseRec_parts : (raiseRec s r).parts = s.parts := rfl
@[simp] theorem raiseRec_near : (raiseRec s r).near = s.near := rfl
@[simp] theorem raiseRec_stks : (raiseRec s r).stks = s.stks := rfl
@[simp] theorem raiseRec_kvp : (raiseRec s r).kvp = s.kvp := rfl
@[simp] theorem raiseRec_pst : (raiseRec s r).pst = s.pst := rfl
@[simp] theorem raiseRec_hst : (raiseRec s r).hst = s.hst := rfl
@[simp] theorem raiseRec_irqs : (raiseRec s r).irqs = s.irqs := rfl
@[simp] theorem raiseRec_resps : (raiseRec s r).resps = s.resps := rfl
@[simp] theorem raiseRec_hostWrites : (raiseRec s r).hostWrites = s.hostWrites := rfl
@[simp] theorem raiseRec_red : (raiseRec s r).red = s.red := rfl
@[simp] theorem raiseRec_ports : (raiseRec s r).ports = s.ports := rfl
@[simp] theorem raiseRec_trees : (raiseRec s r).trees = s.trees := rfl
@[simp] theorem raiseRec_links : (raiseRec s r).links = s.links := rfl
@[simp] theorem raiseRec_mesh : (raiseRec s r).mesh = s.mesh := rfl
@[simp] theorem raiseRec_routes : (raiseRec s r).routes = s.routes := rfl
@[simp] theorem raiseRec_meshTiles : (raiseRec s r).meshTiles = s.meshTiles := rfl
@[simp] theorem raiseRec_meters : (raiseRec s r).meters = s.meters := rfl
@[simp] theorem raiseRec_fuses : (raiseRec s r).fuses = s.fuses := rfl
@[simp] theorem raiseRec_cfg : (raiseRec s r).cfg = s.cfg := rfl
@[simp] theorem raiseRec_sec : (raiseRec s r).sec = s.sec := rfl
@[simp] theorem raiseRec_pwr : (raiseRec s r).pwr = s.pwr := rfl
@[simp] theorem raiseRec_clk : (raiseRec s r).clk = s.clk := rfl
@[simp] theorem raiseRec_thm : (raiseRec s r).thm = s.thm := rfl
@[simp] theorem raiseRec_pairs : (raiseRec s r).pairs = s.pairs := rfl
@[simp] theorem raiseRec_dl : (raiseRec s r).dl = s.dl := rfl
@[simp] theorem raiseRec_guests : (raiseRec s r).guests = s.guests := rfl
@[simp] theorem raiseRec_hub : (raiseRec s r).hub = s.hub := rfl
@[simp] theorem raiseRec_tick : (raiseRec s r).tick = s.tick := rfl
@[simp] theorem raiseRec_freeCtr : (raiseRec s r).freeCtr = s.freeCtr := rfl
@[simp] theorem raiseRec_pending : (raiseRec s r).pending = s.pending := rfl
end

/-! ### addMeter -/

section
variable (s : State) (p : PartId) (m : Fin 12) (n : Nat)

@[simp] theorem addMeter_cores : (addMeter s p m n).cores = s.cores := rfl
@[simp] theorem addMeter_regions : (addMeter s p m n).regions = s.regions := rfl
@[simp] theorem addMeter_parts : (addMeter s p m n).parts = s.parts := rfl
@[simp] theorem addMeter_near : (addMeter s p m n).near = s.near := rfl
@[simp] theorem addMeter_stks : (addMeter s p m n).stks = s.stks := rfl
@[simp] theorem addMeter_kvp : (addMeter s p m n).kvp = s.kvp := rfl
@[simp] theorem addMeter_pst : (addMeter s p m n).pst = s.pst := rfl
@[simp] theorem addMeter_hst : (addMeter s p m n).hst = s.hst := rfl
@[simp] theorem addMeter_irqs : (addMeter s p m n).irqs = s.irqs := rfl
@[simp] theorem addMeter_resps : (addMeter s p m n).resps = s.resps := rfl
@[simp] theorem addMeter_hostWrites : (addMeter s p m n).hostWrites = s.hostWrites := rfl
@[simp] theorem addMeter_red : (addMeter s p m n).red = s.red := rfl
@[simp] theorem addMeter_ports : (addMeter s p m n).ports = s.ports := rfl
@[simp] theorem addMeter_trees : (addMeter s p m n).trees = s.trees := rfl
@[simp] theorem addMeter_links : (addMeter s p m n).links = s.links := rfl
@[simp] theorem addMeter_mesh : (addMeter s p m n).mesh = s.mesh := rfl
@[simp] theorem addMeter_routes : (addMeter s p m n).routes = s.routes := rfl
@[simp] theorem addMeter_meshTiles : (addMeter s p m n).meshTiles = s.meshTiles := rfl
@[simp] theorem addMeter_flt : (addMeter s p m n).flt = s.flt := rfl
@[simp] theorem addMeter_fuses : (addMeter s p m n).fuses = s.fuses := rfl
@[simp] theorem addMeter_cfg : (addMeter s p m n).cfg = s.cfg := rfl
@[simp] theorem addMeter_sec : (addMeter s p m n).sec = s.sec := rfl
@[simp] theorem addMeter_pwr : (addMeter s p m n).pwr = s.pwr := rfl
@[simp] theorem addMeter_clk : (addMeter s p m n).clk = s.clk := rfl
@[simp] theorem addMeter_thm : (addMeter s p m n).thm = s.thm := rfl
@[simp] theorem addMeter_pairs : (addMeter s p m n).pairs = s.pairs := rfl
@[simp] theorem addMeter_dl : (addMeter s p m n).dl = s.dl := rfl
@[simp] theorem addMeter_guests : (addMeter s p m n).guests = s.guests := rfl
@[simp] theorem addMeter_hub : (addMeter s p m n).hub = s.hub := rfl
@[simp] theorem addMeter_tick : (addMeter s p m n).tick = s.tick := rfl
@[simp] theorem addMeter_freeCtr : (addMeter s p m n).freeCtr = s.freeCtr := rfl
@[simp] theorem addMeter_pending : (addMeter s p m n).pending = s.pending := rfl
end

/-! ### modStack -/

section
variable (s : State) (n : Nat) (f : Stack → Stack)

@[simp] theorem modStack_cores : (modStack s n f).cores = s.cores := rfl
@[simp] theorem modStack_regions : (modStack s n f).regions = s.regions := rfl
@[simp] theorem modStack_parts : (modStack s n f).parts = s.parts := rfl
@[simp] theorem modStack_near : (modStack s n f).near = s.near := rfl
@[simp] theorem modStack_kvp : (modStack s n f).kvp = s.kvp := rfl
@[simp] theorem modStack_pst : (modStack s n f).pst = s.pst := rfl
@[simp] theorem modStack_hst : (modStack s n f).hst = s.hst := rfl
@[simp] theorem modStack_irqs : (modStack s n f).irqs = s.irqs := rfl
@[simp] theorem modStack_resps : (modStack s n f).resps = s.resps := rfl
@[simp] theorem modStack_hostWrites : (modStack s n f).hostWrites = s.hostWrites := rfl
@[simp] theorem modStack_red : (modStack s n f).red = s.red := rfl
@[simp] theorem modStack_ports : (modStack s n f).ports = s.ports := rfl
@[simp] theorem modStack_trees : (modStack s n f).trees = s.trees := rfl
@[simp] theorem modStack_links : (modStack s n f).links = s.links := rfl
@[simp] theorem modStack_mesh : (modStack s n f).mesh = s.mesh := rfl
@[simp] theorem modStack_routes : (modStack s n f).routes = s.routes := rfl
@[simp] theorem modStack_meshTiles : (modStack s n f).meshTiles = s.meshTiles := rfl
@[simp] theorem modStack_meters : (modStack s n f).meters = s.meters := rfl
@[simp] theorem modStack_flt : (modStack s n f).flt = s.flt := rfl
@[simp] theorem modStack_fuses : (modStack s n f).fuses = s.fuses := rfl
@[simp] theorem modStack_cfg : (modStack s n f).cfg = s.cfg := rfl
@[simp] theorem modStack_sec : (modStack s n f).sec = s.sec := rfl
@[simp] theorem modStack_pwr : (modStack s n f).pwr = s.pwr := rfl
@[simp] theorem modStack_clk : (modStack s n f).clk = s.clk := rfl
@[simp] theorem modStack_thm : (modStack s n f).thm = s.thm := rfl
@[simp] theorem modStack_pairs : (modStack s n f).pairs = s.pairs := rfl
@[simp] theorem modStack_dl : (modStack s n f).dl = s.dl := rfl
@[simp] theorem modStack_guests : (modStack s n f).guests = s.guests := rfl
@[simp] theorem modStack_hub : (modStack s n f).hub = s.hub := rfl
@[simp] theorem modStack_tick : (modStack s n f).tick = s.tick := rfl
@[simp] theorem modStack_freeCtr : (modStack s n f).freeCtr = s.freeCtr := rfl
@[simp] theorem modStack_pending : (modStack s n f).pending = s.pending := rfl
end

/-! ### meshSend -/

section
variable (s : State) (f : Frame)

@[simp] theorem meshSend_cores : (meshSend s f).cores = s.cores := rfl
@[simp] theorem meshSend_regions : (meshSend s f).regions = s.regions := rfl
@[simp] theorem meshSend_parts : (meshSend s f).parts = s.parts := rfl
@[simp] theorem meshSend_near : (meshSend s f).near = s.near := rfl
@[simp] theorem meshSend_stks : (meshSend s f).stks = s.stks := rfl
@[simp] theorem meshSend_kvp : (meshSend s f).kvp = s.kvp := rfl
@[simp] theorem meshSend_pst : (meshSend s f).pst = s.pst := rfl
@[simp] theorem meshSend_hst : (meshSend s f).hst = s.hst := rfl
@[simp] theorem meshSend_irqs : (meshSend s f).irqs = s.irqs := rfl
@[simp] theorem meshSend_resps : (meshSend s f).resps = s.resps := rfl
@[simp] theorem meshSend_hostWrites : (meshSend s f).hostWrites = s.hostWrites := rfl
@[simp] theorem meshSend_red : (meshSend s f).red = s.red := rfl
@[simp] theorem meshSend_ports : (meshSend s f).ports = s.ports := rfl
@[simp] theorem meshSend_trees : (meshSend s f).trees = s.trees := rfl
@[simp] theorem meshSend_links : (meshSend s f).links = s.links := rfl
@[simp] theorem meshSend_routes : (meshSend s f).routes = s.routes := rfl
@[simp] theorem meshSend_meshTiles : (meshSend s f).meshTiles = s.meshTiles := rfl
@[simp] theorem meshSend_meters : (meshSend s f).meters = s.meters := rfl
@[simp] theorem meshSend_flt : (meshSend s f).flt = s.flt := rfl
@[simp] theorem meshSend_fuses : (meshSend s f).fuses = s.fuses := rfl
@[simp] theorem meshSend_cfg : (meshSend s f).cfg = s.cfg := rfl
@[simp] theorem meshSend_sec : (meshSend s f).sec = s.sec := rfl
@[simp] theorem meshSend_pwr : (meshSend s f).pwr = s.pwr := rfl
@[simp] theorem meshSend_clk : (meshSend s f).clk = s.clk := rfl
@[simp] theorem meshSend_thm : (meshSend s f).thm = s.thm := rfl
@[simp] theorem meshSend_pairs : (meshSend s f).pairs = s.pairs := rfl
@[simp] theorem meshSend_dl : (meshSend s f).dl = s.dl := rfl
@[simp] theorem meshSend_guests : (meshSend s f).guests = s.guests := rfl
@[simp] theorem meshSend_hub : (meshSend s f).hub = s.hub := rfl
@[simp] theorem meshSend_tick : (meshSend s f).tick = s.tick := rfl
@[simp] theorem meshSend_freeCtr : (meshSend s f).freeCtr = s.freeCtr := rfl
@[simp] theorem meshSend_pending : (meshSend s f).pending = s.pending := rfl
end

/-! ### modCfg -/

section
variable (s : State) (f : Cfg → Cfg)

@[simp] theorem modCfg_cores : (modCfg s f).cores = s.cores := rfl
@[simp] theorem modCfg_regions : (modCfg s f).regions = s.regions := rfl
@[simp] theorem modCfg_parts : (modCfg s f).parts = s.parts := rfl
@[simp] theorem modCfg_near : (modCfg s f).near = s.near := rfl
@[simp] theorem modCfg_stks : (modCfg s f).stks = s.stks := rfl
@[simp] theorem modCfg_kvp : (modCfg s f).kvp = s.kvp := rfl
@[simp] theorem modCfg_pst : (modCfg s f).pst = s.pst := rfl
@[simp] theorem modCfg_hst : (modCfg s f).hst = s.hst := rfl
@[simp] theorem modCfg_irqs : (modCfg s f).irqs = s.irqs := rfl
@[simp] theorem modCfg_resps : (modCfg s f).resps = s.resps := rfl
@[simp] theorem modCfg_hostWrites : (modCfg s f).hostWrites = s.hostWrites := rfl
@[simp] theorem modCfg_red : (modCfg s f).red = s.red := rfl
@[simp] theorem modCfg_ports : (modCfg s f).ports = s.ports := rfl
@[simp] theorem modCfg_trees : (modCfg s f).trees = s.trees := rfl
@[simp] theorem modCfg_links : (modCfg s f).links = s.links := rfl
@[simp] theorem modCfg_mesh : (modCfg s f).mesh = s.mesh := rfl
@[simp] theorem modCfg_routes : (modCfg s f).routes = s.routes := rfl
@[simp] theorem modCfg_meshTiles : (modCfg s f).meshTiles = s.meshTiles := rfl
@[simp] theorem modCfg_meters : (modCfg s f).meters = s.meters := rfl
@[simp] theorem modCfg_flt : (modCfg s f).flt = s.flt := rfl
@[simp] theorem modCfg_fuses : (modCfg s f).fuses = s.fuses := rfl
@[simp] theorem modCfg_sec : (modCfg s f).sec = s.sec := rfl
@[simp] theorem modCfg_pwr : (modCfg s f).pwr = s.pwr := rfl
@[simp] theorem modCfg_clk : (modCfg s f).clk = s.clk := rfl
@[simp] theorem modCfg_thm : (modCfg s f).thm = s.thm := rfl
@[simp] theorem modCfg_pairs : (modCfg s f).pairs = s.pairs := rfl
@[simp] theorem modCfg_dl : (modCfg s f).dl = s.dl := rfl
@[simp] theorem modCfg_guests : (modCfg s f).guests = s.guests := rfl
@[simp] theorem modCfg_hub : (modCfg s f).hub = s.hub := rfl
@[simp] theorem modCfg_tick : (modCfg s f).tick = s.tick := rfl
@[simp] theorem modCfg_freeCtr : (modCfg s f).freeCtr = s.freeCtr := rfl
@[simp] theorem modCfg_pending : (modCfg s f).pending = s.pending := rfl
end

/-! ### modSec -/

section
variable (s : State) (f : Sec → Sec)

@[simp] theorem modSec_cores : (modSec s f).cores = s.cores := rfl
@[simp] theorem modSec_regions : (modSec s f).regions = s.regions := rfl
@[simp] theorem modSec_parts : (modSec s f).parts = s.parts := rfl
@[simp] theorem modSec_near : (modSec s f).near = s.near := rfl
@[simp] theorem modSec_stks : (modSec s f).stks = s.stks := rfl
@[simp] theorem modSec_kvp : (modSec s f).kvp = s.kvp := rfl
@[simp] theorem modSec_pst : (modSec s f).pst = s.pst := rfl
@[simp] theorem modSec_hst : (modSec s f).hst = s.hst := rfl
@[simp] theorem modSec_irqs : (modSec s f).irqs = s.irqs := rfl
@[simp] theorem modSec_resps : (modSec s f).resps = s.resps := rfl
@[simp] theorem modSec_hostWrites : (modSec s f).hostWrites = s.hostWrites := rfl
@[simp] theorem modSec_red : (modSec s f).red = s.red := rfl
@[simp] theorem modSec_ports : (modSec s f).ports = s.ports := rfl
@[simp] theorem modSec_trees : (modSec s f).trees = s.trees := rfl
@[simp] theorem modSec_links : (modSec s f).links = s.links := rfl
@[simp] theorem modSec_mesh : (modSec s f).mesh = s.mesh := rfl
@[simp] theorem modSec_routes : (modSec s f).routes = s.routes := rfl
@[simp] theorem modSec_meshTiles : (modSec s f).meshTiles = s.meshTiles := rfl
@[simp] theorem modSec_meters : (modSec s f).meters = s.meters := rfl
@[simp] theorem modSec_flt : (modSec s f).flt = s.flt := rfl
@[simp] theorem modSec_fuses : (modSec s f).fuses = s.fuses := rfl
@[simp] theorem modSec_cfg : (modSec s f).cfg = s.cfg := rfl
@[simp] theorem modSec_pwr : (modSec s f).pwr = s.pwr := rfl
@[simp] theorem modSec_clk : (modSec s f).clk = s.clk := rfl
@[simp] theorem modSec_thm : (modSec s f).thm = s.thm := rfl
@[simp] theorem modSec_pairs : (modSec s f).pairs = s.pairs := rfl
@[simp] theorem modSec_dl : (modSec s f).dl = s.dl := rfl
@[simp] theorem modSec_guests : (modSec s f).guests = s.guests := rfl
@[simp] theorem modSec_hub : (modSec s f).hub = s.hub := rfl
@[simp] theorem modSec_tick : (modSec s f).tick = s.tick := rfl
@[simp] theorem modSec_freeCtr : (modSec s f).freeCtr = s.freeCtr := rfl
@[simp] theorem modSec_pending : (modSec s f).pending = s.pending := rfl
end

/-! ### modPwr -/

section
variable (s : State) (f : Pwr → Pwr)

@[simp] theorem modPwr_cores : (modPwr s f).cores = s.cores := rfl
@[simp] theorem modPwr_regions : (modPwr s f).regions = s.regions := rfl
@[simp] theorem modPwr_parts : (modPwr s f).parts = s.parts := rfl
@[simp] theorem modPwr_near : (modPwr s f).near = s.near := rfl
@[simp] theorem modPwr_stks : (modPwr s f).stks = s.stks := rfl
@[simp] theorem modPwr_kvp : (modPwr s f).kvp = s.kvp := rfl
@[simp] theorem modPwr_pst : (modPwr s f).pst = s.pst := rfl
@[simp] theorem modPwr_hst : (modPwr s f).hst = s.hst := rfl
@[simp] theorem modPwr_irqs : (modPwr s f).irqs = s.irqs := rfl
@[simp] theorem modPwr_resps : (modPwr s f).resps = s.resps := rfl
@[simp] theorem modPwr_hostWrites : (modPwr s f).hostWrites = s.hostWrites := rfl
@[simp] theorem modPwr_red : (modPwr s f).red = s.red := rfl
@[simp] theorem modPwr_ports : (modPwr s f).ports = s.ports := rfl
@[simp] theorem modPwr_trees : (modPwr s f).trees = s.trees := rfl
@[simp] theorem modPwr_links : (modPwr s f).links = s.links := rfl
@[simp] theorem modPwr_mesh : (modPwr s f).mesh = s.mesh := rfl
@[simp] theorem modPwr_routes : (modPwr s f).routes = s.routes := rfl
@[simp] theorem modPwr_meshTiles : (modPwr s f).meshTiles = s.meshTiles := rfl
@[simp] theorem modPwr_meters : (modPwr s f).meters = s.meters := rfl
@[simp] theorem modPwr_flt : (modPwr s f).flt = s.flt := rfl
@[simp] theorem modPwr_fuses : (modPwr s f).fuses = s.fuses := rfl
@[simp] theorem modPwr_cfg : (modPwr s f).cfg = s.cfg := rfl
@[simp] theorem modPwr_sec : (modPwr s f).sec = s.sec := rfl
@[simp] theorem modPwr_clk : (modPwr s f).clk = s.clk := rfl
@[simp] theorem modPwr_thm : (modPwr s f).thm = s.thm := rfl
@[simp] theorem modPwr_pairs : (modPwr s f).pairs = s.pairs := rfl
@[simp] theorem modPwr_dl : (modPwr s f).dl = s.dl := rfl
@[simp] theorem modPwr_guests : (modPwr s f).guests = s.guests := rfl
@[simp] theorem modPwr_hub : (modPwr s f).hub = s.hub := rfl
@[simp] theorem modPwr_tick : (modPwr s f).tick = s.tick := rfl
@[simp] theorem modPwr_freeCtr : (modPwr s f).freeCtr = s.freeCtr := rfl
@[simp] theorem modPwr_pending : (modPwr s f).pending = s.pending := rfl
end

/-! ### modClk -/

section
variable (s : State) (f : Clk → Clk)

@[simp] theorem modClk_cores : (modClk s f).cores = s.cores := rfl
@[simp] theorem modClk_regions : (modClk s f).regions = s.regions := rfl
@[simp] theorem modClk_parts : (modClk s f).parts = s.parts := rfl
@[simp] theorem modClk_near : (modClk s f).near = s.near := rfl
@[simp] theorem modClk_stks : (modClk s f).stks = s.stks := rfl
@[simp] theorem modClk_kvp : (modClk s f).kvp = s.kvp := rfl
@[simp] theorem modClk_pst : (modClk s f).pst = s.pst := rfl
@[simp] theorem modClk_hst : (modClk s f).hst = s.hst := rfl
@[simp] theorem modClk_irqs : (modClk s f).irqs = s.irqs := rfl
@[simp] theorem modClk_resps : (modClk s f).resps = s.resps := rfl
@[simp] theorem modClk_hostWrites : (modClk s f).hostWrites = s.hostWrites := rfl
@[simp] theorem modClk_red : (modClk s f).red = s.red := rfl
@[simp] theorem modClk_ports : (modClk s f).ports = s.ports := rfl
@[simp] theorem modClk_trees : (modClk s f).trees = s.trees := rfl
@[simp] theorem modClk_links : (modClk s f).links = s.links := rfl
@[simp] theorem modClk_mesh : (modClk s f).mesh = s.mesh := rfl
@[simp] theorem modClk_routes : (modClk s f).routes = s.routes := rfl
@[simp] theorem modClk_meshTiles : (modClk s f).meshTiles = s.meshTiles := rfl
@[simp] theorem modClk_meters : (modClk s f).meters = s.meters := rfl
@[simp] theorem modClk_flt : (modClk s f).flt = s.flt := rfl
@[simp] theorem modClk_fuses : (modClk s f).fuses = s.fuses := rfl
@[simp] theorem modClk_cfg : (modClk s f).cfg = s.cfg := rfl
@[simp] theorem modClk_sec : (modClk s f).sec = s.sec := rfl
@[simp] theorem modClk_pwr : (modClk s f).pwr = s.pwr := rfl
@[simp] theorem modClk_thm : (modClk s f).thm = s.thm := rfl
@[simp] theorem modClk_pairs : (modClk s f).pairs = s.pairs := rfl
@[simp] theorem modClk_dl : (modClk s f).dl = s.dl := rfl
@[simp] theorem modClk_guests : (modClk s f).guests = s.guests := rfl
@[simp] theorem modClk_hub : (modClk s f).hub = s.hub := rfl
@[simp] theorem modClk_tick : (modClk s f).tick = s.tick := rfl
@[simp] theorem modClk_freeCtr : (modClk s f).freeCtr = s.freeCtr := rfl
@[simp] theorem modClk_pending : (modClk s f).pending = s.pending := rfl
end

/-! ### modThm -/

section
variable (s : State) (f : Thm → Thm)

@[simp] theorem modThm_cores : (modThm s f).cores = s.cores := rfl
@[simp] theorem modThm_regions : (modThm s f).regions = s.regions := rfl
@[simp] theorem modThm_parts : (modThm s f).parts = s.parts := rfl
@[simp] theorem modThm_near : (modThm s f).near = s.near := rfl
@[simp] theorem modThm_stks : (modThm s f).stks = s.stks := rfl
@[simp] theorem modThm_kvp : (modThm s f).kvp = s.kvp := rfl
@[simp] theorem modThm_pst : (modThm s f).pst = s.pst := rfl
@[simp] theorem modThm_hst : (modThm s f).hst = s.hst := rfl
@[simp] theorem modThm_irqs : (modThm s f).irqs = s.irqs := rfl
@[simp] theorem modThm_resps : (modThm s f).resps = s.resps := rfl
@[simp] theorem modThm_hostWrites : (modThm s f).hostWrites = s.hostWrites := rfl
@[simp] theorem modThm_red : (modThm s f).red = s.red := rfl
@[simp] theorem modThm_ports : (modThm s f).ports = s.ports := rfl
@[simp] theorem modThm_trees : (modThm s f).trees = s.trees := rfl
@[simp] theorem modThm_links : (modThm s f).links = s.links := rfl
@[simp] theorem modThm_mesh : (modThm s f).mesh = s.mesh := rfl
@[simp] theorem modThm_routes : (modThm s f).routes = s.routes := rfl
@[simp] theorem modThm_meshTiles : (modThm s f).meshTiles = s.meshTiles := rfl
@[simp] theorem modThm_meters : (modThm s f).meters = s.meters := rfl
@[simp] theorem modThm_flt : (modThm s f).flt = s.flt := rfl
@[simp] theorem modThm_fuses : (modThm s f).fuses = s.fuses := rfl
@[simp] theorem modThm_cfg : (modThm s f).cfg = s.cfg := rfl
@[simp] theorem modThm_sec : (modThm s f).sec = s.sec := rfl
@[simp] theorem modThm_pwr : (modThm s f).pwr = s.pwr := rfl
@[simp] theorem modThm_clk : (modThm s f).clk = s.clk := rfl
@[simp] theorem modThm_pairs : (modThm s f).pairs = s.pairs := rfl
@[simp] theorem modThm_dl : (modThm s f).dl = s.dl := rfl
@[simp] theorem modThm_guests : (modThm s f).guests = s.guests := rfl
@[simp] theorem modThm_hub : (modThm s f).hub = s.hub := rfl
@[simp] theorem modThm_tick : (modThm s f).tick = s.tick := rfl
@[simp] theorem modThm_freeCtr : (modThm s f).freeCtr = s.freeCtr := rfl
@[simp] theorem modThm_pending : (modThm s f).pending = s.pending := rfl
end

/-! ### modHub -/

section
variable (s : State) (f : Hub → Hub)

@[simp] theorem modHub_cores : (modHub s f).cores = s.cores := rfl
@[simp] theorem modHub_regions : (modHub s f).regions = s.regions := rfl
@[simp] theorem modHub_parts : (modHub s f).parts = s.parts := rfl
@[simp] theorem modHub_near : (modHub s f).near = s.near := rfl
@[simp] theorem modHub_stks : (modHub s f).stks = s.stks := rfl
@[simp] theorem modHub_kvp : (modHub s f).kvp = s.kvp := rfl
@[simp] theorem modHub_pst : (modHub s f).pst = s.pst := rfl
@[simp] theorem modHub_hst : (modHub s f).hst = s.hst := rfl
@[simp] theorem modHub_irqs : (modHub s f).irqs = s.irqs := rfl
@[simp] theorem modHub_resps : (modHub s f).resps = s.resps := rfl
@[simp] theorem modHub_hostWrites : (modHub s f).hostWrites = s.hostWrites := rfl
@[simp] theorem modHub_red : (modHub s f).red = s.red := rfl
@[simp] theorem modHub_ports : (modHub s f).ports = s.ports := rfl
@[simp] theorem modHub_trees : (modHub s f).trees = s.trees := rfl
@[simp] theorem modHub_links : (modHub s f).links = s.links := rfl
@[simp] theorem modHub_mesh : (modHub s f).mesh = s.mesh := rfl
@[simp] theorem modHub_routes : (modHub s f).routes = s.routes := rfl
@[simp] theorem modHub_meshTiles : (modHub s f).meshTiles = s.meshTiles := rfl
@[simp] theorem modHub_meters : (modHub s f).meters = s.meters := rfl
@[simp] theorem modHub_flt : (modHub s f).flt = s.flt := rfl
@[simp] theorem modHub_fuses : (modHub s f).fuses = s.fuses := rfl
@[simp] theorem modHub_cfg : (modHub s f).cfg = s.cfg := rfl
@[simp] theorem modHub_sec : (modHub s f).sec = s.sec := rfl
@[simp] theorem modHub_pwr : (modHub s f).pwr = s.pwr := rfl
@[simp] theorem modHub_clk : (modHub s f).clk = s.clk := rfl
@[simp] theorem modHub_thm : (modHub s f).thm = s.thm := rfl
@[simp] theorem modHub_pairs : (modHub s f).pairs = s.pairs := rfl
@[simp] theorem modHub_dl : (modHub s f).dl = s.dl := rfl
@[simp] theorem modHub_guests : (modHub s f).guests = s.guests := rfl
@[simp] theorem modHub_tick : (modHub s f).tick = s.tick := rfl
@[simp] theorem modHub_freeCtr : (modHub s f).freeCtr = s.freeCtr := rfl
@[simp] theorem modHub_pending : (modHub s f).pending = s.pending := rfl
end

/-! ### modFuses -/

section
variable (s : State) (f : Fuses → Fuses)

@[simp] theorem modFuses_cores : (modFuses s f).cores = s.cores := rfl
@[simp] theorem modFuses_regions : (modFuses s f).regions = s.regions := rfl
@[simp] theorem modFuses_parts : (modFuses s f).parts = s.parts := rfl
@[simp] theorem modFuses_near : (modFuses s f).near = s.near := rfl
@[simp] theorem modFuses_stks : (modFuses s f).stks = s.stks := rfl
@[simp] theorem modFuses_kvp : (modFuses s f).kvp = s.kvp := rfl
@[simp] theorem modFuses_pst : (modFuses s f).pst = s.pst := rfl
@[simp] theorem modFuses_hst : (modFuses s f).hst = s.hst := rfl
@[simp] theorem modFuses_irqs : (modFuses s f).irqs = s.irqs := rfl
@[simp] theorem modFuses_resps : (modFuses s f).resps = s.resps := rfl
@[simp] theorem modFuses_hostWrites : (modFuses s f).hostWrites = s.hostWrites := rfl
@[simp] theorem modFuses_red : (modFuses s f).red = s.red := rfl
@[simp] theorem modFuses_ports : (modFuses s f).ports = s.ports := rfl
@[simp] theorem modFuses_trees : (modFuses s f).trees = s.trees := rfl
@[simp] theorem modFuses_links : (modFuses s f).links = s.links := rfl
@[simp] theorem modFuses_mesh : (modFuses s f).mesh = s.mesh := rfl
@[simp] theorem modFuses_routes : (modFuses s f).routes = s.routes := rfl
@[simp] theorem modFuses_meshTiles : (modFuses s f).meshTiles = s.meshTiles := rfl
@[simp] theorem modFuses_meters : (modFuses s f).meters = s.meters := rfl
@[simp] theorem modFuses_flt : (modFuses s f).flt = s.flt := rfl
@[simp] theorem modFuses_cfg : (modFuses s f).cfg = s.cfg := rfl
@[simp] theorem modFuses_sec : (modFuses s f).sec = s.sec := rfl
@[simp] theorem modFuses_pwr : (modFuses s f).pwr = s.pwr := rfl
@[simp] theorem modFuses_clk : (modFuses s f).clk = s.clk := rfl
@[simp] theorem modFuses_thm : (modFuses s f).thm = s.thm := rfl
@[simp] theorem modFuses_pairs : (modFuses s f).pairs = s.pairs := rfl
@[simp] theorem modFuses_dl : (modFuses s f).dl = s.dl := rfl
@[simp] theorem modFuses_guests : (modFuses s f).guests = s.guests := rfl
@[simp] theorem modFuses_hub : (modFuses s f).hub = s.hub := rfl
@[simp] theorem modFuses_tick : (modFuses s f).tick = s.tick := rfl
@[simp] theorem modFuses_freeCtr : (modFuses s f).freeCtr = s.freeCtr := rfl
@[simp] theorem modFuses_pending : (modFuses s f).pending = s.pending := rfl
end

/-! ### modGuest -/

section
variable (s : State) (g : Nat) (f : Guest → Guest)

@[simp] theorem modGuest_cores : (modGuest s g f).cores = s.cores := rfl
@[simp] theorem modGuest_regions : (modGuest s g f).regions = s.regions := rfl
@[simp] theorem modGuest_parts : (modGuest s g f).parts = s.parts := rfl
@[simp] theorem modGuest_near : (modGuest s g f).near = s.near := rfl
@[simp] theorem modGuest_stks : (modGuest s g f).stks = s.stks := rfl
@[simp] theorem modGuest_kvp : (modGuest s g f).kvp = s.kvp := rfl
@[simp] theorem modGuest_pst : (modGuest s g f).pst = s.pst := rfl
@[simp] theorem modGuest_hst : (modGuest s g f).hst = s.hst := rfl
@[simp] theorem modGuest_irqs : (modGuest s g f).irqs = s.irqs := rfl
@[simp] theorem modGuest_resps : (modGuest s g f).resps = s.resps := rfl
@[simp] theorem modGuest_hostWrites : (modGuest s g f).hostWrites = s.hostWrites := rfl
@[simp] theorem modGuest_red : (modGuest s g f).red = s.red := rfl
@[simp] theorem modGuest_ports : (modGuest s g f).ports = s.ports := rfl
@[simp] theorem modGuest_trees : (modGuest s g f).trees = s.trees := rfl
@[simp] theorem modGuest_links : (modGuest s g f).links = s.links := rfl
@[simp] theorem modGuest_mesh : (modGuest s g f).mesh = s.mesh := rfl
@[simp] theorem modGuest_routes : (modGuest s g f).routes = s.routes := rfl
@[simp] theorem modGuest_meshTiles : (modGuest s g f).meshTiles = s.meshTiles := rfl
@[simp] theorem modGuest_meters : (modGuest s g f).meters = s.meters := rfl
@[simp] theorem modGuest_flt : (modGuest s g f).flt = s.flt := rfl
@[simp] theorem modGuest_fuses : (modGuest s g f).fuses = s.fuses := rfl
@[simp] theorem modGuest_cfg : (modGuest s g f).cfg = s.cfg := rfl
@[simp] theorem modGuest_sec : (modGuest s g f).sec = s.sec := rfl
@[simp] theorem modGuest_pwr : (modGuest s g f).pwr = s.pwr := rfl
@[simp] theorem modGuest_clk : (modGuest s g f).clk = s.clk := rfl
@[simp] theorem modGuest_thm : (modGuest s g f).thm = s.thm := rfl
@[simp] theorem modGuest_pairs : (modGuest s g f).pairs = s.pairs := rfl
@[simp] theorem modGuest_dl : (modGuest s g f).dl = s.dl := rfl
@[simp] theorem modGuest_hub : (modGuest s g f).hub = s.hub := rfl
@[simp] theorem modGuest_tick : (modGuest s g f).tick = s.tick := rfl
@[simp] theorem modGuest_freeCtr : (modGuest s g f).freeCtr = s.freeCtr := rfl
@[simp] theorem modGuest_pending : (modGuest s g f).pending = s.pending := rfl
end

/-! ### modPair22 -/

section
variable (s : State) (k : Nat) (f : Pair → Pair)

@[simp] theorem modPair22_cores : (modPair22 s k f).cores = s.cores := rfl
@[simp] theorem modPair22_regions : (modPair22 s k f).regions = s.regions := rfl
@[simp] theorem modPair22_parts : (modPair22 s k f).parts = s.parts := rfl
@[simp] theorem modPair22_near : (modPair22 s k f).near = s.near := rfl
@[simp] theorem modPair22_stks : (modPair22 s k f).stks = s.stks := rfl
@[simp] theorem modPair22_kvp : (modPair22 s k f).kvp = s.kvp := rfl
@[simp] theorem modPair22_pst : (modPair22 s k f).pst = s.pst := rfl
@[simp] theorem modPair22_hst : (modPair22 s k f).hst = s.hst := rfl
@[simp] theorem modPair22_irqs : (modPair22 s k f).irqs = s.irqs := rfl
@[simp] theorem modPair22_resps : (modPair22 s k f).resps = s.resps := rfl
@[simp] theorem modPair22_hostWrites : (modPair22 s k f).hostWrites = s.hostWrites := rfl
@[simp] theorem modPair22_red : (modPair22 s k f).red = s.red := rfl
@[simp] theorem modPair22_ports : (modPair22 s k f).ports = s.ports := rfl
@[simp] theorem modPair22_trees : (modPair22 s k f).trees = s.trees := rfl
@[simp] theorem modPair22_links : (modPair22 s k f).links = s.links := rfl
@[simp] theorem modPair22_mesh : (modPair22 s k f).mesh = s.mesh := rfl
@[simp] theorem modPair22_routes : (modPair22 s k f).routes = s.routes := rfl
@[simp] theorem modPair22_meshTiles : (modPair22 s k f).meshTiles = s.meshTiles := rfl
@[simp] theorem modPair22_meters : (modPair22 s k f).meters = s.meters := rfl
@[simp] theorem modPair22_flt : (modPair22 s k f).flt = s.flt := rfl
@[simp] theorem modPair22_fuses : (modPair22 s k f).fuses = s.fuses := rfl
@[simp] theorem modPair22_cfg : (modPair22 s k f).cfg = s.cfg := rfl
@[simp] theorem modPair22_sec : (modPair22 s k f).sec = s.sec := rfl
@[simp] theorem modPair22_pwr : (modPair22 s k f).pwr = s.pwr := rfl
@[simp] theorem modPair22_clk : (modPair22 s k f).clk = s.clk := rfl
@[simp] theorem modPair22_thm : (modPair22 s k f).thm = s.thm := rfl
@[simp] theorem modPair22_dl : (modPair22 s k f).dl = s.dl := rfl
@[simp] theorem modPair22_guests : (modPair22 s k f).guests = s.guests := rfl
@[simp] theorem modPair22_hub : (modPair22 s k f).hub = s.hub := rfl
@[simp] theorem modPair22_tick : (modPair22 s k f).tick = s.tick := rfl
@[simp] theorem modPair22_freeCtr : (modPair22 s k f).freeCtr = s.freeCtr := rfl
@[simp] theorem modPair22_pending : (modPair22 s k f).pending = s.pending := rfl
end

/-! ### toTops -/

section
variable (s : State) (m : TopsMsg)

@[simp] theorem toTops_cores : (toTops s m).cores = s.cores := rfl
@[simp] theorem toTops_regions : (toTops s m).regions = s.regions := rfl
@[simp] theorem toTops_parts : (toTops s m).parts = s.parts := rfl
@[simp] theorem toTops_near : (toTops s m).near = s.near := rfl
@[simp] theorem toTops_stks : (toTops s m).stks = s.stks := rfl
@[simp] theorem toTops_kvp : (toTops s m).kvp = s.kvp := rfl
@[simp] theorem toTops_pst : (toTops s m).pst = s.pst := rfl
@[simp] theorem toTops_hst : (toTops s m).hst = s.hst := rfl
@[simp] theorem toTops_irqs : (toTops s m).irqs = s.irqs := rfl
@[simp] theorem toTops_resps : (toTops s m).resps = s.resps := rfl
@[simp] theorem toTops_hostWrites : (toTops s m).hostWrites = s.hostWrites := rfl
@[simp] theorem toTops_red : (toTops s m).red = s.red := rfl
@[simp] theorem toTops_ports : (toTops s m).ports = s.ports := rfl
@[simp] theorem toTops_trees : (toTops s m).trees = s.trees := rfl
@[simp] theorem toTops_links : (toTops s m).links = s.links := rfl
@[simp] theorem toTops_mesh : (toTops s m).mesh = s.mesh := rfl
@[simp] theorem toTops_routes : (toTops s m).routes = s.routes := rfl
@[simp] theorem toTops_meshTiles : (toTops s m).meshTiles = s.meshTiles := rfl
@[simp] theorem toTops_meters : (toTops s m).meters = s.meters := rfl
@[simp] theorem toTops_flt : (toTops s m).flt = s.flt := rfl
@[simp] theorem toTops_fuses : (toTops s m).fuses = s.fuses := rfl
@[simp] theorem toTops_cfg : (toTops s m).cfg = s.cfg := rfl
@[simp] theorem toTops_pwr : (toTops s m).pwr = s.pwr := rfl
@[simp] theorem toTops_clk : (toTops s m).clk = s.clk := rfl
@[simp] theorem toTops_thm : (toTops s m).thm = s.thm := rfl
@[simp] theorem toTops_pairs : (toTops s m).pairs = s.pairs := rfl
@[simp] theorem toTops_dl : (toTops s m).dl = s.dl := rfl
@[simp] theorem toTops_guests : (toTops s m).guests = s.guests := rfl
@[simp] theorem toTops_hub : (toTops s m).hub = s.hub := rfl
@[simp] theorem toTops_tick : (toTops s m).tick = s.tick := rfl
@[simp] theorem toTops_freeCtr : (toTops s m).freeCtr = s.freeCtr := rfl
@[simp] theorem toTops_pending : (toTops s m).pending = s.pending := rfl
end

/-! ### Reading what was written -/

@[simp] theorem vget_vset_self {α : Type} {n : Nat} (v : Vector α n) (i : Fin n) (x : α) : vget (vset v i x) i = x := by
  simp [vget, vset]

theorem vget_vset {α : Type} {n : Nat} (v : Vector α n) (i j : Fin n) (x : α) :
    vget (vset v i x) j = if j = i then x else vget v j := by
  by_cases h : j = i
  · subst h; simp
  · have h' : i.val ≠ j.val := fun e => h (Fin.ext e.symm)
    simp [vget, vset, h, h']

theorem vset_vget {α : Type} {n : Nat} (v : Vector α n) (i : Fin n) : vset v i (vget v i) = v := by
  simp [vget, vset]

theorem vset_vset {α : Type} {n : Nat} (v : Vector α n) (i : Fin n) (x y : α) : vset (vset v i x) i y = vset v i y := by
  simp [vset]

theorem vget_vmod {α : Type} {n : Nat} (v : Vector α n) (i j : Fin n) (f : α → α) :
    vget (vmod v i f) j = if j = i then f (vget v i) else vget v j := vget_vset v i j _

theorem getCore_modCore (s : State) (k j : CoreId) (f : Core → Core) :
    getCore (modCore s k f) j = if j = k then f (getCore s k) else getCore s j := vget_vset s.cores k j _

theorem getCtx_modCtx (s : State) (k j : CoreId) (c d : CtxId) (f : Ctx → Ctx) :
    getCtx (modCtx s k c f) j d = if j = k ∧ d = c then f (getCtx s k c) else getCtx s j d := by
  by_cases h : j = k
  · subst h; by_cases e : d = c <;> simp [getCtx, modCtx, getCore_modCore, vget_vmod, e]
  · simp [getCtx, modCtx, getCore_modCore, h]

theorem getRegion_modRegion (s : State) (r q : RegionId) (f : Region → Region) :
    getRegion (modRegion s r f) q = if q = r then f (getRegion s r) else getRegion s q := vget_vset s.regions r q _

theorem getPart_modPart (s : State) (p q : PartId) (f : PartCfg → PartCfg) :
    getPart (modPart s p f) q = if q = p then f (getPart s p) else getPart s q := vget_vset s.parts p q _

theorem getPst_modPst (s : State) (p q : PartId) (f : PartStatus → PartStatus) :
    getPst (modPst s p f) q = if q = p then f (getPst s p) else getPst s q := vget_vset s.pst p q _

section
variable (s : State)
@[simp] theorem modCore_core (k : CoreId) (f : Core → Core) : getCore (modCore s k f) k = f (getCore s k) := by
  simp [getCore_modCore]
@[simp] theorem modCtx_ctx (k : CoreId) (c : CtxId) (f : Ctx → Ctx) : getCtx (modCtx s k c f) k c = f (getCtx s k c) := by
  simp [getCtx_modCtx]
@[simp] theorem modRegion_region (r : RegionId) (f : Region → Region) : getRegion (modRegion s r f) r = f (getRegion s r) := by
  simp [getRegion_modRegion]
@[simp] theorem modPart_part (p : PartId) (f : PartCfg → PartCfg) : getPart (modPart s p f) p = f (getPart s p) := by
  simp [getPart_modPart]
@[simp] theorem modPst_part (p : PartId) (f : PartStatus → PartStatus) : getPst (modPst s p f) p = f (getPst s p) := by
  simp [getPst_modPst]
@[simp] theorem modHst_hst (f : Hst → Hst) : (modHst s f).hst = f s.hst := rfl
@[simp] theorem modFlt_flt (f : Flt → Flt) : (modFlt s f).flt = f s.flt := rfl
@[simp] theorem modCfg_cfg (f : Cfg → Cfg) : (modCfg s f).cfg = f s.cfg := rfl
@[simp] theorem modSec_sec (f : Sec → Sec) : (modSec s f).sec = f s.sec := rfl
@[simp] theorem modPwr_pwr (f : Pwr → Pwr) : (modPwr s f).pwr = f s.pwr := rfl
@[simp] theorem modClk_clk (f : Clk → Clk) : (modClk s f).clk = f s.clk := rfl
@[simp] theorem modThm_thm (f : Thm → Thm) : (modThm s f).thm = f s.thm := rfl
@[simp] theorem modHub_hub (f : Hub → Hub) : (modHub s f).hub = f s.hub := rfl
@[simp] theorem modFuses_fuses (f : Fuses → Fuses) : (modFuses s f).fuses = f s.fuses := rfl
@[simp] theorem meshSend_mesh (f : Frame) : (meshSend s f).mesh = s.mesh ++ [f] := rfl
@[simp] theorem respond_resps (r : Resp) : (respond s r).resps = s.resps ++ [r] := rfl
@[simp] theorem raiseRec_waiting (r : FaultRec) :
    (raiseRec s r).flt.waiting = s.flt.waiting ++ [{ r with index := nextRecIndex s }] := rfl
@[simp] theorem raiseRec_head (r : FaultRec) : (raiseRec s r).flt.head = s.flt.head := rfl
end

/-- The context of an update keeps its core's other contexts and everything else of the core. -/
theorem getCore_modCtx (s : State) (k j : CoreId) (c : CtxId) (f : Ctx → Ctx) :
    getCore (modCtx s k c f) j =
      if j = k then { getCore s k with ctx := vmod (getCore s k).ctx c f } else getCore s j := getCore_modCore s k j _

theorem modCtx_modCtx (s : State) (k : CoreId) (c : CtxId) (f g : Ctx → Ctx) :
    modCtx (modCtx s k c f) k c g = modCtx s k c (fun x => g (f x)) := by
  simp [modCtx, modCore, setCore, getCore, vmod, vset_vset]

/-- g0 reads zero (R67). -/
@[simp] theorem gGet_zero (x : Ctx) : gGet x 0 = 0 := by simp [gGet]

theorem gGet_gSet (x : Ctx) (i j : BitVec 5) (v : W64) :
    gGet (gSet x i v) j = if j = i ∧ i ≠ 0 then v else gGet x j := by
  by_cases hi : i = 0
  · simp [gSet, hi]
  · by_cases hj : j = i
    · subst hj
      unfold gGet gSet
      rw [if_neg hi, if_neg hi, if_pos ⟨rfl, hi⟩]
      simp
    · have h : j.toFin ≠ i.toFin := fun e => hj (BitVec.eq_of_toFin_eq e)
      unfold gGet gSet
      rw [if_neg hi, vget_vset, if_neg h]; simp [hj]


end Sys2Proof.Machine
end

