-- ==== Sys2Proof/Laws/Issue.lean ====
section
/-!
SUPPORT. What running an instruction can do, in the terms of the statements: it does nothing where the context cannot issue,
and else it ends in one of five ways.
-/

namespace Sys2Proof.Machine

/-- What an instruction that issues leaves. -/
def finish (s : State) (k : CoreId) (c : CtxId) : IRes → State
  | .done s' => retireNext s s' k c
  | .doneThen s' g => g (retireNext s s' k c)
  | .jump s' t => retire s' k c t
  | .wait s' w => waits s' k c w
  | .fault s' f d a => takeFault s' k c f ⟨pcOf s k c, taskTag s k (getCtx s k c).task, d, a, none⟩

theorem runInstr_issues {s : State} {k : CoreId} {c : CtxId} (h : issues s k c) (body : CtxId → State → IRes) :
    runInstr k body s = finish s k c (body c s) := by
  obtain ⟨h1, h2, h3, h4⟩ := h
  have h5 : ¬ (getCtx s k c).pc.toNat < 64 := by omega
  simp only [runInstr, h1, h2, h3, h5]
  cases body c s <;> simp [finish, retireNext, retire, waits, pcOf]

/-- With no holder of the slot, no clock, or under a reset, nothing issues. -/
theorem runInstr_idle {s : State} {k : CoreId} (body : CtxId → State → IRes)
    (h : ∀ c, runningCtx s k = some c → coreClocked s k = false ∨ resetCovers s k c.val = true) :
    runInstr k body s = s := by
  unfold runInstr
  split
  · rfl
  · rename_i c hc
    rcases h c hc with h | h <;> simp [h]

/-- No instruction is fetched from the image header. -/
theorem runInstr_header {s : State} {k : CoreId} {c : CtxId} (body : CtxId → State → IRes) (h1 : runningCtx s k = some c)
    (h2 : coreClocked s k = true) (h3 : resetCovers s k c.val = false) (h4 : (pcOf s k c).toNat < 64) :
    runInstr k body s = issueFault s k c .range := by
  simp only [pcOf] at h4
  simp [runInstr, h1, h2, h3, h4, issueFault, pcOf]

end Sys2Proof.Machine
end

