-- ==== Sys2Proof/Laws/Frame.lean ====
section
/-!
SUPPORT. What the shared operations of core instructions may reach: only what belongs to the core (`onlyCore`). One lemma per
operation; a proof about an instruction chains them.
-/

namespace Sys2Proof.Machine

variable {k : CoreId} {s t u : State}

theorem onlyCore.refl (k : CoreId) (s : State) : onlyCore k s s :=
  ⟨fun _ _ => rfl, fun _ _ => rfl, fun _ _ => rfl, rfl, fun _ _ => rfl, fun _ _ => rfl, fun _ => rfl,
   ⟨[], by simp, by simp⟩, ⟨[], by simp⟩, rfl⟩

theorem onlyCore.owner (h : onlyCore k s t) : partOfCore t k = partOfCore s k := by
  have := congrArg Region.owner h.own
  simpa [partOfCore, partOfRegion] using this

theorem onlyCore.nearIdx (h : onlyCore k s t) : nearIdx t k = nearIdx s k := by
  have := congrArg Region.fusePhys h.own
  simp only at this
  simp [Machine.nearIdx, this]

theorem onlyCore.parts (h : onlyCore k s t) : t.parts = s.parts := by
  simpa using congrArg State.parts h.rest

theorem onlyCore.trans (h : onlyCore k s t) (g : onlyCore k t u) : onlyCore k s u where
  core := fun j hj => (g.core j hj).trans (h.core j hj)
  near := fun i hi => (g.near i (by rw [h.nearIdx]; exact hi)).trans (h.near i hi)
  region := fun r hr => (g.region r hr).trans (h.region r hr)
  own := by rw [← h.own]; rw [← g.own]
  meters := fun p hp => (g.meters p (by rw [h.owner]; exact hp)).trans (h.meters p hp)
  pst := fun p hp => (g.pst p (by rw [h.owner]; exact hp)).trans (h.pst p hp)
  stks := fun n => by rw [← h.stks n]; rw [← g.stks n]
  mesh := by
    obtain ⟨a, ha, ha'⟩ := h.mesh
    obtain ⟨b, hb, hb'⟩ := g.mesh
    refine ⟨a ++ b, by rw [hb, ha, List.append_assoc], ?_⟩
    intro f hf
    rcases List.mem_append.1 hf with hf | hf
    · exact ha' f hf
    · exact hb' f hf
  flt := by
    obtain ⟨a, ha⟩ := h.flt
    obtain ⟨b, hb⟩ := g.flt
    exact ⟨a ++ b, by rw [hb, ha, List.append_assoc]⟩
  rest := by rw [← h.rest]; rw [← g.rest]

/-! ### The plain updates -/

theorem onlyCore.modCore (f : Core → Core) : onlyCore k s (modCore s k f) :=
  ⟨fun j hj => by simp [getCore_modCore, hj], fun _ _ => rfl, fun _ _ => rfl, rfl, fun _ _ => rfl, fun _ _ => rfl, fun _ => rfl,
   ⟨[], by simp, by simp⟩, ⟨[], by simp⟩, rfl⟩

theorem onlyCore.modCtx (c : CtxId) (f : Ctx → Ctx) : onlyCore k s (modCtx s k c f) := onlyCore.modCore _

theorem onlyCore.setG (c : CtxId) (i : BitVec 5) (v : W64) : onlyCore k s (setG s k c i v) :=
  onlyCore.modCtx c _

theorem onlyCore.modNear (f : Near → Near) : onlyCore k s (modNear s k f) :=
  ⟨fun _ _ => rfl, fun i hi => by simp [Machine.modNear, vget_vmod, hi], fun _ _ => rfl, rfl, fun _ _ => rfl, fun _ _ => rfl,
   fun _ => rfl, ⟨[], by simp, by simp⟩, ⟨[], by simp⟩, rfl⟩

theorem onlyCore.raiseRec (r : FaultRec) : onlyCore k s (raiseRec s r) :=
  ⟨fun _ _ => rfl, fun _ _ => rfl, fun _ _ => rfl, rfl, fun _ _ => rfl, fun _ _ => rfl, fun _ => rfl,
   ⟨[], by simp, by simp⟩, ⟨_, rfl⟩, rfl⟩

theorem onlyCore.meshSend (c : CtxId) (d : End) (cls : Nat) (b : FBody) : onlyCore k s (meshSend s ⟨.ctx k c, d, cls, b⟩) :=
  ⟨fun _ _ => rfl, fun _ _ => rfl, fun _ _ => rfl, rfl, fun _ _ => rfl, fun _ _ => rfl, fun _ => rfl,
   ⟨[_], rfl, by simp⟩, ⟨[], by simp⟩, rfl⟩

theorem onlyCore.addMeter {p : PartId} (h : partOfCore s k = some p) (m : Fin 12) (n : Nat) : onlyCore k s (addMeter s p m n) :=
  ⟨fun _ _ => rfl, fun _ _ => rfl, fun _ _ => rfl, rfl,
   fun q hq => by
     have hqp : q ≠ p := by rintro rfl; exact hq h
     simp [Machine.addMeter, vget_vmod, hqp],
   fun _ _ => rfl, fun _ => rfl, ⟨[], by simp, by simp⟩, ⟨[], by simp⟩, rfl⟩

theorem onlyCore.modPst {p : PartId} (h : partOfCore s k = some p) (f : PartStatus → PartStatus) : onlyCore k s (modPst s p f) :=
  ⟨fun _ _ => rfl, fun _ _ => rfl, fun _ _ => rfl, rfl, fun _ _ => rfl,
   fun q hq => by
     have hqp : q ≠ p := by rintro rfl; exact hq h
     simp [getPst_modPst, hqp],
   fun _ => rfl, ⟨[], by simp, by simp⟩, ⟨[], by simp⟩, rfl⟩

theorem onlyCore.postCet (e : CetEv) : onlyCore k s (postCet s (regionOf k) e) := by
  refine ⟨fun _ _ => rfl, fun _ _ => rfl, fun r hr => by simp [Machine.postCet, getRegion_modRegion, hr], ?_, fun _ _ => rfl,
    fun _ _ => rfl, fun _ => rfl, ⟨[], by simp [Machine.postCet], by simp⟩, ⟨[], by simp [Machine.postCet]⟩, rfl⟩
  simp only [Machine.postCet, modRegion_region]
  split <;> rfl

/-- A fold of steps that each reach only the core. -/
theorem onlyCore.foldl {α : Type} (f : State → α → State) (l : List α) (h : ∀ a x, onlyCore k a (f a x)) :
    onlyCore k s (l.foldl f s) := by
  induction l generalizing s with
  | nil => exact onlyCore.refl k s
  | cons x xs ih => exact (h s x).trans ih

/-! ### Local memories -/

theorem onlyCore.setSpace (sp : Space) (m : PMem) : onlyCore k s (setSpace s k sp m) := by
  cases sp <;> unfold Machine.setSpace
  · exact onlyCore.modCore _
  · exact onlyCore.modNear _
  · exact onlyCore.modCore _

theorem onlyCore.modNsl (f : NslRegs → NslRegs) : onlyCore k s (modNsl s k f) := onlyCore.modCore _

theorem onlyCore.noteDecode (sp : Space) (blk : Nat) (d : BitVec 72) (o : Decode) : onlyCore k s (noteDecode s k sp blk d o) := by
  have h1 : onlyCore k s
      (if sp = .near then
        match o with
        | .clean => s
        | .dataFixed | .checkFixed => Machine.modNsl s k (fun n => { n with evCorr := true, corr := n.corr + 1 })
        | .poison => Machine.modNsl s k (fun n => { n with evUncorr := true, uncorr := n.uncorr + 1 })
        | .uncorrectable =>
          Machine.modNsl s k (fun n => { n with evUncorr := true, evPoisoned := true, uncorr := n.uncorr + 1 })
      else s) := by
    split
    · cases o <;> first | exact onlyCore.refl k s | exact onlyCore.modNsl _
    · exact onlyCore.refl k s
  unfold Machine.noteDecode
  cases o <;> first | exact h1 | exact h1.trans (onlyCore.postCet _) | exact h1.trans (onlyCore.raiseRec _)

theorem onlyCore.touchBlock (sp : Space) (blk : Nat) : onlyCore k s (touchBlock s k sp blk).1 := by
  simp only [Machine.touchBlock]
  split
  · exact onlyCore.refl k s
  · exact onlyCore.noteDecode _ _ _ _
  · exact (onlyCore.setSpace _ _).trans (onlyCore.noteDecode _ _ _ _)
  · exact (onlyCore.setSpace _ _).trans (onlyCore.noteDecode _ _ _ _)

theorem onlyCore.touchBlocks (sp : Space) (bs : List Nat) : onlyCore k s (touchBlocks s k sp bs).1 := by
  have : ∀ (l : List Nat) (p : State × Bool), onlyCore k p.1
      (l.foldl (fun (p : State × Bool) b => let r := Machine.touchBlock p.1 k sp b; (r.1, p.2 && r.2)) p).1 := by
    intro l
    induction l with
    | nil => exact fun p => onlyCore.refl k p.1
    | cons b l ih =>
      intro p
      have h := ih ((Machine.touchBlock p.1 k sp b).1, p.2 && (Machine.touchBlock p.1 k sp b).2)
      exact (onlyCore.touchBlock sp b).trans h
  exact this bs (s, true)

theorem onlyCore.readLocal (sp : Space) (a n : Nat) : onlyCore k s (readLocal s k sp a n).1 := onlyCore.touchBlocks sp _

/-- A fold over a state with something beside it. -/
theorem onlyCore.foldPair {α β : Type} (f : State × β → α → State × β) (l : List α) (h : ∀ p x, onlyCore k p.1 (f p x).1) (p : State × β) :
    onlyCore k p.1 (l.foldl f p).1 := by
  induction l generalizing p with
  | nil => exact onlyCore.refl k p.1
  | cons x l ih => exact (h p x).trans (ih _)

theorem onlyCore.readRanges (rs : List (Nat × Nat)) : onlyCore k s (readRanges s k rs).1 := by
  unfold Machine.readRanges
  exact onlyCore.foldPair _ rs (by intro p r; exact onlyCore.readLocal .opbuf r.1 r.2) (s, some [])

/-- Bytes kept for an operation (R94) are the core's own. -/
theorem onlyCore.keepHeld (by' : Option Nat) (a n : Nat) : onlyCore k s (keepHeld s k by' a n) := by
  refine onlyCore.foldl _ _ (fun t h => ?_)
  refine onlyCore.trans ?_ (onlyCore.modCore _)
  split
  · exact onlyCore.refl k t
  · exact onlyCore.readRanges _

theorem onlyCore.writeLocalBy (by' : Option Nat) (sp : Space) (a : Nat) (bs : List Byte) : onlyCore k s (writeLocalBy by' s k sp a bs) := by
  refine onlyCore.trans ?_ ((onlyCore.touchBlocks sp _).trans (onlyCore.setSpace sp _))
  split
  · exact onlyCore.keepHeld _ _ _
  · exact onlyCore.refl k s

theorem onlyCore.writeLocal (sp : Space) (a : Nat) (bs : List Byte) : onlyCore k s (writeLocal s k sp a bs) :=
  onlyCore.writeLocalBy none sp a bs

/-! ### The accumulator file and the inbox -/

theorem onlyCore.modSoft (u : Soft) (f : Tbl (BitVec 72) → Tbl (BitVec 72)) : onlyCore k s (modSoft s k u f) := onlyCore.modCore _

theorem onlyCore.touchSoft (u : Soft) (blk : Nat) : onlyCore k s (touchSoft s k u blk).1 := by
  simp only [Machine.touchSoft]
  split
  · exact onlyCore.refl k s
  · exact onlyCore.refl k s
  · exact (onlyCore.modSoft _ _).trans (onlyCore.raiseRec _)
  · exact (onlyCore.modSoft _ _).trans (onlyCore.postCet _)

theorem onlyCore.touchSofts (u : Soft) (bs : List Nat) : onlyCore k s (touchSofts s k u bs).1 := by
  have : ∀ (l : List Nat) (p : State × Bool), onlyCore k p.1
      (l.foldl (fun (p : State × Bool) b => let r := Machine.touchSoft p.1 k u b; (r.1, p.2 && r.2)) p).1 := by
    intro l
    induction l with
    | nil => exact fun p => onlyCore.refl k p.1
    | cons b l ih =>
      intro p
      exact (onlyCore.touchSoft u b).trans (ih ((Machine.touchSoft p.1 k u b).1, p.2 && (Machine.touchSoft p.1 k u b).2))
  exact this bs (s, true)

theorem onlyCore.writeSofts (u : Soft) (bs : List Nat) : onlyCore k s (writeSofts s k u bs) := onlyCore.modSoft _ _

/-! ### Sync operations and tasks -/

theorem onlyCore.sendSync (c : CtxId) (r : RegionId) (b : FBody) : onlyCore k s (sendSync s k c r b) := onlyCore.meshSend _ _ _ _

theorem onlyCore.sendSyncTo (c : CtxId) (h : W32) (f : Nat → FBody) : onlyCore k s (sendSyncTo s k c h f) := by
  unfold Machine.sendSyncTo
  repeat' split
  all_goals first | exact onlyCore.refl k s | exact onlyCore.sendSync _ _ _

theorem onlyCore.modTask (id : Nat) (f : Task → Task) : onlyCore k s (modTask s k id f) := onlyCore.modCore _

theorem onlyCore.taskCheck (id : Nat) : onlyCore k s (taskCheck s k id) := by
  unfold Machine.taskCheck
  repeat' split
  all_goals first | exact onlyCore.refl k s | exact (onlyCore.sendSync _ _ _).trans (onlyCore.modCore _)

theorem onlyCore.taskOpBegin (t : Option Nat) : onlyCore k s (taskOpBegin s k t) := by
  cases t
  · exact onlyCore.refl k s
  · exact onlyCore.modTask _ _

theorem onlyCore.taskOpEnd (t : Option Nat) : onlyCore k s (taskOpEnd s k t) := by
  cases t
  · exact onlyCore.refl k s
  · exact (onlyCore.modTask _ _).trans (onlyCore.taskCheck _)

theorem onlyCore.modXfer (id : Nat) (f : Xfer → Xfer) : onlyCore k s (modXfer s k id f) := onlyCore.modCore _

theorem onlyCore.modStrm (f : StrmRegs → StrmRegs) : onlyCore k s (modStrm s k f) := onlyCore.modCore _

theorem onlyCore.stopCheck (id : Nat) : onlyCore k s (stopCheck s k id) := by
  simp only [Machine.stopCheck]
  repeat' split
  all_goals first | exact onlyCore.refl k s | exact ((onlyCore.modXfer _ _).trans (onlyCore.modStrm _)).trans (onlyCore.taskOpEnd _)

theorem onlyCore.stopXfer (id code cause : Nat) (r : W32) : onlyCore k s (stopXfer s k id code cause r) := by
  unfold Machine.stopXfer
  repeat' split
  all_goals first | exact onlyCore.refl k s | exact (onlyCore.modXfer _ _).trans (onlyCore.stopCheck _)

theorem onlyCore.abortSyncs (t : Task) (r : W32) : onlyCore k s (abortSyncs s k t r) :=
  (onlyCore.sendSync _ _ _).trans (onlyCore.foldl _ _ (fun _ _ => onlyCore.sendSyncTo _ _ _))

theorem onlyCore.settleAnchor (c : CtxId) (q : List TOp) (g : TOp → Bool) (o : TOp) : onlyCore k s (settleAnchor s k c q g o) := by
  simp only [Machine.settleAnchor]
  repeat' split
  all_goals first | exact onlyCore.refl k s | exact onlyCore.modCtx _ _ | exact onlyCore.modCore _

theorem onlyCore.dropHold (id : Nat) : onlyCore k s (dropHold s k id) := onlyCore.modCore _

theorem onlyCore.dropQueued (c : CtxId) (t : Option Nat) : onlyCore k s (dropQueued s k c t) :=
  (onlyCore.modCtx _ _).trans (onlyCore.foldl _ _ (fun _ _ => ((onlyCore.settleAnchor _ _ _ _).trans (onlyCore.dropHold _)).trans (onlyCore.taskOpEnd _)))

theorem onlyCore.abortTask (id : Nat) (self : Option Nat) (a b : Nat) (r : W32) : onlyCore k s (abortTask s k id self a b r) := by
  simp only [Machine.abortTask]
  split
  · exact onlyCore.refl k s
  · exact (((onlyCore.modTask _ _).trans (onlyCore.abortSyncs _ _)).trans
      (onlyCore.foldl _ _ (fun _ _ => onlyCore.stopXfer _ _ _ _))).trans (onlyCore.dropQueued _ _)

/-! ### Faults -/

theorem onlyCore.faultAbort (c : CtxId) (r : W32) : onlyCore k s (faultAbort s k c r) := by
  unfold Machine.faultAbort
  split
  · exact onlyCore.refl k s
  · exact onlyCore.abortTask _ _ _ _ _

theorem onlyCore.faultRaise (c : CtxId) (cls : FCls) : onlyCore k s (faultRaise s k c cls) := by
  simp only [Machine.faultRaise]
  split
  · exact onlyCore.refl k s
  · exact (onlyCore.modCtx _ _).trans (onlyCore.modCore _)

/-- Taking a context fault reaches only the core. -/
theorem onlyCore.takeFault (c : CtxId) (cls : FCls) (i : FaultInfo) : onlyCore k s (takeFault s k c cls i) := by
  simp only [Machine.takeFault]
  repeat' split
  · exact onlyCore.raiseRec _
  · exact (((onlyCore.raiseRec _).trans (onlyCore.faultAbort _ _)).trans (onlyCore.modCtx _ _)).trans (onlyCore.faultRaise _ _)
  · exact (((onlyCore.raiseRec _).trans (onlyCore.faultAbort _ _)).trans (onlyCore.modCtx _ _)).trans (onlyCore.modCtx _ _)

theorem onlyCore.untaskedFault (c : CtxId) (pc : BitVec 18) (cause : Nat) (a : BitVec 64) (n : Option (Fin 8)) :
    onlyCore k s (untaskedFault s k c pc cause a n) := onlyCore.takeFault _ _ _

theorem onlyCore.opTaskFault (c : CtxId) (pc : BitVec 18) (t : Option Nat) (cause : Nat) (a : BitVec 64) :
    onlyCore k s (opTaskFault s k c pc t cause a) := by
  cases t
  · exact onlyCore.untaskedFault _ _ _ _ _
  · exact (onlyCore.raiseRec _).trans (onlyCore.abortTask _ _ _ _ _)

/-! ### One instruction -/

/-- An instruction's body reaches only the core, however it ends. -/
def bodyLocal (k : CoreId) (body : CtxId → State → IRes) : Prop :=
  ∀ c s, match body c s with
    | .done s' => onlyCore k s s'
    | .doneThen s' g => onlyCore k s s' ∧ ∀ t, onlyCore k t (g t)
    | .jump s' _ => onlyCore k s s'
    | .wait s' _ => onlyCore k s s'
    | .fault s' _ _ _ => onlyCore k s s'

/-- Running an instruction whose body reaches only the core reaches only the core. -/
theorem onlyCore.runInstr {body : CtxId → State → IRes} (h : bodyLocal k body) : onlyCore k s (runInstr k body s) := by
  simp only [Machine.runInstr]
  split
  · exact onlyCore.refl k s
  · rename_i c _
    split
    · exact onlyCore.refl k s
    · split
      · exact onlyCore.takeFault _ _ _
      · have := h c s
        revert this
        cases body c s <;> intro this
        · exact this.trans (onlyCore.modCtx _ _)
        · exact (this.1.trans (onlyCore.modCtx _ _)).trans (this.2 _)
        · exact this.trans (onlyCore.modCtx _ _)
        · exact (this.trans (onlyCore.modCtx _ _)).trans (onlyCore.modCore _)
        · exact this.trans (onlyCore.takeFault _ _ _)

end Sys2Proof.Machine
end

