-- ==== Sys2Proof/Laws/Mem.lean ====
section
/-!
SUPPORT. Memory: a read after a write gives the value written and every other byte stays; every operation keeps the canonical
form; the same for the table of the blocks whose check bits differ.
-/

namespace Sys2Proof.Machine

/-! ### Sorted tables -/

section
variable {α : Type}

theorem keysRise_cons (a : Nat × α) (l : List (Nat × α)) :
    keysRise (a :: l) = true ↔ (∀ e ∈ l, a.1 < e.1) ∧ keysRise l = true := by
  induction l generalizing a with
  | nil => simp [keysRise]
  | cons b r ih =>
    simp only [keysRise, Bool.and_eq_true, decide_eq_true_eq]
    constructor
    · rintro ⟨h1, h2⟩
      refine ⟨?_, h2⟩
      intro e he
      rcases List.mem_cons.1 he with rfl | he
      · exact h1
      · have := ((ih b).1 h2).1 e he; omega
    · rintro ⟨h1, h2⟩
      exact ⟨h1 b (by simp), h2⟩

theorem keysRise_filter (p : Nat × α → Bool) (l : List (Nat × α)) (h : keysRise l = true) : keysRise (l.filter p) = true := by
  induction l with
  | nil => rfl
  | cons a r ih =>
    obtain ⟨h1, h2⟩ := (keysRise_cons a r).1 h
    rw [List.filter_cons]
    split
    · exact (keysRise_cons _ _).2 ⟨fun e he => h1 e (List.mem_filter.1 he).1, ih h2⟩
    · exact ih h2

theorem mem_insertKey (l : List (Nat × α)) (k : Nat) (x : α) (e : Nat × α) : e ∈ insertKey l k x ↔ e = (k, x) ∨ e ∈ l := by
  induction l with
  | nil => simp [insertKey]
  | cons a r ih =>
    rw [insertKey]
    split
    · simp
    · simp only [List.mem_cons, ih]; exact or_left_comm

theorem keysRise_insertKey (l : List (Nat × α)) (k : Nat) (x : α) (h : keysRise l = true) (hk : ∀ e ∈ l, e.1 ≠ k) :
    keysRise (insertKey l k x) = true := by
  induction l with
  | nil => simp [insertKey, keysRise]
  | cons a r ih =>
    obtain ⟨h1, h2⟩ := (keysRise_cons a r).1 h
    have ha : a.1 ≠ k := hk a (by simp)
    rw [insertKey]
    split
    · rename_i hlt
      refine (keysRise_cons _ _).2 ⟨?_, h⟩
      intro e he
      rcases List.mem_cons.1 he with rfl | he
      · exact hlt
      · have := h1 e he; simp only; omega
    · rename_i hge
      refine (keysRise_cons _ _).2 ⟨?_, ih h2 (fun e he => hk e (by simp [he]))⟩
      intro e he
      rcases (mem_insertKey r k x e).1 he with rfl | he
      · simp only; omega
      · exact h1 e he
end

/-! ### Bytes -/

theorem memRead_filter (m : Mem) (a b : Nat) : memRead (m.filter (fun c => c.1 != a)) b = if b = a then memDefault else memRead m b := by
  induction m with
  | nil => simp [memRead]
  | cons c cs ih =>
    by_cases h : c.1 = a
    · simp only [List.filter_cons, h, bne_self_eq_false, Bool.false_eq_true, if_false, ih, memRead]
      split
      · rfl
      · rename_i hb; simp [show ¬ a = b from fun e => hb e.symm]
    · simp only [List.filter_cons, bne_iff_ne, ne_eq, h, not_false_eq_true, if_true, memRead, ih]
      split
      · rename_i hb; subst hb; simp [h]
      · rfl

theorem memRead_insertKey (m : Mem) (a b : Nat) (x : Byte) (h : ∀ c ∈ m, c.1 ≠ a) :
    memRead (insertKey m a x) b = if b = a then x else memRead m b := by
  induction m with
  | nil => simp [insertKey, memRead, eq_comm]
  | cons c cs ih =>
    have hc : c.1 ≠ a := h c (by simp)
    rw [insertKey]
    split
    · simp only [memRead]
      by_cases e : b = a
      · simp [e]
      · simp [e, show ¬ a = b from fun q => e q.symm]
    · simp only [memRead, ih (fun c hc => h c (by simp [hc]))]
      by_cases e : b = a
      · subst e; simp [hc]
      · simp [e]

/-- A read after a write gives the byte written, and every other byte stays. -/
theorem memRead_memWrite (m : Mem) (a b : Nat) (x : Byte) : memRead (memWrite m a x) b = if b = a then x else memRead m b := by
  unfold memWrite
  split
  · rename_i h; rw [memRead_filter, h]
  · rw [memRead_insertKey _ _ _ _ (fun c hc => by simpa using (List.mem_filter.1 hc).2), memRead_filter]
    split <;> rfl

theorem memWrite_wf (m : Mem) (a : Nat) (x : Byte) (h : Mem.wf m = true) : Mem.wf (memWrite m a x) = true := by
  simp only [Mem.wf, Bool.and_eq_true, List.all_eq_true] at h ⊢
  have h1 := keysRise_filter (fun c : Host.Cell => c.1 != a) m h.1
  have h2 : ∀ c ∈ m.filter (fun c => c.1 != a), (c.2 != memDefault) = true := fun c hc => h.2 c (List.mem_filter.1 hc).1
  unfold memWrite
  split
  · exact ⟨h1, h2⟩
  · rename_i hx
    refine ⟨keysRise_insertKey _ _ _ h1 (fun c hc => by simpa using (List.mem_filter.1 hc).2), ?_⟩
    intro c hc
    rcases (mem_insertKey _ _ _ _).1 hc with rfl | hc
    · simpa using hx
    · exact h2 c hc

theorem memWriteBytes_wf (bs : List Byte) (m : Mem) (a : Nat) (h : Mem.wf m = true) : Mem.wf (memWriteBytes m a bs) = true := by
  induction bs generalizing m a with
  | nil => exact h
  | cons b bs ih => exact ih _ _ (memWrite_wf m a b h)

/-- A read after a write of bytes. -/
theorem memRead_memWriteBytes (bs : List Byte) (m : Mem) (a b : Nat) :
    memRead (memWriteBytes m a bs) b = if h : a ≤ b ∧ b - a < bs.length then bs[b - a] else memRead m b := by
  induction bs generalizing m a with
  | nil => simp [memWriteBytes]
  | cons x xs ih =>
    rw [memWriteBytes, ih]
    by_cases h : a + 1 ≤ b ∧ b - (a + 1) < xs.length
    · have h2 : a ≤ b ∧ b - a < (x :: xs).length := by simp; omega
      have h3 : b - a = (b - (a + 1)) + 1 := by omega
      rw [dif_pos h, dif_pos h2]
      simp only [h3, List.getElem_cons_succ]
    · rw [dif_neg h, memRead_memWrite]
      by_cases e : b = a
      · subst e; simp
      · have h2 : ¬ (a ≤ b ∧ b - a < (x :: xs).length) := by simp; omega
        rw [dif_neg h2, if_neg e]

/-! ### Check bits -/

theorem tget_filter {α : Type} (d : α) (l : Tbl α) (k j : Nat) :
    tget d (l.filter (fun e => e.1 != k)) j = if j = k then d else tget d l j := by
  induction l with
  | nil => simp [tget]
  | cons c cs ih =>
    by_cases h : c.1 = k
    · simp only [List.filter_cons, h, bne_self_eq_false, Bool.false_eq_true, if_false, ih, tget]
      split
      · rfl
      · rename_i hb; simp [show ¬ k = j from fun e => hb e.symm]
    · simp only [List.filter_cons, bne_iff_ne, ne_eq, h, not_false_eq_true, if_true, tget, ih]
      split
      · rename_i hb; subst hb; simp [h]
      · rfl

theorem tget_insertKey {α : Type} (d : α) (l : Tbl α) (k j : Nat) (x : α) (h : ∀ c ∈ l, c.1 ≠ k) :
    tget d (insertKey l k x) j = if j = k then x else tget d l j := by
  induction l with
  | nil => simp [insertKey, tget, eq_comm]
  | cons c cs ih =>
    have hc : c.1 ≠ k := h c (by simp)
    rw [insertKey]
    split
    · simp only [tget]
      by_cases e : j = k
      · simp [e]
      · simp [e, show ¬ k = j from fun q => e q.symm]
    · simp only [tget, ih (fun c hc => h c (by simp [hc]))]
      by_cases e : j = k
      · subst e; simp [hc]
      · simp [e]

theorem tget_tset {α : Type} (d : α) (l : Tbl α) (k j : Nat) (x : α) : tget d (tset l k x) j = if j = k then x else tget d l j := by
  induction l with
  | nil => simp [tset, tget, eq_comm]
  | cons c cs ih =>
    rw [tset]
    by_cases h : c.1 = k
    · rw [if_pos h]; simp only [tget]
      by_cases e : j = k
      · simp [e]
      · simp [e, h, show ¬ k = j from fun q => e q.symm]
    · rw [if_neg h]; simp only [tget, ih]
      by_cases e : j = k
      · subst e; simp [h]
      · simp [e]

/-- The check bits' difference of a block after it was set. -/
theorem tget_setDiff (l : Tbl (BitVec 72)) (k j : Nat) (x : BitVec 72) : tget 0 (setDiff l k x) j = if j = k then x else tget 0 l j := by
  unfold setDiff
  split
  · rename_i h; rw [tget_filter, h]
  · rw [tget_insertKey _ _ _ _ _ (fun c hc => by simpa using (List.mem_filter.1 hc).2), tget_filter]
    split <;> rfl

/-- The canonical form of the table of differences. -/
def diffWf (l : Tbl (BitVec 72)) : Bool := keysRise l && l.all (fun e => e.2 != 0)

theorem setDiff_wf (l : Tbl (BitVec 72)) (k : Nat) (x : BitVec 72) (h : diffWf l = true) : diffWf (setDiff l k x) = true := by
  simp only [diffWf, Bool.and_eq_true, List.all_eq_true] at h ⊢
  have h1 := keysRise_filter (fun c : Nat × BitVec 72 => c.1 != k) l h.1
  have h2 : ∀ c ∈ l.filter (fun c => c.1 != k), (c.2 != 0) = true := fun c hc => h.2 c (List.mem_filter.1 hc).1
  unfold setDiff
  split
  · exact ⟨h1, h2⟩
  · rename_i hx
    refine ⟨keysRise_insertKey _ _ _ h1 (fun c hc => by simpa using (List.mem_filter.1 hc).2), ?_⟩
    intro c hc
    rcases (mem_insertKey _ _ _ _).1 hc with rfl | hc
    · simpa using hx
    · exact h2 c hc

theorem pmem_wf_iff (m : PMem) : m.wf = true ↔ Mem.wf m.bytes = true ∧ diffWf m.diff = true := by
  simp [PMem.wf, diffWf, and_assoc]

theorem foldl_setDiff_wf (bs : List Nat) (l : Tbl (BitVec 72)) (h : diffWf l = true) :
    diffWf (bs.foldl (fun t b => setDiff t b 0) l) = true := by
  induction bs generalizing l with
  | nil => exact h
  | cons b bs ih => exact ih _ (setDiff_wf l b 0 h)

theorem tget_foldl_setDiff (bs : List Nat) (l : Tbl (BitVec 72)) (j : Nat) :
    tget 0 (bs.foldl (fun t b => setDiff t b 0) l) j = if j ∈ bs then 0 else tget 0 l j := by
  induction bs generalizing l with
  | nil => simp
  | cons b bs ih =>
    rw [List.foldl_cons, ih, tget_setDiff]
    by_cases h : j ∈ bs <;> by_cases e : j = b <;> simp [h, e]

/-! ### Memories with check bits -/

theorem pmStore_wf (m : PMem) (a : Nat) (bs : List Byte) (h : m.wf = true) : (pmStore m a bs).wf = true := by
  rw [pmem_wf_iff] at h ⊢
  exact ⟨memWriteBytes_wf bs _ _ h.1, foldl_setDiff_wf _ _ h.2⟩

theorem flipData_wf (m : PMem) (blk b : Nat) (h : m.wf = true) : Mem.wf (flipData m blk b) = true :=
  memWrite_wf _ _ _ ((pmem_wf_iff m).1 h).1

theorem pmTouch_wf (m : PMem) (blk : Nat) (h : m.wf = true) : (pmTouch m blk).1.wf = true := by
  have h' := (pmem_wf_iff m).1 h
  simp only [pmTouch]
  split <;> simp only [pmem_wf_iff] <;>
    first
    | exact h'
    | exact ⟨flipData_wf m _ _ h, setDiff_wf _ _ _ h'.2⟩
    | exact ⟨h'.1, setDiff_wf _ _ _ h'.2⟩

theorem pmUpset_wf (m : PMem) (blk b : Nat) (h : m.wf = true) : (pmUpset m blk b).wf = true := by
  have h' := (pmem_wf_iff m).1 h
  unfold pmUpset
  split <;> rw [pmem_wf_iff]
  · exact ⟨flipData_wf m _ _ h, setDiff_wf _ _ _ h'.2⟩
  · exact ⟨h'.1, setDiff_wf _ _ _ h'.2⟩

/-- Right after reset every memory is in canonical form. -/
theorem reset_memWf : State.reset.memWf := by
  refine ⟨fun k => ?_, fun i => ?_, fun n => ?_⟩
  · have : getCore State.reset k = Core.reset := by simp [getCore, vget, State.reset]
    rw [this]; exact ⟨rfl, rfl⟩
  · have : vget State.reset.near i = ⟨PMem.empty, [], [], [], 0, []⟩ := by simp [vget, State.reset]
    rw [this]; rfl
  · have : vget State.reset.stks n = Stack.reset := by simp [vget, State.reset]
    rw [this]; rfl

end Sys2Proof.Machine
end

