-- ==== Sys2Proof/Laws/Local.lean ====
section
/-!
SUPPORT. A core's local memories: blocks that pass their check are read as they stand, and a write then stores its bytes and
nothing else.
-/

namespace Sys2Proof.Machine

/-- The blocks that some bytes touch. -/
theorem mem_blocksOf (a n b : Nat) (hn : 0 < n) : b ∈ blocksOf a n ↔ b * 64 < a + n ∧ a < b * 64 + 64 := by
  unfold blocksOf
  rw [if_neg (by omega)]
  simp only [List.mem_map, List.mem_range]
  constructor
  · rintro ⟨i, hi, rfl⟩; omega
  · rintro ⟨h1, h2⟩; exact ⟨b - a / 64, by omega, by omega⟩

theorem blocksOf_zero (a : Nat) : blocksOf a 0 = [] := rfl

/-- A block that passes its check is used as it stands. -/
theorem touchBlock_clean (s : State) (k : CoreId) (sp : Space) (b : Nat) (h : blkDiff (getSpace s k sp) b = 0#72) :
    touchBlock s k sp b = (s, true) := by
  have h0 : decodeSyn 0#72 = .clean := by decide
  simp [touchBlock, pmTouch, h, h0]

theorem touchBlocks_clean (s : State) (k : CoreId) (sp : Space) (bs : List Nat)
    (h : ∀ b ∈ bs, blkDiff (getSpace s k sp) b = 0#72) : touchBlocks s k sp bs = (s, true) := by
  have go : ∀ p : Bool, bs.foldl (fun (p : State × Bool) b => let r := touchBlock p.1 k sp b; (r.1, p.2 && r.2)) (s, p) = (s, p) := by
    induction bs with
    | nil => intro p; rfl
    | cons b bs ih =>
      intro p
      simp only [List.foldl_cons, touchBlock_clean s k sp b (h b (by simp)), Bool.and_true]
      exact ih (fun b hb => h b (by simp [hb])) p
  exact go true

/-- Reading bytes whose blocks pass their check. -/
theorem readLocal_clean (s : State) (k : CoreId) (sp : Space) (a n : Nat)
    (h : ∀ b ∈ blocksOf a n, blkDiff (getSpace s k sp) b = 0#72) :
    readLocal s k sp a n = (s, some (memReadBytes (getSpace s k sp).bytes a n)) := by
  simp [readLocal, touchBlocks_clean s k sp _ h]

/-- No operation keeps bytes that the write reaches (R94). -/
theorem keepHeld_none (s : State) (k : CoreId) (by' : Option Nat) (a n : Nat) (h : ∀ x ∈ (getCore s k).holds, writeHeld by' a n x = false) :
    keepHeld s k by' a n = s := by
  have : (getCore s k).holds.filter (writeHeld by' a n) = [] := List.filter_eq_nil_iff.2 (fun x hx => by simp [h x hx])
  simp [keepHeld, this]

/-- Writing bytes whose blocks pass their check, where R94 holds nothing back. -/
theorem writeLocal_clean (s : State) (k : CoreId) (sp : Space) (a : Nat) (bs : List Byte)
    (h : ∀ b ∈ blocksOf a bs.length, blkDiff (getSpace s k sp) b = 0#72)
    (hh : sp = .opbuf → ∀ x ∈ (getCore s k).holds, writeHeld none a bs.length x = false) :
    writeLocal s k sp a bs = setSpace s k sp (pmStore (getSpace s k sp) a bs) := by
  have h0 : (if sp = .opbuf then keepHeld s k none a bs.length else s) = s := by
    split
    · exact keepHeld_none s k none a _ (hh ‹_›)
    · rfl
  simp only [writeLocal, writeLocalBy, h0]
  rw [touchBlocks_clean s k sp _ (fun b hb => h b (List.mem_filter.1 hb).1)]

/-- The check bits after a store. -/
theorem blkDiff_pmStore (m : PMem) (a : Nat) (bs : List Byte) (b : Nat) :
    blkDiff (pmStore m a bs) b =
      if b ∈ blocksOf a bs.length ∧ blkWhole a bs.length b = true then 0#72 else blkDiff m b := by
  simp only [blkDiff, pmStore, tget_foldl_setDiff, List.mem_filter]
  rfl

theorem getNear_modNear (s : State) (k j : CoreId) (f : Near → Near) :
    getNear (modNear s k f) j = if nearIdx s j = nearIdx s k then f (getNear s k) else getNear s j :=
  vget_vset s.near (nearIdx s k) (nearIdx s j) _

theorem getSpace_setSpace (s : State) (k : CoreId) (sp : Space) (m : PMem) : getSpace (setSpace s k sp m) k sp = m := by
  cases sp
  · simp [getSpace, setSpace]
  · simp only [getSpace, setSpace, getNear_modNear, if_true]
  · simp [getSpace, setSpace]

theorem getCtx_setSpace (s : State) (k j : CoreId) (c : CtxId) (sp : Space) (m : PMem) :
    getCtx (setSpace s k sp m) j c = getCtx s j c := by
  cases sp
  · simp only [getCtx, setSpace, getCore_modCore]; split <;> simp_all
  · rfl
  · simp only [getCtx, setSpace, getCore_modCore]; split <;> simp_all

theorem length_leBytes (n x : Nat) : (leBytes n x).length = n := by
  induction n generalizing x with
  | zero => rfl
  | succ n ih => simp [leBytes, ih]

theorem getElem_leBytes (n x i : Nat) (h : i < (leBytes n x).length) : ((leBytes n x)[i]).toNat = x / 256 ^ i % 256 := by
  induction n generalizing x i with
  | zero => simp [leBytes] at h
  | succ n ih =>
    cases i with
    | zero => simp [leBytes]
    | succ i =>
      simp only [leBytes, List.getElem_cons_succ]
      rw [ih]
      rw [Nat.div_div_eq_div_mul, Nat.pow_succ, Nat.mul_comm 256]

end Sys2Proof.Machine
end

