-- ==== Sys2Proof/WellFormed.lean ====
section
/-!
DEFINITION. Well-formed commands: those whose operands could be sent. Operands whose type already has the range of their
field need no check. The machine is total: what it does with a command does not rest on this predicate.
-/

namespace Sys2Proof

/-- The bytes of a chip-link flit (11_chip_links.md, R266). -/
def flitBytes : Nat := 256
/-- A pair's number, and the symbols of its codewords (11_chip_links.md, R265). -/
def rxPairWf (q : RxPair) : Bool := q.seq < 4096 && q.errA ≤ 544 && q.errB ≤ 544
/-- The payload and header bytes of a die-link flit, and its lane words (17_package.md, R406). -/
def dlFlitBytes : Nat := 264
def dlWords : Nat := 32

/-- A guest frame's WINDOW and CLASS are bytes, its address has 64 bits, and its payload is 64 to 4,096 bytes in whole units
of 64 (17_package.md, R412). -/
def guestFrameWf (w cls addr : Nat) (data : List Byte) : Bool :=
  w < 256 && cls < 256 && addr < 2 ^ 64 && data.length % 64 = 0 && 64 ≤ data.length && data.length ≤ 4096

/-- The scope of a request is a byte, and what follows it are two (13_trust.md, R322). -/
def reqHeadWf (h : ReqHead) : Bool := h.scope < 256 && h.pad < 2 ^ 16

/-- The operands could be sent. -/
def Instr.wf : Instr → Bool
  | .registerWrite _ off size _ | .registerRead _ off size => off < 2 ^ 26 && 1 ≤ size && size ≤ 64
  | .rw1cClear _ off _ _ | .counterLowRead _ off => off < 2 ^ 26
  | .streamFetchComplete bytes => bytes.length ≤ 2 ^ 26
  | .streamHeaderFetched hdr => hdr.length = 128
  | .submitStream len => len < 2 ^ 32
  | .fieldRepairCountWord recs => recs.length % 16 = 0 && recs.length < 65536
  | .linkDataFlit _ flit pair pos => flit.length = flitBytes && rxPairWf pair && (5 * pair.seq + pos.val) % 80 ≠ 79
  | .linkCtlFlit _ flit => flit.bytes.length = flitBytes && rxPairWf flit.pair && (5 * flit.pair.seq + flit.pos.val) % 80 = 79
  | .dlFlitReceive _ _ _ flit lchk => flit.length = dlFlitBytes && lchk.length = dlWords
  | .windowWrite _ _ off data => off < 65536 && 1 ≤ data.length && data.length ≤ 65536
  | .bar4Read off len => off < 2 ^ 40 && 1 ≤ len && len ≤ 4096
  | .bar4Write off data => off < 2 ^ 40 && 1 ≤ data.length && data.length ≤ 512
  | .ringEnable _ log2 _ => log2 < 32
  | .claim pin timer | .release pin timer => pin.all (· < 256) && timer.all (· < 256) && (pin.isSome || timer.isSome)
  | .resetRequest unit target ctx | .mgmtReset unit target ctx => unit < 8 && target < 128 && ctx < 4
  | .powerCap v | .setPowerCap v => v < 2 ^ 16
  | .pwrCapWrite v => v < 2 ^ 12
  | .pwrRampWrite v => v < 2 ^ 8
  | .controlRound watts pkg mv amps => watts.length = 32 && pkg < 2 ^ 20 && mv < 2 ^ 16 && amps < 2 ^ 16
  | .clockMonitorWindow die _ => die < 32
  | .trimWindow count => count < 2 ^ 17
  | .thmUnmask id => id < 512
  | .resetDie d => d < 32
  | .guestIdent _ ident _ _ _ => ident.length = 64
  | .mboxSend _ w cls _ _ data | .meshMsg _ w cls _ _ data => guestFrameWf w cls 0 data
  | .dmaWr _ w cls _ addr data | .guestSyncAdd _ w cls _ addr data => guestFrameWf w cls addr data
  | .dmaRd _ w cls _ addr _ => w < 256 && cls < 256 && addr < 2 ^ 64
  | .setEndpointId eid => eid < 256
  | .getMctpVersionSupport typ | .getPldmVersion typ | .getPldmCommands typ => typ < 256
  | .getSensorReading id => id < 2 ^ 16
  | .doeChain req => reqHeadWf req.head
  | .attest kind head _ => kind < 256 && reqHeadWf head
  | _ => true

end Sys2Proof
end

