-- ==== Sys2Proof/Tests/Slice0.lean ====
section
/-!
SUPPORT. Tests: for each statement a named witness that its hypotheses can be met (`wit_…`), small tests of one command on a
small state, with their expected values worked out from the sections that the headings name (`test_…`), and ill-formed
commands (`wf_…`).
-/

set_option Elab.async false

open Sys2Proof Sys2Proof.Machine

/-! ### States of the tests -/

namespace Sys2Proof.Tests

/-- The state after a command, or the state before it where it does not go on. -/
def aft (c : Instr) (s : State) : State := match exec c s with | .next t => t | _ => s

/-- A partition of region 0 with two pages of stack 0, a path of its own, sync object 0 for its four cores, and a channel. -/
def part0 : PartCfg :=
  { PartCfg.none with
    live := true, regions := 1, debug := true,
    maps := [⟨0, 0, 2, 15⟩] }

/-- The device in service: partition 0 owns region 0, which is Awake, and context 0 of core 0 runs at the start of its program. -/
def on : State :=
  { State.reset with
    regions := vmod State.reset.regions 0 (fun g => { g with owner := some 0, power := .awake })
    parts := vset State.reset.parts 0 part0
    cores := vmod State.reset.cores 0 (fun m => { m with ctx := vmod m.ctx 0 (fun x => { x with st := .running, pc := 64 }) })
    hub := { State.reset.hub with powered := true, vaux := true, vin := true, phase := .g, ready := true }
    sec := { State.reset.sec with tops := .running } }

/-- `on` with a context changed, and with registers of core 0. -/
def onCtx (f : Ctx → Ctx) : State := modCtx on 0 0 f
def onG (l : List (Nat × W64)) : State := onCtx (fun x => l.foldl (fun y e => { y with g := vset y.g (Fin.ofNat 32 e.1) e.2 }) x)
def onCore (f : Core → Core) : State := modCore on 0 f

end Sys2Proof.Tests

/-! ### Cores: scalar and vector instructions, loads and stores (03_cores.md) -/

namespace Sys2Proof.Tests

theorem wit_issues : issues on 0 0 := ⟨by decide +kernel, by decide +kernel, by decide +kernel, by decide +kernel⟩
theorem wit_no_issue : ¬ issues on 0 1 := fun h => absurd h.1 (by decide +kernel)

theorem test_add : gOf (aft (.add 0 ⟨3, 1, 2, 0, 0, 0⟩) (onG [(1, 0xFFFFFFFFFFFFFFFF), (2, 3)])) 0 0 3 = 2 := by decide +kernel
theorem test_sub : gOf (aft (.sub 0 ⟨3, 1, 2, 0, 0, 0⟩) (onG [(1, 2), (2, 3)])) 0 0 3 = 0xFFFFFFFFFFFFFFFF := by decide +kernel
theorem test_mul : gOf (aft (.mul 0 ⟨3, 1, 2, 0, 0, 0⟩) (onG [(1, 0xFFFFFFFFFFFFFFFF), (2, 5)])) 0 0 3 = 0xFFFFFFFFFFFFFFFB := by decide +kernel
theorem test_mulhu : gOf (aft (.mulhu 0 ⟨3, 1, 2, 0, 0, 0⟩) (onG [(1, 0xFFFFFFFFFFFFFFFF), (2, 5)])) 0 0 3 = 4 := by decide +kernel
theorem test_shl : gOf (aft (.shl 0 ⟨3, 1, 2, 0, 0, 0⟩) (onG [(1, 3), (2, 65)])) 0 0 3 = 6 := by decide +kernel
theorem test_sra : gOf (aft (.sra 0 ⟨3, 1, 2, 0, 0, 0⟩) (onG [(1, 0x8000000000000000), (2, 63)])) 0 0 3 = 0xFFFFFFFFFFFFFFFF := by decide +kernel
theorem test_shr : gOf (aft (.shr 0 ⟨3, 1, 2, 0, 0, 0⟩) (onG [(1, 0x8000000000000000), (2, 63)])) 0 0 3 = 1 := by decide +kernel
theorem test_slt : gOf (aft (.slt 0 ⟨3, 1, 2, 0, 0, 0⟩) (onG [(1, 0xFFFFFFFFFFFFFFFF), (2, 0)])) 0 0 3 = 1 := by decide +kernel
theorem test_sltu : gOf (aft (.sltu 0 ⟨3, 1, 2, 0, 0, 0⟩) (onG [(1, 0xFFFFFFFFFFFFFFFF), (2, 0)])) 0 0 3 = 0 := by decide +kernel
theorem test_min_signed : gOf (aft (.minR 0 ⟨3, 1, 2, 0, 0, 0⟩) (onG [(1, 0xFFFFFFFFFFFFFFFF), (2, 0)])) 0 0 3 = 0xFFFFFFFFFFFFFFFF := by decide +kernel
theorem test_and_to_g0 : gOf (aft (.andR 0 ⟨0, 1, 1, 0, 0, 0⟩) (onG [(1, 5)])) 0 0 0 = 0 := by decide +kernel
theorem test_addi : gOf (aft (.addi 0 ⟨3, 1, 0, 0, 0xFFFFFFFF⟩) (onG [(1, 5)])) 0 0 3 = 4 := by decide +kernel
theorem test_srai : gOf (aft (.srai 0 ⟨3, 1, 0, 0, 4⟩) (onG [(1, 0xFFFFFFFFFFFFFF00)])) 0 0 3 = 0xFFFFFFFFFFFFFFF0 := by decide +kernel
theorem test_sltui : gOf (aft (.sltui 0 ⟨3, 1, 0, 0, 0xFFFFFFFF⟩) (onG [(1, 5)])) 0 0 3 = 1 := by decide +kernel
/-- An unused field that is not zero is ILLEGAL, class code 1 (R69, R372). -/
theorem test_illegal : (getCtx (aft (.add 0 ⟨3, 1, 2, 1, 0, 0⟩) on) 0 0).fltCls = 1 := by decide +kernel
theorem test_li : gOf (aft (.li 0 ⟨4, 0, 0xFFFFFFFFFFFE⟩) on) 0 0 4 = 0xFFFFFFFFFFFFFFFE := by decide +kernel
theorem test_lih : gOf (aft (.lih 0 ⟨1, 0, 0x123456789ABC⟩) (onG [(1, 0xFFFF)])) 0 0 1 = 0x123456789ABCFFFF := by decide +kernel
theorem test_tset : tGet (getCtx (aft (.tset 0 ⟨15, 1, 2, 0, 0, 0⟩) (onG [(1, 7), (2, 9)])) 0 0) 15 = 9 * 2 ^ 64 + 7 := by decide +kernel
theorem test_tget : gOf (aft (.tget 0 ⟨3, 15, 0, 0, 1, 0⟩) (onCtx (fun x => { x with t := vset x.t 15 (9 * 2 ^ 64 + 7) }))) 0 0 3 = 9 := by decide +kernel
theorem test_rdid : gOf (aft (.rdid 0 ⟨3, 0, 0, 0, 3, 0⟩) on) 0 0 3 = 4 := by decide +kernel
/-- What ScalarFrame asks: an instruction that retires. -/
theorem wit_frame : (getCtx (aft (.tget 0 ⟨3, 15, 0, 0, 1, 0⟩) on) 0 0).ret = (getCtx on 0 0).ret + 1 := by decide +kernel

theorem test_branch_taken : pcOf (aft (.beq 0 ⟨1, 1, 0, 3⟩) on) 0 0 = 88 := by decide +kernel
theorem test_branch_not_taken : pcOf (aft (.bltu 0 ⟨1, 2, 0, 0x7FFFFFFF⟩) (onG [(1, 0xFFFFFFFFFFFFFFFF), (2, 1)])) 0 0 = 72 := by decide +kernel
theorem test_branch_signed : pcOf (aft (.blt 0 ⟨1, 2, 0, 2⟩) (onG [(1, 0xFFFFFFFFFFFFFFFF), (2, 1)])) 0 0 = 80 := by decide +kernel
theorem test_bge_equal : pcOf (aft (.bge 0 ⟨1, 1, 0, 2⟩) on) 0 0 = 80 := by decide +kernel
theorem test_branch_into_header : (getCtx (aft (.bgeu 0 ⟨1, 1, 0, 0xFFFFFFFF⟩) on) 0 0).fltCls = 3 := by decide +kernel
theorem test_bne : pcOf (aft (.bne 0 ⟨1, 0, 0, 1⟩) (onG [(1, 1)])) 0 0 = 72 := by decide +kernel
theorem test_jal : gOf (aft (.jal 0 ⟨5, 0, 0, 2⟩) on) 0 0 5 = 72 ∧ pcOf (aft (.jal 0 ⟨5, 0, 0, 2⟩) on) 0 0 = 80 := by decide +kernel
theorem test_jr_misaligned : (getCtx (aft (.jr 0 ⟨1, 0, 0, 0⟩) (onG [(1, 132)])) 0 0).fltCls = 2 := by decide +kernel
theorem test_jr_last : pcOf (aft (.jr 0 ⟨1, 0, 0, 0⟩) (onG [(1, 0x3FFF8)])) 0 0 = 0x3FFF8 := by decide +kernel

/-- Bytes 8 to 15 of the operand buffer hold 1 to 8; a poisoned block follows at 64. -/
def onMem : State := onCore (fun m => { m with opbuf := ⟨(List.range 8).map (fun i => (8 + i, BitVec.ofNat 8 (i + 1))), [(1, 0xFFFFFFFFFFFFFFFFFF)]⟩ })

theorem wit_local_ok : localOk onMem 0 0 ⟨3, 0, 0, 0, 8⟩ 2 8 8 .opbuf 8 := ⟨by decide +kernel, by decide +kernel, by decide +kernel, by decide +kernel, by decide +kernel, by decide +kernel, fun _ => by decide +kernel⟩
theorem wit_local_last : localOk onMem 0 0 ⟨3, 0, 1, 0, 0x3FFFFFF8⟩ 2 8 8 .near 0x3FFFFFF8 := ⟨by decide +kernel, by decide +kernel, by decide +kernel, by decide +kernel, by decide +kernel, by decide +kernel, fun h => by cases h⟩
theorem wit_local_vector : localOk onMem 0 0 ⟨3, 0, 0, 0, 0x80⟩ 1 1024 64 .opbuf 0x80 := ⟨by decide +kernel, by decide +kernel, by decide +kernel, by decide +kernel, by decide +kernel, by decide +kernel, fun _ => by decide +kernel⟩
theorem wit_clean : cleanRange (getSpace onMem 0 .opbuf) 8 8 := by
  intro b h1 _
  have : b = 0 := by omega
  subst this; decide +kernel
theorem test_ld : gOf (aft (.ld 0 ⟨3, 0, 0, 0, 8⟩) onMem) 0 0 3 = 0x0807060504030201 := by decide +kernel
theorem test_ldw : gOf (aft (.ldw 0 ⟨3, 0, 0, 0, 12⟩) onMem) 0 0 3 = 0x08070605 := by decide +kernel
theorem test_ld_poison : decodeSyn (blkDiff (getSpace onMem 0 .opbuf) 1) = .poison ∧ (getCtx (aft (.ld 0 ⟨3, 0, 0, 0, 64⟩) onMem) 0 0).fltCls = 15 := by decide +kernel
theorem test_ld_align : (getCtx (aft (.ld 0 ⟨3, 0, 0, 0, 12⟩) onMem) 0 0).fltCls = 2 := by decide +kernel
theorem test_ld_range : (getCtx (aft (.ld 0 ⟨3, 0, 1, 0, 0x40000000⟩) onMem) 0 0).fltCls = 3 := by decide +kernel
theorem test_st_imem : (getCtx (aft (.st 0 ⟨3, 0, 2, 0, 64⟩) onMem) 0 0).fltCls = 1 := by decide +kernel
theorem test_st : (getCore (aft (.st 0 ⟨1, 0, 0, 0, 8⟩) (modCtx onMem 0 0 (fun x => { x with g := vset x.g 1 0xFF00 }))) 0).opbuf.bytes = [(9, 0xFF)] := by decide +kernel
theorem test_stw_near : (getNear (aft (.stw 0 ⟨1, 0, 1, 0, 4⟩) (onG [(1, 0xAB00000001)])) 0).mem.bytes = [(4, 1)] := by decide +kernel
theorem test_st_poison : (getCore (aft (.st 0 ⟨1, 0, 0, 0, 64⟩) (modCtx onMem 0 0 (fun x => { x with g := vset x.g 1 1 }))) 0).opbuf.diff = [(1, 0xFFFFFFFFFFFFFFFFFF)] := by decide +kernel
theorem test_vld : (vGet (getCtx (aft (.vld 0 ⟨15, 0, 1, 0, 0⟩) (modNear on 0 (fun n => { n with mem := ⟨[(1023, 0x80)], []⟩ }))) 0 0) 15).toNat = 2 ^ 8191 := by decide +kernel
theorem test_vst : (getNear (aft (.vst 0 ⟨15, 0, 1, 0, 64⟩) (onCtx (fun x => { x with v := vset x.v 15 256 }))) 0).mem.bytes = [(65, 1)] := by decide +kernel
/-- A pair of another context's slot: BUF_OWNER is class 4. -/
def onClaim : State := modPart on 0 (fun p => { p with bufs := [⟨0, 1, 0, 0, 1⟩] })
theorem test_buf_owner : bufForeign onClaim 0 0 0 8 = true ∧ (getCtx (aft (.ld 0 ⟨3, 0, 0, 0, 0⟩) onClaim) 0 0).fltCls = 4 := by decide +kernel

/-! ### Vectors -/

/-- v1 holds the 32-bit pattern in every lane, v2 another. -/
def onV (a b : Nat) : State :=
  onCtx (fun x => { x with v := vset (vset x.v 1 (BitVec.ofNat 8192 a)) 2 (BitVec.ofNat 8192 b) })
def lane0 (c : Instr) (s : State) (d : Fin 16) : Nat := (vget (getCtx (aft c s) 0 0).v d).toNat % 2 ^ 32

theorem wit_vector : issues (onV 1 2) 0 0 ∧ laneOf 0 = some .fp32 ∧ laneOf 1 = some .bf16 ∧ laneOf 2 = some .int32 :=
  ⟨⟨by decide +kernel, by decide +kernel, by decide +kernel, by decide +kernel⟩, by decide, by decide, by decide⟩
/-- 1 + 2^-24 is 1 in FP32, ties to even. -/
theorem test_vadd : lane0 (.vadd 0 ⟨3, 1, 2, 0, 0, 0⟩) (onV 0x3F800000 0x33800000) 3 = 0x3F800000 := by decide +kernel
theorem test_vsub : lane0 (.vsub 0 ⟨3, 1, 2, 0, 2, 0⟩) (onV 0 1) 3 = 0xFFFFFFFF := by decide +kernel
theorem test_vmul : lane0 (.vmul 0 ⟨3, 1, 2, 0, 0, 0⟩) (onV 0x7F000000 0x40800000) 3 = 0x7F800000 := by decide +kernel
/-- One rounding: (1 + 2^-23)^2 - (1 + 2^-22) is 2^-46. -/
theorem test_vfma : lane0 (.vfma 0 ⟨3, 1, 1, 2, 0, 0⟩) (onV 0x3F800001 0xBF800002) 3 = 0x28800000 := by decide +kernel
theorem test_vmax : lane0 (.vmax 0 ⟨3, 1, 2, 0, 0, 0⟩) (onV 0x80000000 0) 3 = 0 := by decide +kernel
theorem test_vmin : lane0 (.vmin 0 ⟨3, 1, 2, 0, 2, 0⟩) (onV 0xFFFFFFFF 1) 3 = 0xFFFFFFFF := by decide +kernel
theorem test_vshl : lane0 (.vshl 0 ⟨3, 1, 2, 0, 2, 0⟩) (onV 3 33) 3 = 6 := by decide +kernel
theorem test_vsra : lane0 (.vsra 0 ⟨3, 1, 2, 0, 2, 0⟩) (onV 0x80000000 31) 3 = 0xFFFFFFFF := by decide +kernel
theorem test_vxor : lane0 (.vxor 0 ⟨3, 1, 2, 0, 3, 0⟩) (onV 0xF0 0xFF) 3 = 0x0F := by decide +kernel
theorem test_vand : lane0 (.vand 0 ⟨3, 1, 2, 0, 0, 0⟩) (onV 0xF0 0xCC) 3 = 0xC0 := by decide +kernel
theorem test_vor : lane0 (.vor 0 ⟨3, 1, 2, 0, 1, 0⟩) (onV 0xF0 0xCC) 3 = 0xFC := by decide +kernel
theorem test_vrsum : lane0 (.vrsum 0 ⟨3, 1, 0, 0, 2, 0⟩) (onV (2 ^ 32 * 5 + 2) 0) 3 = 7 := by decide +kernel
theorem test_vrmax : lane0 (.vrmax 0 ⟨3, 1, 0, 0, 2, 0⟩) (onV (2 ^ 32 * 5 + 2) 0) 3 = 5 := by decide +kernel
theorem test_vbcast : (vget (getCtx (aft (.vbcast 0 ⟨3, 1, 0, 0, 1, 0⟩) (onG [(1, 0x10001)])) 0 0).v 3).toNat % 2 ^ 48 = 0x000100010001 := by decide +kernel
theorem test_vext : gOf (aft (.vext 0 ⟨3, 1, 2, 0, 2, 0⟩) (onV 0x80000000 0)) 0 0 3 = 0xFFFFFFFF80000000 := by decide +kernel
/-- 1.5 to INT32 rounds to 2, ties to even. -/
theorem test_vcvt : lane0 (.vcvt 0 ⟨3, 1, 0, 0, 8, 0⟩) (onV 0x3FC00000 0) 3 = 2 := by decide +kernel
theorem test_vector_illegal : (getCtx (aft (.vadd 0 ⟨3, 1, 2, 0, 3, 0⟩) on) 0 0).fltCls = 1 ∧ (getCtx (aft (.vadd 0 ⟨16, 1, 2, 0, 0, 0⟩) on) 0 0).fltCls = 1 := by decide +kernel

end Sys2Proof.Tests

/-! ### Tensor operations (03_cores.md, Table 3.11; 04_cube_array.md; 05_accumulation.md) -/

namespace Sys2Proof.Tests

/-- A tile descriptor: INT8 elements, K 32, one row, at an offset. -/
def td (base : Nat) : TReg := BitVec.ofNat 128 (32 * 2 ^ 64 + base)
/-- The context owns every tile, has descriptors in t1 and t2, and its operands are 2 and 3 with zeros behind. -/
def onT : State :=
  onCore (fun m => { m with
    imem := ⟨[(0, 0xFF)], []⟩, opbuf := ⟨[(0, 2), (64, 3)], []⟩,
    ctx := vmod m.ctx 0 (fun x => { x with t := vset (vset x.t 1 (td 0)) 2 (td 64), g := vset (vset x.g 3 0) 2 (BitVec.ofNat 64 0x2000) }) })
/-- The same with one operation in the queue. -/
def onQ (kind : TKind) : State := modCtx onT 0 0 (fun x => { x with queue := [⟨0, kind, 0, 64, none⟩] })
def fT (ta tb tc g : Nat) (anchor : BitVec 10) (mod : BitVec 16) : FieldsT := ⟨0, BitVec.ofNat 4 ta, BitVec.ofNat 4 tb, BitVec.ofNat 4 tc, BitVec.ofNat 5 g, anchor, 0, mod⟩
def queue0 (s : State) : List TKind := (getCtx s 0 0).queue.map (fun o => o.kind)

theorem wit_tensor : issues onT 0 0 ∧ canQueue onT 0 0 none ∧ (accOwn onT 0 0).getLsbD 0 = true :=
  ⟨⟨by decide +kernel, by decide +kernel, by decide +kernel, by decide +kernel⟩, ⟨by decide +kernel, by decide +kernel⟩, by decide +kernel⟩
theorem wit_forms : acczForm (fT 0 0 0 0 0x3FE 0) ∧ mmaForm onT 0 0 (fT 1 2 0 0 0 1) ∧ ownRanges onT 0 0 (mmaBytes onT 0 0 (fT 1 2 0 0 0 1)) ∧ imageForm onT 0 0 (fT 0 0 0 2 0 0) ∧
    ownRanges onT 0 0 (imageBytes onT 0 0 (fT 0 0 0 2 0 0)) := by
  unfold acczForm mmaForm imageForm ownRanges; decide +kernel
def onTE : State := modCtx onT 0 0 (fun x => { x with g := vset x.g 2 (BitVec.ofNat 64 (31 * 2 ^ 33)) })
theorem wit_epi_form : epiForm onTE 0 0 (fT 0 0 1 2 0 0) ∧ ownRanges onTE 0 0 (epiBytes onTE 0 0 (fT 0 0 1 2 0 0)) := by
  unfold epiForm ownRanges; decide +kernel
/-- The same without an image header, so that the context owns no tile. -/
def unowned (s : State) : State := modCore s 0 (fun m => { m with imem := ⟨[], []⟩ })
theorem test_accz : queue0 (aft (.accz 0 (fT 0 0 0 0 0x3FE 0)) onT) = [.accz 0 (-2)] := by decide +kernel
theorem test_mma : queue0 (aft (.mma 0 (fT 1 2 0 0 0 1)) onT) = [.mma 0 (td 0) (td 64) true none false] := by decide +kernel
theorem test_epi : queue0 (aft (.epi 0 (fT 0 0 1 2 0 0)) (modCtx onT 0 0 (fun x => { x with g := vset x.g 2 (BitVec.ofNat 64 (31 * 2 ^ 33)) }))) =
    [.epi 0 (td 0) (BitVec.ofNat 64 (31 * 2 ^ 33))] := by decide +kernel
theorem test_accrd : queue0 (aft (.accrd 0 (fT 0 0 0 2 0 0)) onT) = [.accrd 0 0x2000] := by decide +kernel
theorem test_accwr : queue0 (aft (.accwr 0 (fT 0 0 0 2 0 0)) onT) = [.accwr 0 0x2000] := by decide +kernel
theorem test_anchor_field : (getCtx (aft (.mma 0 (fT 1 2 0 0 1 0)) onT) 0 0).fltCls = 1 := by decide +kernel
/-- ACC_OWNER is class 5. -/
theorem test_acc_owner : (accOwn on 0 0).getLsbD 0 = false ∧ (getCtx (aft (.accz 0 (fT 0 0 0 0 0 0)) on) 0 0).fltCls = 5 := by decide +kernel
theorem test_queue_full : (getCtx (aft (.accz 0 (fT 0 0 0 0 0 0)) (modCtx onT 0 0 (fun x => { x with queue := List.replicate 4 ⟨0, .accz 0 0, 0, 64, none⟩ }))) 0 0).wait = .queue := by decide +kernel
theorem test_twait : (getCtx (aft (.twait 0 (fT 0 0 0 0 0 0)) (onQ (.accz 1 0))) 0 0).wait = .tensor none ∧ pcOf (aft (.twait 0 (fT 0 0 0 0 0 1)) (onQ (.accz 1 0))) 0 0 = 72 := by decide +kernel

/-- A final ATTN over one key: E4M3, D 64, one row, the default anchors. -/
def attnBlock : List Byte :=
  [0, 0, 0x22, 7, 0x08, 0, 47, 31, 0, 0xFE, 0, 0xFE, 0, 0xFE, 0, 0] ++ leBytes 4 0x3F800000 ++ leBytes 4 0x1000 ++ leBytes 4 0x2000 ++ leBytes 4 0x3000 ++
  leBytes 4 1 ++ leBytes 4 1 ++ List.replicate 24 0
def onAttn : State := modCore onT 0 (fun m => { m with opbuf := ⟨memWriteBytes [] 0x2000 attnBlock, []⟩ })
theorem clean_of (m : PMem) (a n : Nat) (h : m.diff = []) : cleanRange m a n := by
  intro b _ _; simp [blkDiff, h, tget]
theorem wit_attn : attnForm onAttn 0 0 (fT 0 0 0 2 0 0) 0x2000 attnBlock ∧ (∀ a ∈ atTiles attnBlock, (accOwn onAttn 0 0).getLsbD a = true) ∧ pairClaimed onAttn 0 (atWork attnBlock) = false ∧
    ownRanges onAttn 0 0 (attnBytes onAttn 0 0x2000 attnBlock) :=
  ⟨⟨by decide +kernel, by decide +kernel, by decide +kernel, by decide +kernel, by decide +kernel, by decide +kernel, by decide +kernel, by decide +kernel, by decide +kernel, by decide +kernel,
    clean_of _ _ _ (by decide +kernel), by decide +kernel, by decide +kernel, fun _ _ => clean_of _ _ _ (by decide +kernel), by decide +kernel⟩, by decide +kernel, by decide +kernel, by unfold ownRanges; decide +kernel⟩
theorem test_attn : queue0 (aft (.attn 0 (fT 0 0 0 2 0 0)) onAttn) = [.attn 0x2000 [0, 1] attnBlock] := by decide +kernel

theorem wit_grant : nextGrant (onQ (.accz 0 (-512))) 0 0 = some ⟨0, .accz 0 (-512), 0, 64, none⟩ := by decide +kernel
theorem test_accz_execute : (getTile (aft (.acczExecute 0) (onQ (.accz 0 (-512)))) 0 0).anchor = none ∧ queue0 (aft (.acczExecute 0) (onQ (.accz 0 5))) = [] := by decide +kernel
theorem test_pass_start : ((getCore (aft (.mmaPassStart 0) (onQ (.mma 0 (td 0) (td 64) false none false))) 0).passes.map (fun p => (p.aVals.map (fun r => r.take 2), p.kElems, p.rowsA))) =
    [([[.fin 2 0, .fin 0 0]], 32, 1)] := by decide +kernel
theorem test_place : placeOne (-4) ⟨0, .finite, false, false, 0⟩ (.fin (-1) (-5)) (.fin 1 0) = ⟨-1, .finite, true, false, (placeOne (-4) ⟨0, .finite, false, false, 0⟩ (.fin (-1) (-5)) (.fin 1 0)).dropRes⟩ := by decide +kernel
theorem wit_default_anchor : leastPlace 2 = some (-18 - (leastPlace 2).getD 0) ∧ (leastPlace 2).isSome = true := by decide +kernel
theorem wit_shape : passShape ⟨⟨0, .accz 0 0, 0, 64, none⟩, 0, 1, 1, 1, [[.fin 2 0]], [[.fin 3 0]], false, 0, false, 0, 0, 0⟩ := by
  refine ⟨by decide, by decide, by decide, by decide, ?_⟩
  intro r h
  simp at h
  rcases h with rfl | rfl <;> simp
/-- A pass of one element: 2 × 3. -/
def onPass (replay : Bool) : State :=
  modCore onT 0 (fun m => { m with passes := [⟨⟨0, .mma 0 (td 0) (td 64) false none false, 0, 64, none⟩, 0, 1, 1, 1, [[.fin 2 0]], [[.fin 3 0]], false, 0, replay, 0, 0, 0⟩] })
theorem wit_pass : coreClocked (onPass false) 0 = true ∧ (getTile (onPass false) 0 0).anchor = some 0 := by decide +kernel
end Sys2Proof.Tests

namespace Sys2Proof.Tests
/-- The same pass with its checks off. -/
def pass1 : Pass := ⟨⟨0, .mma 0 (td 0) (td 64) true none false, 0, 64, none⟩, 0, 1, 1, 1, [[.fin 2 0]], [[.fin 3 0]], true, 0, false, 0, 0, 0⟩
theorem test_pass_clean : (passTry AccTile.reset pass1 [] []).2.2.1 = 0 := by decide +kernel
theorem test_pass_parity : (passTry AccTile.reset pass1 [] [(3, 4)]).2.2.1 ≠ 0 := by decide +kernel
theorem test_pass_element : passEl 0 xelZero [.fin 2 0] [.fin 3 0] 0 = (⟨6, .finite⟩, (passEl 0 xelZero [.fin 2 0] [.fin 3 0] 0).2) := by decide +kernel
/-- A first failure makes a replay due; a failed replay sets SUSPECT and takes ABFT_PERSIST, class 14. -/
theorem test_pass_fails : ((getCore (aft (.passCommit 0 [] [(3, 4)]) (modCore on 0 (fun m => { m with passes := [pass1] }))) 0).replays.map (fun p => p.replay)) = [true] := by decide +kernel
theorem test_pass_persists : (getCtx (aft (.passCommit 0 [] [(3, 4)]) (modCore on 0 (fun m => { m with passes := [{ pass1 with replay := true }] }))) 0 0).fltCls = 14 := by decide +kernel
theorem test_replay : ((getCore (aft (.replayStart 0) (modCore onT 0 (fun m => { m with replays := [pass1] }))) 0).passes.map (fun p => (p.acc, (p.aVals.headD []).take 1, (p.bVals.headD []).take 1))) = [(0, [.fin 2 0], [.fin 3 0])] := by decide +kernel
/-- An EPI of a 1 × 32 tile to INT8 with its parameters at 0. -/
def epiOp : TOp := ⟨0, .epi 0 (td 0x100) (BitVec.ofNat 64 (31 * 2 ^ 33)), 0, 64, none⟩
def onEpi : State := modCtx (onCore (fun m => { m with epi := none })) 0 0 (fun x => { x with queue := [epiOp] })
theorem wit_epi : nextGrant onEpi 0 1 = some epiOp ∧ (∀ v ∈ epiVectors (tileDesc (td 0x100)) (epiCtl (BitVec.ofNat 64 (31 * 2 ^ 33))) (memReadBytes [] 0 56), v.1 % 4 = 0 ∧ v.1 + v.2 ≤ 0x600000 ∧ bufForeign onEpi 0 0 v.1 v.2 = false) := by decide +kernel
theorem test_epi_start : ((getCore (aft (.epiStart 0) onEpi) 0).epi.map (fun e => (e.acc, e.released))) = some (0, false) := by decide +kernel
def onEpi2 (r : Bool) : State := onCore (fun m => { m with epi := some ⟨epiOp, 0, td 0x100, BitVec.ofNat 64 (31 * 2 ^ 33), AccTile.reset, List.replicate 56 0, r⟩ })
theorem test_epi_release : ((getCore (aft (.epiTileRelease 0) (onEpi2 false)) 0).epi.map (fun e => e.released)) = some true := by decide +kernel
theorem test_epi_complete : (getCore (aft (.epiComplete 0) (onEpi2 true)) 0).epi = none ∧ (getCore (aft (.epiComplete 0) (onEpi2 true)) 0).epiRegs.ops = 1 := by decide +kernel
end Sys2Proof.Tests

namespace Sys2Proof.Tests

theorem test_or : gOf (aft (.orR 0 ⟨3, 1, 2, 0, 0, 0⟩) (onG [(1, 12), (2, 10)])) 0 0 3 = 14 := by decide +kernel
theorem test_xor : gOf (aft (.xor 0 ⟨3, 1, 2, 0, 0, 0⟩) (onG [(1, 12), (2, 10)])) 0 0 3 = 6 := by decide +kernel
theorem test_max_signed : gOf (aft (.maxR 0 ⟨3, 1, 2, 0, 0, 0⟩) (onG [(1, 0xFFFFFFFFFFFFFFFF), (2, 0)])) 0 0 3 = 0 := by decide +kernel
/-- The immediates of the logical operations are sign-extended to 64 bits, as every I-form immediate (03_cores.md, Table 3.7). -/
theorem test_andi : gOf (aft (.andi 0 ⟨3, 1, 0, 0, 0xFFFFFFF0⟩) (onG [(1, 0xFF000000000000FF)])) 0 0 3 = 0xFF000000000000F0 := by decide +kernel
theorem test_ori : gOf (aft (.ori 0 ⟨3, 1, 0, 0, 0x80000000⟩) (onG [(1, 1)])) 0 0 3 = 0xFFFFFFFF80000001 := by decide +kernel
theorem test_xori : gOf (aft (.xori 0 ⟨3, 1, 0, 0, 0xFFFFFFFF⟩) (onG [(1, 0xF0)])) 0 0 3 = 0xFFFFFFFFFFFFFF0F := by decide +kernel
theorem test_shli : gOf (aft (.shli 0 ⟨3, 1, 0, 0, 63⟩) (onG [(1, 3)])) 0 0 3 = 0x8000000000000000 := by decide +kernel
theorem test_shri : gOf (aft (.shri 0 ⟨3, 1, 0, 0, 63⟩) (onG [(1, 0x8000000000000000)])) 0 0 3 = 1 := by decide +kernel
theorem test_slti : gOf (aft (.slti 0 ⟨3, 1, 0, 0, 0xFFFFFFFF⟩) (onG [(1, 0xFFFFFFFFFFFFFFFE)])) 0 0 3 = 1 := by decide +kernel

theorem read_part (m : Mem) (a n o l : Nat) (h : o + l ≤ n) : ((memReadBytes m a n).drop o).take l = memReadBytes m (a + o) l := by
  apply List.ext_getElem?
  intro i
  unfold memReadBytes
  rw [List.getElem?_take]
  split
  · next hi => rw [List.getElem?_drop, List.getElem?_map, List.getElem?_map, List.getElem?_range (by omega), List.getElem?_range hi]; simp only [Option.map_some]; rw [Nat.add_assoc]
  · next hi => rw [List.getElem?_eq_none (by simp; omega)]
/-- The image at 0x2000 holds zeros, hence the anchor 0. -/
theorem wit_accwr : nextGrant (onQ (.accwr 0 0x2000)) 0 0 = some ⟨0, .accwr 0 0x2000, 0, 64, none⟩ ∧ cleanRange (getCore (onQ (.accwr 0 0x2000)) 0).opbuf 0x2000 66624 ∧
    imageAnchor (memReadBytes (getCore (onQ (.accwr 0 0x2000)) 0).opbuf.bytes 0x2000 66624) = some (some 0) := by
  refine ⟨by decide +kernel, fun b _ _ => ?_, ?_⟩
  · rw [show (getCore (onQ (.accwr 0 0x2000)) 0).opbuf = ⟨[(0, 2), (64, 3)], []⟩ by decide +kernel]; rfl
  · unfold imageAnchor; rw [read_part _ _ _ _ _ (by omega)]; decide +kernel
theorem wit_accrd : nextGrant (onQ (.accrd 0 0x2000)) 0 0 = some ⟨0, .accrd 0 0x2000, 0, 64, none⟩ ∧ (getTile (onQ (.accrd 0 0x2000)) 0 0).els.length = 4096 := by
  refine ⟨by decide +kernel, ?_⟩
  show (getTile on 0 0).els.length = 4096
  rw [show getTile on 0 0 = AccTile.reset from rfl]; exact List.length_replicate ..
theorem test_accrd_execute : queue0 (aft (.accrdExecute 0) (onQ (.accwr 0 0x2000))) = [.accwr 0 0x2000] := by decide +kernel
theorem test_accwr_execute : queue0 (aft (.accwrExecute 0) (onQ (.accrd 0 0x2000))) = [.accrd 0 0x2000] := by decide +kernel
end Sys2Proof.Tests

/-! ### Streams at the core (06_streams.md) -/

namespace Sys2Proof.Tests

/-- An empty table of check-bit differences is clean everywhere. -/
theorem clean_of_nil {m : PMem} (h : m.diff = []) (a n : Nat) : cleanRange m a n := by
  intro b _ _; cases m; subst h; rfl

/-- A stream descriptor (Table 6.1) with no DONE_SYNC and TAG 0. -/
def sd (remote loc flags shape : Nat) (dims : List (Nat × Nat)) : BitVec 512 :=
  BitVec.ofNat 512 (remote + loc * 2 ^ 64 + 0xFFFFFFFF * 2 ^ 96 + flags * 2 ^ 144 + shape * 2 ^ 152 +
    (List.range 5).foldl (fun a i => a + ((dims.getD i (1, 0)).1 + (dims.getD i (1, 0)).2 * 2 ^ 32) * 2 ^ (192 + 64 * i)) 0)
/-- 128 bytes of the near slice at 64 to the operand buffer at 256: class NEAR, 64 elements of 2 bytes. -/
def dIn : BitVec 512 := sd 64 256 2 1 [(64, 2)]
/-- The same, outward. -/
def dOut : BitVec 512 := sd 64 256 10 1 [(64, 2)]
/-- Buffered, outward, two phases of 64 bytes. -/
def dBuf : BitVec 512 := sd 4096 0 42 0 [(64, 1), (1, 0), (1, 0), (1, 0), (2, 64)]
def onSlot (d : BitVec 512) : State :=
  modPart (onCtx (fun x => { x with slots := vset x.slots 5 d, g := vset x.g 1 64 })) 0 (fun p => { p with
    bufs := [⟨0, 0, 5, 1, 1⟩], syncs := [⟨0, 0, 8, 0xFFFF⟩], hostWins := [⟨2, 1, 0, 0⟩] })
/-- A transfer in slot 5 of the descriptor. -/
def xf (d : BitVec 512) (st : XState) : Xfer :=
  ⟨9, 0, 5, descOf d, none, st, 0, 0, 0, none, 64, true, 0, 0, 1, true, .busy, .empty, none, [], 0, none, false, none⟩
def onX (x : Xfer) (reqs : List Req) : State := modCore (onSlot dIn) 0 (fun m => { m with xfers := [x], reqs := reqs })
def fS (a b c : Nat) (tag imm : BitVec 16) : FieldsS := ⟨BitVec.ofNat 5 a, BitVec.ofNat 5 b, BitVec.ofNat 5 c, 0, tag, imm⟩
def xfer5 (s : State) : Option (XState × Nat × Nat × Nat) := (currentXfer s 0 0 5).map (fun x => (x.state, x.code, x.cause, x.issued))
def fltc (s : State) : BitVec 8 := (getCtx s 0 0).fltCls

theorem test_desc : (descOf dIn).remote = 64 ∧ (descOf dIn).rclass = 2 ∧ (descOf dIn).esize = 1 ∧ totalBytes (descOf dIn) = 128 ∧ (descOf dBuf).buffered = true ∧
    phaseBytes (descOf dBuf) = 64 ∧ (descOf (sd 0 0 0 0 [(1, 0xFFFFFFFE)])).dims[0] = ⟨1, -2⟩ := by decide +kernel
theorem wit_strm_set : issues (onSlot dIn) 0 0 ∧ (gOf (onSlot dIn) 0 0 1).toNat = 64 ∧ bufForeign (onSlot dIn) 0 0 64 64 = false ∧ cleanRange (getCore (onSlot dIn) 0).opbuf 64 64 :=
  ⟨⟨by decide +kernel, by decide +kernel, by decide +kernel, by decide +kernel⟩, by decide +kernel, by decide +kernel, clean_of_nil (by decide +kernel) _ _⟩
theorem test_strm_set : vget (getCtx (aft (.strmSet 0 (fS 1 0 0 0 7)) (modCore (onSlot dIn) 0 (fun m => { m with opbuf := ⟨[(64, 5), (127, 6)], []⟩ }))) 0 0).slots 7 = BitVec.ofNat 512 (5 + 6 * 2 ^ 504) := by decide +kernel
theorem wit_strm_start : goFault (onSlot dIn) 0 0 5 (descOf dIn) = none ∧ currentXfer (onSlot dIn) 0 0 5 = none ∧ openTask (onSlot dIn) 0 0 = none ∧
    badCauses (onSlot dIn) 0 0 5 (descOf dIn) false = [] ∧ badCauses (onSlot dIn) 0 0 5 (descOf dIn) true = [] ∧ strmGoBlocked (onSlot dIn) 0 0 5 = false ∧
    goFault (onSlot dBuf) 0 0 5 (descOf dBuf) = none ∧ badCauses (onSlot dBuf) 0 0 5 (descOf dBuf) false = [] := by decide +kernel
theorem wit_strm_bad : goFault (onSlot (sd 0 0 5 1 [])) 0 0 5 (descOf (sd 0 0 5 1 [])) = none ∧ badCauses (onSlot (sd 0 0 5 1 [])) 0 0 5 (descOf (sd 0 0 5 1 [])) false = [0x11] := by decide +kernel
/-- The context's task has been aborted with record 7. -/
def onAborted (d : BitVec 512) : State := modCore (onSlot d) 0 (fun m => { m with tasks := [⟨3, 0, 0, 1, 0, true, 0, false, [], some 7⟩], ctx := vmod m.ctx 0 (fun x => { x with task := some 3 }) })
theorem wit_strm_aborted : (openTask (onAborted dIn) 0 0).bind (fun t => t.aborted) = some 7 ∧ goFault (onAborted dIn) 0 0 5 (descOf dIn) = none := by decide +kernel
theorem test_strm_go : xfer5 (aft (.strmGo 0 (fS 0 0 0 0 5)) (onSlot dIn)) = some (.run, 0, 0, 0) ∧ xfer5 (aft (.strmGo 0 (fS 0 0 0 0 5)) (onSlot dBuf)) = some (.hold, 0, 0, 0) := by decide +kernel
theorem test_strm_go_bad : xfer5 (aft (.strmGo 0 (fS 0 0 0 0 5)) (onSlot (sd 0 0 5 1 []))) = some (.ended, 4, 0x11, 0) ∧ xfer5 (aft (.strmGo 0 (fS 0 0 0 0 5)) (onAborted dIn)) = some (.ended, 2, 9, 0) := by decide +kernel
theorem test_strm_fill : xfer5 (aft (.strmFill 0 (fS 0 1 0 0 5)) (onSlot dBuf)) = some (.ended, 4, 0x17, 0) ∧ xfer5 (aft (.strmFill 0 (fS 0 1 0 0 5)) (onSlot dIn)) = some (.run, 0, 0, 0) := by decide +kernel
theorem wit_strm_wait : (currentXfer (onX (xf dIn .run) []) 0 0 5).map xferActive = some true ∧ (currentXfer (onX (xf dIn .ended) []) 0 0 5).map xferActive = some false := by decide +kernel
theorem test_strm_wait : (getCtx (aft (.strmWait 0 (fS 0 0 4 0 5)) (onX (xf dIn .run) [])) 0 0).wait = .strmWait 5 ∧
    gOf (aft (.strmWait 0 (fS 0 0 4 0 5)) (onX { xf dIn .ended with code := 2, cause := 9, record := 7 } [])) 0 0 4 = 0x00000007_0009_0112 := by decide +kernel
theorem wit_strm_swap : (currentXfer (onX (xf dBuf .hold) []) 0 0 5).map (fun x => (x.desc.buffered, x.state, decide (x.phase < (vget x.desc.dims 4).count))) = some (true, .hold, true) := by decide +kernel
theorem test_strm_swap : ((currentXfer (aft (.strmSwap 0 (fS 0 0 0 0 5)) (onX (xf dBuf .hold) [])) 0 0 5).map (fun x => (x.rbit, x.phase, x.side0, x.side1))) = some (false, 2, .busy, .busy) := by decide +kernel
theorem wit_strm_cancel : findXfer (onX (xf dIn .run) []) 0 9 = some (xf dIn .run) ∧ currentXfer (onX (xf dIn .run) []) 0 0 5 = some (xf dIn .run) := by decide +kernel
theorem test_strm_cancel : xfer5 (aft (.strmCancel 0 (fS 0 0 0 0 5)) (onX (xf dIn .run) [])) = some (.ended, 3, 0, 0) ∧
    xfer5 (aft (.strmCancel 0 (fS 0 0 0 0 5)) (onX (xf dIn .run) [⟨1, 9, 0, 2, 64, [], 0, 0⟩])) = some (.stopping, 3, 0, 0) := by decide +kernel
theorem wit_stream_requests : coreClocked (onX (xf dIn .run) []) 0 = true ∧ nextXfer (onX (xf dIn .run) []) 0 = some (xf dIn .run) ∧ (descOf dIn).rclass = 2 ∧ (descOf dIn).out = false ∧
    nextRemote (xf dIn .run) = 64 ∧ cleanRange (getSpace (onX (xf dIn .run) []) 0 .near) 0 2048 ∧ nextXfer (onSlot dIn) 0 = none :=
  ⟨by decide +kernel, by decide +kernel, by decide +kernel, by decide +kernel, by decide +kernel, clean_of_nil (by decide +kernel) _ _, by decide +kernel⟩
theorem test_stream_request_issue : ((getCore (aft (.streamRequestIssue 0 false) (onX (xf dIn .run) [])) 0).reqs.map (fun r => (r.xfer, r.start, r.len, r.raddr))) = [(9, 0, 128, 64)] := by decide +kernel
theorem wit_stream_returns : (getCore (onX (xf dOut .run) [⟨1, 9, 0, 128, 64, [], 0, 0⟩]) 0).reqs[0]? = some ⟨1, 9, 0, 128, 64, [], 0, 0⟩ ∧ findXfer (onX (xf dOut .run) []) 0 9 = some (xf dOut .run) ∧
    (descOf dOut).out = true ∧ elemSize (descOf dIn) = 2 := by decide +kernel
theorem test_return_out : ((findXfer (aft (.streamRequestReturn 0 0 [] false) (onX { xf dOut .run with issued := 128 } [⟨1, 9, 0, 64, 64, [], 0, 0⟩])) 0 9).map (fun x => x.landed)) = some 64 := by decide +kernel
theorem test_return_in : (getCore (aft (.streamRequestReturn 0 0 [] false) (onX { xf dIn .run with issued := 128 } [⟨1, 9, 4, 2, 68, [3, 4], 0, 0⟩])) 0).opbuf.bytes = [(260, 3), (261, 4)] := by decide +kernel
theorem wit_deadline : currentXfer (onX { xf dIn .run with dlDue := some 0 } []) 0 0 (5 : Fin 8).val = some { xf dIn .run with dlDue := some 0 } := by decide +kernel
theorem test_deadline_miss : (getCtx (aft (.deadlineMiss 0 0 5) (onX { xf dIn .run with dlDue := some 0 } [])) 0 0).dlMiss = 1 ∧ (getCtx (aft (.deadlineMiss 0 0 5) (onX (xf dIn .run) [])) 0 0).dlMiss = 0 := by decide +kernel

/-! ### Commands to stacks and trees; sync, messages, tasks, system (03_cores.md) -/

/-- A FILL of 64 elements at virtual address 0, two rows, without a sync object. -/
def fillBlock : List Byte := [3, 0, 4, 0, 0, 0] ++ leBytes 2 2 ++ leBytes 4 0xFFFFFFFF ++ leBytes 4 256 ++ leBytes 4 64 ++ leBytes 4 0 ++ List.replicate 40 0
/-- An ALL_REDUCE of 16 FP32 sums on tree 1, without a sync object, from the operand buffer at 0 to 4096. -/
def colBlk : List Byte := [1, 1, 1, 0] ++ leBytes 4 0xFFFFFFFF ++ leBytes 4 16 ++ List.replicate 12 0 ++ leBytes 8 0 ++ leBytes 8 4096 ++ List.replicate 24 0
def onBlock (b : List Byte) : State :=
  modPart (modCore (onSlot dIn) 0 (fun m => { m with opbuf := ⟨memWriteBytes [] 64 b, []⟩ })) 0 (fun p => { p with trees := [⟨1, 1, 0, []⟩] })
theorem wit_spr_issue : sprIllegal fillBlock = false ∧ sprSync fillBlock = 0xFFFFFFFF ∧ memReadBytes (getCore (onBlock fillBlock) 0).opbuf.bytes 64 64 = fillBlock ∧
    issueTask (onBlock fillBlock) 0 0 = some none ∧ partOfCore (onBlock fillBlock) 0 = some 0 ∧ mapOf (getPart (onBlock fillBlock) 0) (sprOva fillBlock) = some ⟨0, 0, 2, 15⟩ ∧ outRoom (onBlock fillBlock) 0 64 = true := by decide +kernel
theorem test_spr_issue : (aft (.sprIssue 0 (fS 1 0 0 0 0)) (onBlock fillBlock)).mesh.map (fun g => (g.dst, g.cls)) = [(.stack 0, 2)] ∧
    (getCtx (aft (.sprFence 0 (fS 0 0 0 0 0)) (onCtx (fun x => { x with sprOut := 1 }))) 0 0).wait = .sprFence := by decide +kernel
theorem wit_col_issue : colIllegal colBlk 4 (some ⟨1, 1, 0, []⟩) = false ∧ treeRec (onBlock colBlk) 0 1 = some ⟨1, 1, 0, []⟩ ∧ colSource colBlk ⟨1, 1, 0, []⟩ 0 = 64 ∧ colResult colBlk 1 4 = 64 ∧
    colRoom (onBlock colBlk) 0 1 = true ∧ bufForeign (onBlock colBlk) 0 0 4096 64 = false ∧ memReadBytes (getCore (onBlock colBlk) 0).opbuf.bytes 64 64 = colBlk := by decide +kernel
theorem test_col_issue : (aft (.colIssue 0 (fS 1 0 0 0 0)) (onBlock colBlk)).mesh.map (fun g => (g.dst, g.cls)) = [(.red 0, 2)] ∧ (getCore (aft (.colIssue 0 (fS 1 0 0 0 0)) (onBlock colBlk)) 0).colSeq = [(1, 1)] := by decide +kernel

/-- g1 holds the handle of object 7, g2 a count, g3 a context ID. -/
def onH (h n d : Nat) : State := modCtx (onSlot dIn) 0 0 (fun x => { x with g := vset (vset (vset x.g 1 (BitVec.ofNat 64 h)) 2 (BitVec.ofNat 64 n)) 3 (BitVec.ofNat 64 d) })
theorem wit_sync : handleObj (coreMask (onH 7 1 0) 0) 7 = some (0, 7) ∧ handleForeign (onH 7 1 0) 0 7 = false ∧ handleObj (coreMask (onH 7 1 0) 0) 0x10000 = none ∧
    handleForeign (onH 8 1 0) 0 8 = true ∧ regionCount (coreMask (onH 7 1 0) 0) = 1 := by decide +kernel
theorem test_sync_add : (aft (.syncAdd 0 (fS 1 2 0 0 5)) (onH 7 0xFFFFFFFF 0)).mesh = [⟨.ctx 0 0, .sync 0, 1, .syncAdd 7 4⟩] ∧ fltc (aft (.syncAdd 0 (fS 1 2 0 0 5)) (onH 8 1 0)) = 6 := by decide +kernel
theorem test_sync_arm : (aft (.syncArm 0 (fS 1 2 3 0x55 0)) (onH 7 4 15)).mesh = [⟨.ctx 0 0, .sync 0, 1, .syncArm 7 4 (some ⟨0, 0, 15, 0x55⟩)⟩] ∧ fltc (aft (.syncArm 0 (fS 1 2 3 0 0)) (onH 7 4 16)) = 7 := by decide +kernel
theorem test_sync_abort : (aft (.syncAbort 0 (fS 1 0 0 0 0)) (onH 7 1 0)).mesh = [⟨.ctx 0 0, .sync 0, 1, .syncAbort 7 0xFFFFFFFF⟩] := by decide +kernel
theorem test_sync_cancel : (aft (.syncCancel 0 (fS 1 0 0 0 0)) (onH 7 1 0)).mesh = [⟨.ctx 0 0, .sync 0, 1, .syncCancel 7⟩] := by decide +kernel
theorem wit_sync_wait : (getCtx (onH 7 1 0) 0 0).syncOut = none ∧ syncQuiet (onH 7 1 0) 0 0 0 = true ∧ (getObj (onH 7 1 0) 0 7).state = .done ∧ (getObj (onH 7 1 0) 0 7).count.toNat < 1 := by decide +kernel
theorem wit_sync_wait_ended : (getObj (setObj (onH 7 1 0) 0 7 ⟨0, 1, .aborted, 5, none⟩) 0 7).state = .aborted ∧ (getObj (setObj (onH 7 1 0) 0 7 ⟨0, 1, .cancelled, 0, none⟩) 0 7).state = .cancelled := by decide +kernel
theorem test_sync_wait : gOf (aft (.syncWait 0 (fS 1 2 4 0 0)) (setObj (onH 7 1 0) 0 7 ⟨0, 1, .aborted, 5, none⟩)) 0 0 4 = 0x500000001 ∧
    (getCtx (aft (.syncWait 0 (fS 1 2 4 0 0)) (onH 7 1 0)) 0 0).wait = .sync := by decide +kernel
theorem wit_messages : sendIdOk (onH 0 64 128) 0 0 = true ∧ recvIdOk (onH 0 64 128) 0 0x407 2 = true ∧ bufForeign (onH 0 64 128) 0 0 64 4096 = false ∧ outUsed (onH 0 64 128) 0 = 0 ∧
    (chanRec (onH 0 64 128) 0 2).isSome = true := by decide +kernel
theorem test_send : (getCore (aft (.send 0 (fS 1 2 3 9 1)) (onH 5 64 128)) 0).outbox.map (fun o => (o.dst, o.tag, o.cls, o.payload.length)) = [(5, 9, 1, 128)] ∧ fltc (aft (.send 0 (fS 1 2 3 9 1)) (onH 5 64 100)) = 8 := by decide +kernel
/-- The inbox of context 0 holds a message of 64 bytes from context 5 with tag 9 in class REQ. -/
def onMsg : State := modCore (onH 5 128 0) 0 (fun m => { m with inbox := vset m.inbox 0 [⟨5, 9, 0, List.replicate 64 7, []⟩] })
theorem wit_recv : (vget (getCore onMsg 0).inbox 0).find? (fun m => decide (m.sender = (gOf onMsg 0 0 1).setWidth 16 ∧ m.tag = 9 ∧ m.cls = 0)) = some ⟨5, 9, 0, List.replicate 64 7, []⟩ := by decide +kernel
theorem test_recv : gOf (aft (.recv 0 (fS 1 2 4 9 0)) onMsg) 0 0 4 = 64 ∧ memRead (getCore (aft (.recv 0 (fS 1 2 4 9 0)) onMsg) 0).opbuf.bytes 191 = 7 ∧
    (getCtx (aft (.recv 0 (fS 1 2 4 8 0)) onMsg) 0 0).wait = .recv 5 8 0 := by decide +kernel
theorem test_hpost : (getCh (aft (.hpost 0 (fS 0 2 0 0 2)) (modCtx onMsg 0 0 (fun x => { x with dlMiss := 3 }))) 0 2).ring.held = [⟨0, List.replicate 44 0, 3, true⟩] := by decide +kernel
theorem test_yield : (getCtx (aft (.yield 0 (fS 0 0 0 0 0)) on) 0 0).st = .ready ∧ (getCtx (aft (.halt 0 (fS 0 0 0 0 0)) on) 0 0).st = .halted := by decide +kernel
theorem test_fence : (getCtx (aft (.fence 0 (fS 0 0 0 0 0)) (onX (xf dIn .run) [])) 0 0).wait = .fence ∧ pcOf (aft (.fence 0 (fS 0 0 0 0 0)) on) 0 0 = 72 := by decide +kernel
theorem test_brk : (getCtx (aft (.brk 0 (fS 0 0 0 0 0)) on) 0 0).st = .halted ∧ fltc (aft (.brk 0 (fS 0 0 0 0 0)) (modPart on 0 (fun p => { p with debug := false }))) = 11 := by decide +kernel
theorem test_fexit : pcOf (aft (.fexit 0 (fS 1 0 0 0 0)) (onCtx (fun x => { x with handler := true, g := vset x.g 1 128 }))) 0 0 = 128 ∧ fltc (aft (.fexit 0 (fS 1 0 0 0 0)) on) = 1 := by decide +kernel
theorem wit_unlisted : 6 * 2 ^ 61 ≤ (BitVec.ofNat 64 (6 * 2 ^ 61)).toNat ∧ (5 : BitVec 64).toNat < 2 ^ 52 ∧ opListed (BitVec.ofNat 64 (0x1FF * 2 ^ 52)) = false := by decide +kernel
theorem test_nop : pcOf (aft (.nop 0 0) on) 0 0 = 72 ∧ fltc (aft (.nop 0 5) on) = 1 := by decide +kernel
theorem wit_ctx_start : (getCtx (onG [(1, 0x3FFF8)]) 0 3).st = .halted ∧ (getCtx (onG [(1, 0x3FFF8)]) 0 0).st ≠ .halted ∧ (gOf (onG [(1, 0x3FFF8)]) 0 0 1).toNat = 0x3FFF8 := by decide +kernel
theorem test_ctx_start : pcOf (aft (.ctxStart 0 (fS 1 0 0 0 3)) (onG [(1, 0x3FFF8)])) 0 3 = 0x3FFF8 ∧ (getCtx (aft (.ctxStart 0 (fS 1 0 0 0 3)) (onG [(1, 64)])) 0 3).st = .ready ∧
    fltc (aft (.ctxStart 0 (fS 1 0 0 0 0)) (onG [(1, 64)])) = 10 ∧ fltc (aft (.ctxStart 0 (fS 1 0 0 0 3)) (onG [(1, 56)])) = 3 := by decide +kernel
/-- Context 0 has an open task on object 1, with `n` operations outstanding. -/
def onTask (n : Nat) : State := modCore (onH 7 1 0) 0 (fun m => { m with nextId := 9, tasks := [⟨3, 0, 0, 1, 0, true, n, false, [], none⟩], ctx := vmod m.ctx 0 (fun x => { x with task := some 3 }) })
theorem wit_tasks : taskBlocked (onH 7 1 0) 0 0 = false ∧ (getCtx (onH 7 1 0) 0 0).task = none ∧ (getCtx (onTask 1) 0 0).task = some 3 ∧ findTask (onTask 1) 0 3 = some ⟨3, 0, 0, 1, 0, true, 1, false, [], none⟩ ∧
    taskBlocked (modCore (onH 7 1 0) 0 (fun m => { m with tasks := [⟨3, 0, 0, 1, 0, false, 1, false, [], none⟩] })) 0 0 = true := by decide +kernel
theorem test_task_begin : (getCtx (aft (.taskBegin 0 (fS 1 0 0 6 0)) (onH 7 1 0)) 0 0).task = some 0 ∧ fltc (aft (.taskBegin 0 (fS 1 0 0 6 0)) (onTask 0)) = 9 := by decide +kernel
theorem test_task_end : (aft (.taskEnd 0 (fS 0 0 0 0 0)) (onTask 0)).mesh = [⟨.ctx 0 0, .sync 0, 1, .taskAdd 1 3⟩] ∧ (aft (.taskEnd 0 (fS 0 0 0 0 0)) (onTask 1)).mesh = [] := by decide +kernel

/-- Context 0 has just given the slot up; contexts 2 and 0 are READY. -/
def onIdle : State := onCore (fun m => { m with lastSlot := 0, ctx := vmod (vmod m.ctx 0 (fun x => { x with st := .ready })) 2 (fun x => { x with st := .ready }) })
theorem wit_rotation : runningCtx onIdle 0 = none ∧ onIdle.flt.run = none ∧ ctxShown onIdle 0 2 = .ready ∧ ctxShown onIdle 0 1 ≠ .ready ∧ coreClocked onIdle 0 = true := by decide +kernel
theorem test_context_switch : runningCtx (aft (.contextSwitch 0) onIdle) 0 = some 2 := by decide +kernel
/-- Context 0 has a fault handler at 256. -/
def onHandler : State := onCore (fun m => { m with imem := ⟨[(9, 1)], []⟩ })
theorem wit_fault : faultEntry onHandler 0 0 = 256 ∧ (getCtx onHandler 0 0).handler = false ∧ (getCtx onHandler 0 0).task = none ∧ faultEntry on 0 0 = 0 := by decide +kernel
theorem test_fault : pcOf (aft (.nop 0 5) onHandler) 0 0 = 256 ∧ gOf (aft (.nop 0 5) onHandler) 0 0 31 = 64 ∧ gOf (aft (.nop 0 5) onHandler) 0 0 29 = 1 ∧ (getCtx (aft (.nop 0 5) on) 0 0).st = .faulted := by decide +kernel
theorem wit_fault_aborts : findTask (onTask 1) 0 3 = some ⟨3, 0, 0, 1, 0, true, 1, false, [], none⟩ ∧ (getCore (onTask 1) 0).xfers = [] := by decide +kernel
theorem test_fault_aborts : (aft (.nop 0 5) (onTask 1)).mesh = [⟨.ctx 0 0, .sync 0, 1, .syncAbort 1 0⟩] := by decide +kernel
theorem wit_header_pc : (pcOf (onCtx (fun x => { x with pc := 56 })) 0 0).toNat < 64 ∧ resetCovers (onCtx (fun x => { x with pc := 56 })) 0 0 = false := by decide +kernel
theorem test_no_issue : pcOf (aft (.add 1 ⟨3, 1, 2, 0, 0, 0⟩) on) 1 0 = 0 ∧ fltc (aft (.nop 0 0) (onCtx (fun x => { x with pc := 56 }))) = 3 := by decide +kernel
/-- What ProgramsLeaveDevice asks: a queue of program instructions whose step goes on. -/
theorem wit_programs : (∀ i ∈ [Instr.nop 0 0], (programCore i).isSome = true) ∧ (aft (.nop 0 0) on).flt.head = 0 := by decide +kernel
end Sys2Proof.Tests

/-! ### Sync units, messages and reductions on the mesh (10_mesh_sync_reduction.md) -/

namespace Sys2Proof.Tests

/-- Region 0 with one frame in the mesh. -/
def onMesh (s : State) (f : Frame) : State := { s with mesh := [f] }
def fSync (b : FBody) : Frame := ⟨.ctx 0 0, .sync 0, 1, b⟩
def fCtx (c : Nat) (b : FBody) : Frame := ⟨.ctx 0 1, .ctx 0 0, c, b⟩
/-- Object 7 is armed at 5 with count 3 and a notify slot. -/
def onArmed : State := setObj (onH 7 1 0) 0 7 ⟨3, 5, .armed, 0, some ⟨0, 2, 4, 0x99⟩⟩
def obj7 (s : State) : W32 × SState := ((getObj s 0 7).count, (getObj s 0 7).state)

theorem wit_sync_unit : arrives (onMesh onArmed (fSync (.syncAdd 7 2))) 0 = some (fSync (.syncAdd 7 2)) ∧ absorbed (onMesh onArmed (fSync (.syncAdd 7 2))) (.sync 0) = false ∧
    dieDown onArmed (tileOfRegion 0) = false ∧ (syncTable (getObj onArmed 0 7) (.syncAdd 7 2)).map (fun x => (x.1.state, x.2)) = some (.done, true) ∧
    (syncTable (getObj onArmed 0 7) (.syncCancel 7)).isSome = true := by decide +kernel
theorem test_sync_op_add : obj7 (aft (.syncOpAdd 0) (onMesh onArmed (fSync (.syncAdd 7 1)))) = (4, .armed) ∧
    (aft (.syncOpAdd 0) (onMesh onArmed (fSync (.syncAdd 7 2)))).mesh = [⟨.sync 0, .ctx 0 2, 1, .notice 7 0 0 4 0x99⟩] := by decide +kernel
theorem test_sync_op_arm : obj7 (aft (.syncOpArm 0) (onMesh onArmed (fSync (.syncArm 7 0 none)))) = (0, .done) ∧ obj7 (aft (.syncOpArm 0) (onMesh onArmed (fSync (.syncArm 7 9 none)))) = (0, .armed) := by decide +kernel
theorem test_sync_op_abort : obj7 (aft (.syncOpAbort 0) (onMesh onArmed (fSync (.syncAbort 7 6)))) = (3, .aborted) ∧ (getObj (aft (.syncOpAbort 0) (onMesh onArmed (fSync (.syncAbort 7 6)))) 0 7).record = 6 := by decide +kernel
theorem test_sync_op_cancel : obj7 (aft (.syncOpCancel 0) (onMesh onArmed (fSync (.syncCancel 7)))) = (3, .cancelled) := by decide +kernel
theorem wit_sync_waits : syncOutcome (getObj onArmed 0 7) 3 = some 0 ∧ syncOutcome (getObj onArmed 0 7) 4 = none ∧
    (⟨0, 1, 7, 4, 2⟩ : SyncWait) ∈ (getRegion (modRegion onArmed 0 (fun g => { g with waits := [⟨0, 1, 7, 4, 2⟩] })) 0).waits := by decide +kernel
theorem test_sync_op_wait : (aft (.syncOpWait 0) (onMesh onArmed (fSync (.syncWait 7 0 1 3 2)))).mesh = [⟨.sync 0, .ctx 0 1, 1, .syncReply 0 2⟩] ∧
    (getRegion (aft (.syncOpWait 0) (onMesh onArmed (fSync (.syncWait 7 0 1 4 2)))) 0).waits = [⟨0, 1, 7, 4, 2⟩] := by decide +kernel
/-- Context 0 waits for the reply numbered 4. -/
def onWaiting : State := onCtx (fun x => { x with st := .blocked, wait := .sync, syncSeq := 4 })
theorem wit_sync_reply : arrives (onMesh onWaiting ⟨.sync 0, .ctx 0 0, 1, .syncReply 2 4⟩) 0 = some ⟨.sync 0, .ctx 0 0, 1, .syncReply 2 4⟩ ∧ absorbed onWaiting (.ctx 0 0) = false ∧
    (getCtx onWaiting 0 0).st = .blocked := by decide +kernel
theorem test_sync_reply : ctxShown (aft (.syncReply 0) (onMesh onWaiting ⟨.sync 0, .ctx 0 0, 1, .syncReply 2 4⟩)) 0 0 = .ready ∧
    ctxShown (aft (.syncReply 0) (onMesh onWaiting ⟨.sync 0, .ctx 0 0, 1, .syncReply 2 3⟩)) 0 0 = .blocked := by decide +kernel
theorem test_notice : ((getCore (aft (.syncReply 0) (onMesh on ⟨.sync 0, .ctx 0 0, 1, .notice 7 1 6 4 0x99⟩)) 0).outbox.map (fun m => (m.dst, m.tag, m.cls, m.payload.take 12))) =
    [(4, 0x99, 1, [7, 0, 0, 0, 1, 0, 0, 0, 6, 0, 0, 0])] := by decide +kernel

/-- The CTRL part of context 0's quarter has less than 4 KiB left. -/
def onFull : State := modCore on 0 (fun m => { m with inbox := vset m.inbox 0 (List.replicate 2 ⟨1, 9, 2, List.replicate 2560 0, []⟩) })
def fMsg (n : Nat) : Frame := fCtx 2 (.msg 3 1 0 9 true (List.replicate n 7))
theorem wit_msg : arrives (onMesh on (fMsg 64)) 0 = some (fMsg 64) ∧ findMark (getCore on 0) 0 1 (inboxClass 2) = none ∧ 64 ≤ quarterFree on 0 0 (inboxClass 2) ∧
    quarterFree onFull 0 0 (inboxClass 0) < 4096 ∧ arrives (onMesh onFull (fCtx 0 (.msg 3 1 0 9 true (List.replicate 4096 7)))) 0 = some (fCtx 0 (.msg 3 1 0 9 true (List.replicate 4096 7))) := by decide +kernel
theorem test_msg_arrive : (vget (getCore (aft (.msgArrive 0) (onMesh on (fMsg 64))) 0).inbox 0).map (fun m => (m.sender, m.tag, m.cls)) = [(1, 9, 0)] ∧
    (aft (.msgArrive 0) (onMesh on (fMsg 64))).mesh = [⟨.ctx 0 0, .ctx 0 1, 0, .ack 3⟩] := by decide +kernel
theorem test_msg_refused : (aft (.msgArrive 0) (onMesh onFull (fCtx 0 (.msg 3 1 0 9 true (List.replicate 4096 7))))).mesh = [⟨.ctx 0 0, .ctx 0 1, 0, .refuse 3 2 true⟩] := by decide +kernel
/-- Context 0 has sent message 3 to context 1 in class REQ. -/
def onSent : State := onCore (fun m => { m with outbox := [⟨3, 0, 1, 9, 0, [1], none⟩, ⟨4, 0, 1, 9, 0, [2], none⟩] })
theorem wit_sender : arrives (onMesh onSent (fCtx 0 (.refuse 3 0 false))) 0 = some (fCtx 0 (.refuse 3 0 false)) ∧ (getCore onSent 0).outbox.find? (fun m => m.id = 3) = some ⟨3, 0, 1, 9, 0, [1], none⟩ ∧
    partOfCore onSent 0 = some 0 ∧ idOfEnd onSent 0 (.ctx 0 1) = some 1 ∧ endOfId onSent 0 1 = some (.ctx 0 1) := by decide +kernel
theorem test_ack : (getCore (aft (.ack 0) (onMesh onSent (fCtx 0 (.ack 3)))) 0).outbox.map (fun m => m.id) = [4] := by decide +kernel
theorem test_error : (getCore (aft (.error 0) (onMesh onSent (fCtx 0 (.error 4)))) 0).outbox.map (fun m => m.id) = [3] := by decide +kernel
theorem test_refuse : pairStopped (getCore (aft (.refuse 0) (onMesh onSent (fCtx 0 (.refuse 3 0 false)))) 0) 0 1 0 = true := by decide +kernel
theorem test_resume : (aft (.resume 0) (onMesh onSent (fCtx 0 (.resume 0)))).mesh.map (fun f => f.body) = [.msg 3 0 1 9 true [1], .msg 4 0 1 9 true [2]] := by decide +kernel
/-- Context 0 refuses contexts 2 and 1. -/
def onRefusing : State := onCore (fun m => { m with marks := [⟨0, 2, 0, true, false⟩, ⟨0, 1, 0, true, false⟩] })
theorem wit_resume : nextResume onRefusing 0 0 = some ⟨0, 1, 0, true, false⟩ ∧ endOfId onRefusing 0 1 = some (.ctx 0 1) ∧ nextResume on 0 0 = none := by decide +kernel
theorem test_resume_send : (aft (.resumeSend 0 0) onRefusing).mesh = [⟨.ctx 0 0, .ctx 0 1, 0, .resume 0⟩] := by decide +kernel
theorem test_misroute : (aft (.meshMisroute (.frame 0) 2) (onMesh on (fMsg 64))).mesh = [⟨.ctx 0 0, .ctx 0 1, 0, .error 3⟩] ∧ (aft (.meshMisroute (.frame 0) 2) (onMesh on (fMsg 64))).flt.waiting.map (fun r => (r.cls, r.die)) = [(0x3A, 2)] := by decide +kernel

/-- INT32 sums: two chunks of the pair of cores 0 and 1, at the node of region 0. -/
def redBlk : List Byte := [1, 3, 1, 0] ++ leBytes 4 0xFFFFFFFF ++ leBytes 4 2 ++ List.replicate 52 0
def rc (stage idx : Nat) (d : List Byte) : RedChunk := ⟨1, 4, true, redBlk, idx, 0, 0, 0, stage, idx, false, d⟩
def onRed : State := { on with red := vmod on.red 0 (fun n => { n with held := [rc 0 1 [5, 0, 0, 0, 255, 255, 255, 255], rc 0 0 [7, 0, 0, 0, 1, 0, 0, 0]] }) }
theorem wit_node : (getRed onRed 0).held[1]? = some (rc 0 0 [7, 0, 0, 0, 1, 0, 0, 0]) ∧ partOfRegion onRed 0 = some 0 ∧ partResetting onRed 0 = false := by decide +kernel
theorem test_combine : (getRed (aft (.redCombine 0 1) onRed) 0).held.map (fun c => (c.stage, c.idx, c.data)) = [(1, 0, [12, 0, 0, 0, 0, 0, 0, 0])] := by decide +kernel
/-- Core 0 waits for 8 bytes of its result, which go to 4096. -/
def redBlkD : List Byte := [1, 3, 1, 0] ++ leBytes 4 0xFFFFFFFF ++ leBytes 4 2 ++ List.replicate 12 0 ++ leBytes 8 0 ++ leBytes 8 4096 ++ List.replicate 24 0
def onCol (left : Nat) : State :=
  onMesh (modPart (modCore on 0 (fun m => { m with cols := [⟨0, 1, 4, redBlkD, 64, none, left, false⟩] })) 0 (fun p => { p with trees := [⟨1, 1, 0, []⟩] }))
    ⟨.red 0, .ctx 0 0, 3, .red ⟨1, 4, false, redBlkD, 0, 0, 0, 0, 0, 0, false, [1, 2, 3, 4, 5, 6, 7, 8]⟩⟩
theorem wit_result : (arrives (onCol 8) 0).isSome = true ∧ absorbed (onCol 8) (.ctx 0 0) = false ∧ (resultPlace redBlkD 1 4 (rc 0 0 [])).2 = 8 ∧ (getCore (onCol 9) 0).cols.length = 1 := by decide +kernel
theorem test_red_arrive : (getCore (aft (.redChunkArrive 0) (onCol 8)) 0).cols = [] ∧ memRead (getCore (aft (.redChunkArrive 0) (onCol 8)) 0).opbuf.bytes 4103 = 8 := by decide +kernel

/-! ### Near slices (07_near_slices.md) -/

theorem wit_code : blkDiff (getNear on 0).mem 5 = 0 := by decide +kernel
/-- A data bit with its own row parity bit is taken for a wrong column bit. -/
theorem test_code : decodeSyn (blkDiff (pmUpset (pmUpset PMem.empty 0 63) 0 512) 0) = .checkFixed ∧ decodeSyn (blkDiff (pmUpset PMem.empty 0 511) 0) = .dataFixed ∧
    decodeSyn poisonDiff = .poison ∧ decodeSyn 0 = .clean := by decide +kernel
theorem test_check_bits : checkBits (1 :: List.replicate 63 0) = 0x101 ∧ checkBits (List.replicate 63 0 ++ [0x80]) = 0x800000000000000080 := by decide +kernel
theorem wit_scrub : (getRegion on (regionOf 0)).power = .awake ∧ blkDiff (getNear on 0).mem (getNear on 0).scrub = 0 ∧ (getRegion State.reset (regionOf 0)).power = .asleep := by decide +kernel
theorem test_scrub : (getRegion (aft (.scrubRead 0 [3]) on) 0).cetWait.map (fun e => (e.kind, e.loc, e.addr)) = [(0, 0, 0)] ∧ (getCore (aft (.scrubRead 0 [3]) on) 0).nsl.corr = 1 := by decide +kernel
theorem test_refresh : (getNear (aft (.nslRefresh 0 63) (modNear on 0 (fun n => { n with refresh := [(63, 8256)] }))) 0).refresh = [(63, 0)] := by decide +kernel
def ce (n : Nat) : CetEntry := { CetEntry.reset with valid := true, count := n, addr := 9 }
def ev9 : CetEv := ⟨0, 0, 9, 1, 0, 0, 0⟩
def onCet (n : Nat) : State := modRegion on 0 (fun g => { g with cet := vset g.cet 3 (ce n), cetWait := [ev9] })
theorem wit_cet : ∀ j : Fin 16, j ≠ 3 → ¬((vget (getRegion (onCet 2) 0).cet j).valid = true ∧ (vget (getRegion (onCet 2) 0).cet j).kind = 0 ∧ (vget (getRegion (onCet 2) 0).cet j).loc = 0 ∧
    (vget (getRegion (onCet 2) 0).cet j).addr = 9) := by decide +kernel
theorem wit_cet_old : (vget (vset (getRegion (onCet 2) 0).cet 3 { ce 2 with age := 2 ^ 20 }) 3).age = 2 ^ 20 ∧ (ce 2).lasting = false := by decide +kernel
theorem wit_cet_event : (cetUpdate (getRegion (onCet 2) 0).cet ev9).map (fun x => x.2) = some (some 3) ∧ (cetUpdate (getRegion (onCet 1) 0).cet ev9).map (fun x => x.2) = some none ∧
    (cetUpdate (.replicate 16 { ce 3 with lasting := true, action := 1, addr := 0 }) ev9).isNone = true ∧ freeSpare (getNear (onCet 2) 0) (bankOfBlock 9) = some 0 := by decide +kernel
theorem wit_cet_no_spare : freeSpare (getNear (modNear (onCet 2) 0 (fun n => { n with used := (List.range 64).map (fun i => bankOfBlock 9 * 64 + i) })) 0) (bankOfBlock 9) = none := by decide +kernel
theorem test_cet : (vget (getRegion (aft (.cetEvent 0 []) (onCet 2)) 0).cet 3).lasting = true ∧ (vget (getRegion (aft (.cetEvent 0 []) (onCet 2)) 0).cet 3).action = 2 ∧
    (vget (getRegion (aft (.cetEvent 0 []) (onCet 1)) 0).cet 3).count = 2 := by decide +kernel
def onCopy : State := modCore (modNear on 0 (fun n => { n with copies := [⟨3, 2, 5, 1, true⟩, ⟨4, 2, 6, 2, false⟩] })) 0 (fun m => { m with copies := [⟨1, 7, 0⟩] })
theorem wit_repairs : (getNear onCopy 0).copies[0]? = some ⟨3, 2, 5, 1, true⟩ ∧ (getNear onCopy 0).copies[1]? = some ⟨4, 2, 6, 2, false⟩ ∧ (getCore onCopy 0).copies[0]? = some ⟨1, 7, 0⟩ := by decide +kernel
theorem test_repair : tget 0 (getNear (aft (.nslRowRepairDone 0 0) onCopy) 0).moved (2 * 8192 + 5) = 1 := by decide +kernel
theorem test_retire : (getCore (aft (.sramRowRetireDone 0 0) onCopy) 0).retired = [⟨1, 7, 0⟩] := by decide +kernel
/-- Region 2 is not owned; its slice is awake, and the test registers of core 4 hold a word. -/
def onTest : State := modCore (modRegion on 2 (fun g => { g with power := .awake })) 4 (fun m => { m with nsl := { m.nsl with tdata := vset m.nsl.tdata 15 0xAB000000, tchk := vset m.nsl.tchk 0 1 } })
theorem wit_test_mode : partOfCore onTest 4 = none ∧ partOfCore onTest 0 ≠ none ∧ (getCore onTest 4).nsl.done = true ∧ (getRegion onTest (regionOf 4)).power = .awake := by decide +kernel
theorem test_write_raw : memRead (getNear (aft (.nslWriteRaw 4 3 15 31) onTest) 4).mem.bytes ((2 ^ 24 + 2047) * 64 + 63) = 0xAB ∧ (getCore (aft (.nslWriteRaw 0 3 15 31) onTest) 0).nsl.outcome = 7 := by decide +kernel
theorem test_read_raw : vget (getCore (aft (.nslReadRaw 4 3 15 31) (aft (.nslWriteRaw 4 3 15 31) onTest)) 4).nsl.tchk 0 = 1 := by decide +kernel
theorem test_read_checked : (getCore (aft (.nslReadChecked 4 0 0 0) onTest) 4).nsl.outcome = 0 := by decide +kernel
end Sys2Proof.Tests

/-! ### Stacks, Sprouts and KV pages (08_stack_memory_sprouts.md, 09_attention.md) -/

namespace Sys2Proof.Tests

/-- Stack `n` out of self-refresh, changed. -/
def onStack (n : Nat) (f : Stack → Stack) : State := modStack on n (fun t => f { t with selfRef := false })
/-- A unit of 4 bytes of request 1 of core 0 at an address of stack 0. -/
def su (a : Nat) (w : Option (List Byte)) : StackUnit := ⟨.stream 0 1 0, some 0, a, 4, w⟩
def onUnit (u : StackUnit) : State := modCore (onStack 0 (fun t => { t with units := [u], mem := ⟨[(64, 9)], []⟩ })) 0 (fun m => { m with reqs := [⟨1, 9, 0, 4, 64, [0, 0, 0, 0], 1, 0⟩] })
/-- The first page of the partition is a pool page. -/
def pooled (s : State) : State := modPart s 0 (fun p => { p with maps := [⟨0, 0, 2, 15⟩] })
theorem wit_grant_stack : (grantNext (onUnit (su 64 none)) 0).map (fun x => x.2) = some (0, 1) ∧ writeAllowed (onUnit (su 64 none)) 64 = false ∧
    writeAllowed (modPart (onUnit (su 64 none)) 0 (fun p => { p with maps := [⟨0, 0, 2, 7⟩] })) 64 = true ∧ bufFind (getStack (onUnit (su 64 none)) 0) 0 = none ∧
    (getStack State.reset 0).selfRef = true := by decide +kernel
theorem wit_grant_clean : ∀ b, blkDiff (getStack (onUnit (su 64 none)) 0).mem b = 0 := by intro b; rfl
def req0 (s : State) : List (List Byte × Nat × Nat) := (getCore s 0).reqs.map (fun r => (r.data, r.waits, r.err))
theorem test_grant_read : req0 (aft (.stackUnitGrant 0) (onUnit (su 64 none))) = [([9, 0, 0, 0], 0, 0)] := by decide +kernel
theorem test_grant_write : req0 (aft (.stackUnitGrant 0) (onUnit (su 64 (some [1, 2, 3, 4])))) = [([0, 0, 0, 0], 0, 2)] ∧
    (getStack (aft (.stackUnitGrant 0) (modPart (onUnit (su 66 (some [1, 2, 3, 4]))) 0 (fun p => { p with maps := [⟨0, 0, 2, 7⟩] }))) 0).mem.bytes = [(64, 9), (66, 1), (67, 2), (68, 3), (69, 4)] := by decide +kernel

/-- A command in progress has an output block where a unit reads (R201). -/
def onBoth (w : Option (List Byte)) : State := modStack (modPart (onUnit (su 64 w)) 0 (fun p => { p with maps := [⟨0, 0, 2, 7⟩] })) 0 (fun t => { t with sprRun := some ⟨⟨4, 0, 0, 0, [], 0, none, none⟩, [(64, List.replicate 64 7)], [], none, true⟩ })
theorem wit_land : (sprAt (getStack (onBoth none) 0) 0 512).length = 1 ∧ sprMayWrite (onBoth none) 0 = true ∧ (grantNext (onBoth none) 0).isSome = true := by decide +kernel
theorem test_land : ∃ b : Bool, (getStack (sprLand (onBoth none) 0 0 512) 0).mem.bytes.head? = (if b then some (64, 7) else some (64, 9)) ∧
    (getStack (sprLand (onBoth none) 0 0 512) 0).sprRun.map (fun r => r.out.length) = some (if b then 0 else 1) := by
  have h : sprAt (getStack (onBoth none) 0) 0 512 = [(64, List.replicate 64 7)] := by decide +kernel
  have g : sprMayWrite (onBoth none) 0 = true := by decide +kernel
  refine ⟨(Config.freeWord (onBoth none).freeCtr).getLsbD 1, ?_⟩
  simp only [sprLand, h, g, List.isEmpty_cons, Bool.not_true, Bool.or_false, List.filter_cons, List.filter_nil, show (64 / 64 - 0 / 64) % 64 = 1 from rfl]
  generalize (Config.freeWord (onBoth none).freeCtr).getLsbD 1 = b
  cases b <;> decide +kernel
theorem wit_stack_scrub : (getStack (onStack 1 id) (1 : Fin 8).val).selfRef = false ∧ blkDiff (getStack (onStack 1 id) 1).mem (stackBlock 3 (vget (getStack (onStack 1 id) 1).scrub 3)) = 0 := by decide +kernel
theorem test_stack_scrub : (getStack (aft (.stackScrubRead 1 3 [583]) (onStack 1 id)) 1).cetWait.map (fun e => e.addr) = [96] ∧ vget (getStack (aft (.stackScrubRead 1 3 []) (onStack 1 id)) 1).scrub 3 = 1 := by decide +kernel
def evS : CetEv := ⟨0, 0, 96, 1, 0, 0, 0⟩
def onSCet (n used : Nat) : State := onStack 1 (fun t => { t with cetWait := [evS], cet := vset t.cet 2 { CetEntry.reset with valid := true, count := n, addr := 96 }, pprUsed := [(192, used)] })
theorem wit_stack_cet : (cetUpdate (getStack (onSCet 2 0) 1).cet evS).map (fun x => x.2) = some (some 2) ∧ (cetUpdate (getStack (onSCet 1 0) 1).cet evS).map (fun x => x.2) = some none ∧ stackBank 96 = 192 ∧
    tget 0 (getStack (onSCet 2 2) 1).pprUsed 192 = 2 := by decide +kernel
theorem test_stack_cet : (vget (getStack (aft (.stackCetEvent 1) (onSCet 2 1)) 1).cet 2).action = 2 ∧ (vget (getStack (aft (.stackCetEvent 1) (onSCet 2 1)) 1).cet 2).spare = 1 ∧
    (aft (.stackCetEvent 1) (onSCet 2 2)).flt.waiting.map (fun r => r.cls) = [0x37] := by decide +kernel
def onPpr : State := onStack 1 (fun t => { t with copies := [⟨2, 192, 0, 1, true⟩] })
theorem wit_ppr : (getStack onPpr 1).copies[0]? = some ⟨2, 192, 0, 1, true⟩ := by decide +kernel
theorem test_ppr : (getStack (aft (.stackPprDone 1 0) onPpr) 1).repaired = [(192, 0)] ∧ (vget (getStack (aft (.stackPprDone 1 0) onPpr) 1).cet 2).action = 3 := by decide +kernel
theorem test_stack_refresh : (getStack (aft (.stackRefresh 1 2 3) (onStack 1 (fun t => { t with refresh := [(131, 16383)] }))) 1).refresh = [(131, 0)] := by decide +kernel
theorem wit_tg : stackMapped (onStack 1 id) 1 = false ∧ (getStack (onStack 1 id) 1).sprQ = [] ∧ (getStack (onStack 1 id) 1).tg.run = none ∧ stackMapped on 0 = true ∧ cfgBusy on = false := by decide +kernel
theorem wit_tg_run : (getStack (aft (.tgMarch 1 5) (onStack 1 id)) 1).tg.run = some (4, (5 : Fin 16).val, 0, 0, 16383) := by decide +kernel
theorem test_tg_write : (getStack (aft (.tgWrite 1 7) (onStack 1 id)) 1).tg.refused = true ∧ (getStack (aft (.tgWrite 1 6) (onStack 1 id)) 1).tg.run = some (1, 6, 0, 0, 16383) := by decide +kernel
theorem test_tg_read : (getStack (aft (.tgRead 1 0) (onStack 1 id)) 1).tg.run = some (2, 0, 0, 0, 16383) := by decide +kernel
theorem test_tg_write_read : (getStack (aft (.tgWriteRead 0 0) on) 0).tg.refused = true := by decide +kernel
theorem test_tg_march : (tgChannel 3 [(5, List.replicate 64 0x55)] PMem.empty).errs = 0 ∧ (tgChannel 2 [(5, List.replicate 64 0x55)] PMem.empty).errs = 1 := by decide +kernel
theorem test_tg_done : (getStack (aft (.tgDone 1) (aft (.tgMarch 1 5) (onStack 1 id))) 1).tg.done = true := by decide +kernel

def cmdFrame (b : List Byte) : Frame := ⟨.ctx 0 0, .stack 0, 2, .command b 4 64 none⟩
def sc (b : List Byte) (th : Option ThinArgs) : SprCmd := ⟨4, 0, 0, 0, b, 64, none, th⟩
theorem wit_spr_arrive : arrives (onMesh (onStack 0 id) (cmdFrame fillBlock)) 0 = some (cmdFrame fillBlock) ∧ dieDown (onStack 0 id) (dieStack 0) = false ∧ (getStack (onStack 0 id) 0).sprQ.length < 64 ∧
    64 ≤ (getStack (onStack 0 (fun t => { t with sprQ := List.replicate 64 (sc fillBlock none) })) 0).sprQ.length ∧ dieDown (modFlt on (fun f => { f with severed := 0x100 })) (dieStack 0) = true ∧
    (arrives (onMesh (modFlt on (fun f => { f with severed := 0x100 })) (cmdFrame fillBlock)) 0).isSome = true ∧
    (arrives (onMesh (modFlt on (fun f => { f with severed := 1 })) { cmdFrame fillBlock with src := .ctx 64 0 }) 0).isSome = true := by decide +kernel
theorem test_spr_arrive : (getStack (aft (.sproutCommandArrive 0) (onMesh (onStack 0 id) (cmdFrame fillBlock))) 0).sprQ = [sc fillBlock none] ∧
    (aft (.sproutCommandArrive 0) (onMesh (modFlt on (fun f => { f with severed := 0x100 })) (cmdFrame fillBlock))).mesh.map (fun f => f.body) = [.cmdError 4 64 none] := by decide +kernel
def onCmd (b : List Byte) (th : Option ThinArgs) : State := onStack 0 (fun t => { t with sprQ := [sc b th] })
/-- A GEMV of 1 × 32 INT8 elements: W at 4096, x at 8192, float output at 12288, anchor −512. -/
def gemvBlock (op an : Nat) : List Byte :=
  [BitVec.ofNat 8 op, 0x00, 4, 0] ++ leBytes 2 an ++ leBytes 2 1 ++ leBytes 4 0xFFFFFFFF ++ leBytes 4 64 ++ leBytes 4 32 ++ leBytes 4 0 ++
  leBytes 8 4096 ++ leBytes 8 0 ++ leBytes 8 8192 ++ leBytes 8 12288 ++ leBytes 8 16384
def thinBlk (op : Nat) : List Byte := [BitVec.ofNat 8 op, 0x00, 0, 0] ++ leBytes 2 0 ++ leBytes 2 32 ++ leBytes 4 0xFFFFFFFF ++ leBytes 4 64 ++ leBytes 4 32 ++ leBytes 4 0 ++ List.replicate 40 0
def runOf (s : State) : Option (List (Nat × List Byte) × List Int × Option Nat) := (getStack s 0).sprRun.map (fun r => (r.out, r.sums.map (fun x => x.sum), r.fault))
theorem wit_spr_run : (sprNext (onCmd fillBlock none) 0).map (fun x => x.1) = some (sc fillBlock none) ∧ sprOp fillBlock = 3 ∧
    rangesCause (getPart (onCmd fillBlock none) 0) 0 (sprWrites fillBlock) = none ∧ rangesCause (getPart on 0) 0 [⟨0x400000, 1, 5⟩] = some 1 ∧ rangesCause (getPart on 0) 1 [⟨0, 1, 5⟩] = some 1 := by decide +kernel
theorem test_fill : (runOf (aft (.fill 0 none) (onCmd fillBlock none))).map (fun r => (r.1.map (fun e => (e.1, e.2.length)), r.2.2)) = some ((List.range 64).map (fun i => (64 * i, 64)), none) := by decide +kernel
theorem wit_gemv : sprIllegal (gemvBlock 1 0xFE00) = false ∧ (sprNext (onCmd (gemvBlock 1 0xFE00) none) 0).isSome = true ∧
    rangesCause (getPart on 0) 0 (sprReads (gemvBlock 1 0xFE00) ++ sprWrites (gemvBlock 1 0xFE00)) = none := by decide +kernel
theorem test_gemv : (runOf (aft (.gemv 0 none) (modStack (onCmd (gemvBlock 1 0xFE00) none) 0 (fun t => { t with mem := ⟨[(4096, 2), (8192, 3)], []⟩ })))).map (fun r => (r.1.map (fun e => (e.1, e.2.take 4)), r.2.2)) =
    some ([(12288, [0, 0, 0xC0, 0x40])], none) := by decide +kernel
theorem test_gemv_parity : runOf (aft (.gemv 0 (some (4, true))) (onCmd (gemvBlock 1 0xFE00) none)) = some ([], [], some 7) := by decide +kernel
/-- GEMV_ACC of a vector whose ANCHOR is out of range. -/
theorem test_gemv_acc : (runOf (aft (.gemvAcc 0 none) (modStack (onCmd (gemvBlock 2 0) none) 0 (fun t => { t with mem := ⟨[(16384 + 128, 255), (16384 + 129, 127)], []⟩ })))).map (fun r => r.2.2.isSome) = some true := by decide +kernel
theorem test_qk_thin : runOf (aft (.qkThin 0 none) (modStack (onCmd (thinBlk 0x10) (some ⟨2 :: List.replicate 31 0, [(0, 0, 2)]⟩)) 0 (fun t => { t with mem := ⟨[(0, 3), (64, 4)], []⟩ }))) =
    some ([], [6, 8], none) := by decide +kernel
theorem test_pv_thin : (runOf (aft (.pvThin 0 none) (modStack (onCmd (thinBlk 0x11) (some ⟨[2, 3], [(0, 0, 2)]⟩)) 0 (fun t => { t with mem := ⟨[(16384, 5), (16448, 7)], []⟩ })))).map (fun r => (r.2.1.take 2, r.2.2)) =
    some ([31, 0], none) := by decide +kernel
def onDone (f : Option Nat) (th : Option ThinArgs) : State :=
  modCtx (onStack 0 (fun t => { t with sprRun := some ⟨sc (gemvBlock 1 0xFE00) th, [(12288, [1, 2, 3, 4])], [], f, false⟩ })) 0 0 (fun x => { x with sprOut := 3 })
theorem wit_spr_complete : (getStack (onDone none none) 0).sprRun.isSome = true ∧ writeAllowed (modPart (onDone none none) 0 (fun p => { p with maps := [⟨0, 0, 2, 7⟩] })) 12288 = true := by decide +kernel
theorem test_spr_complete : (getStack (aft (.sproutCommandComplete 0) (modPart (onDone none none) 0 (fun p => { p with maps := [⟨0, 0, 2, 7⟩] }))) 0).mem.bytes = [(12288, 1), (12289, 2), (12290, 3), (12291, 4)] ∧
    (getCtx (aft (.sproutCommandComplete 0) (modPart (onDone none none) 0 (fun p => { p with maps := [⟨0, 0, 2, 7⟩] }))) 0 0).sprOut = 2 ∧
    (aft (.sproutCommandComplete 0) (onDone (some 4) none)).flt.waiting.length = 1 := by decide +kernel
theorem wit_fence : sprOutstanding (getStack on 1) = [] ∧ sprOutstanding (getStack (onCmd fillBlock none) 0) ≠ [] ∧ (getPart on 0).live = true ∧ (∀ n : Fin 8, ∀ c ∈ sprOutstanding (vget on.stks n), c.part ≠ 0) := by decide +kernel
theorem test_hfence : (getStack (aft (.sprHfence 1) on) 1).evHfence = true ∧ (getStack (aft (.sprHfence 0) (onCmd fillBlock none)) 0).hfence = some [512] := by decide +kernel
theorem test_pfence : (getPst (aft (.partSprfence 0) on) 0).evFence = true ∧ (getPst (aft (.partSprfence 0) (onCmd fillBlock none)) 0).fence = true := by decide +kernel

/-! KV pages. -/

def kvr (es : List (BitVec 64 × BitVec 64)) (c : Option (Nat × Nat)) : KvReq := ⟨0, 2, 5, es, 0, c, none, 0, false, [], []⟩
def onKv (r : KvReq) (pages : List (Nat × KvPage)) : State := modKv (onSlot dIn) (fun k => { k with reqs := [r], pages := pages })
def kv1 (s : State) : Nat × Nat := ((kvPage s 0 0x8000).refs, kvState (kvPage s 0 0x8000))
theorem wit_kv : kvFront (onKv (kvr [(0x8001, 0)] none) []) 0 = some (kvr [(0x8001, 0)] none) ∧ kvEntry (kvr [(0x8001, 0)] none) = some (0x8001, 0) ∧ kvOp (0x8001, 0) = 1 ∧ kvMalformed (0x8001, 0) = false ∧
    inPool (onSlot dIn) 0 0x8000 = true ∧ inPool (onSlot dIn) 0 0x400000 = false ∧ devRoom (onSlot dIn) 0 2 = true := by decide +kernel
theorem test_alloc : kv1 (aft (.alloc 0) (onKv (kvr [(0x8001, 0), (1, 0)] none) [])) = (1, 1) ∧
    (getCh (aft (.alloc 0) (onKv (kvr [(0x8001, 0)] none) [(1, ⟨1, 0, false⟩)])) 0 2).ring.held.map (fun e => (e.kind, e.body.take 7)) = [(2, [5, 0, 0, 0, 0, 0, 2])] := by decide +kernel
theorem test_share : kv1 (aft (.share 0) (onKv (kvr [(0x8002, 0)] none) [(1, ⟨1, 0, false⟩)])) = (2, 2) ∧ (aft (.share 0) (onKv (kvr [(0x8002, 0)] none) [(1, ⟨65535, 0, false⟩)])).kvp.evRefused = true := by decide +kernel
theorem test_kvp_release : kv1 (aft (.kvpRelease 0) (onKv (kvr [(0x8003, 0)] none) [(1, ⟨1, 2, false⟩)])) = (0, 1) := by decide +kernel
theorem wit_cow : kvOp (0x8004, 0x10000) = 4 ∧ kvDst (0x8004, 0x10000) = 0x10000 ∧ kvMalformed (0x8004, 0x10000) = false := by decide +kernel
theorem test_cow : kv1 (aft (.cow 0) (onKv (kvr [(0x8004, 0x10000)] none) [(1, ⟨2, 0, false⟩)])) = (2, 3) ∧ (aft (.cow 0) (onKv (kvr [(0x8004, 0x8000)] none) [(1, ⟨2, 0, false⟩)])).kvp.evRefused = true := by decide +kernel
def onCopying : State := onKv (kvr [(0x8004, 0x10000)] (some (0x8000, 0x10000))) [(1, ⟨2, 0, true⟩), (2, ⟨1, 0, true⟩)]
theorem wit_copy_end : (kvFront onCopying 0).map (fun r => r.copy) = some (some (0x8000, 0x10000)) ∧ mapOf (getPart onCopying 0) 0x8000 = some ⟨0, 0, 2, 15⟩ ∧ kvKey 0 0x8000 ≠ kvKey 0 0x10000 := by decide +kernel
theorem test_copy_end : aft (.kvpCopyEnd 0) (onKv (kvr [(0x8004, 0x10000)] none) []) = onKv (kvr [(0x8004, 0x10000)] none) [] := rfl
theorem test_kvp_select : (aft (.kvpSelect .vaLo 0x8123) onCopying).kvp.state = 7 ∧ (aft (.kvpSelect .vaLo 0x8123) onCopying).kvp.counts = 0x20000 ∧ (aft (.kvpSelect .part 1) onCopying).kvp.state = 0 := by decide +kernel

/-! Fused attention. -/

/-- The block of `attnBlock` without checks. -/
def atBlk : List Byte := [0, 2] ++ attnBlock.drop 2
def onGrantA : State := modCtx (modCore onAttn 0 (fun m => { m with lastUnit := .replicate 2 3 })) 0 0 (fun x => { x with queue := [⟨0, .attn 0x2000 [0, 1] atBlk, 0, 64, none⟩] })
theorem wit_attn_start : (nextGrant onGrantA 0 0).map (fun o => o.kind) = some (.attn 0x2000 [0, 1] atBlk) ∧ atMerge atBlk = false ∧ atThin atBlk = false ∧ activeCount onGrantA 0 = 0 ∧
    (∀ r ∈ (atRanges (getCore onGrantA 0).opbuf.bytes atBlk).drop 1, r.1 + r.2 ≤ 0x600000) ∧
    (attnReads (grant onGrantA 0 0 ⟨0, .attn 0x2000 [0, 1] atBlk, 0, 64, none⟩) 0 ⟨0, .attn 0x2000 [0, 1] atBlk, 0, 64, none⟩ atBlk ((atRanges (getCore onGrantA 0).opbuf.bytes atBlk).drop 1)).2.isSome = true ∧
    (atOutTiles atBlk).all (fun x => decide (x < 8) && decide (x ≠ atAccS atBlk)) = true := by decide +kernel
theorem test_attn_start : (getTile (aft (.attnStart 0) onGrantA) 0 1).anchor = some (-18) := by decide +kernel
def fet (v : Bool) : AttnFetch := ⟨6, 0, v, 0, 0, 1, List.replicate 64 0, 0, 0⟩
def arun (fs : List AttnFetch) (th : List AttnThin) (st : AttnStage) : AttnRun :=
  ⟨⟨0, .attn 0x2000 [0, 1] atBlk, 0, 64, none⟩, 0x1F00, atBlk, [0], [List.replicate 64 0x38], [none], [1], false, false, 0, st, [], [], [], [], fs, th, [], [], false⟩
def onRun (a : AttnRun) : State := modCore onT 0 (fun m => { m with attn := some a })
theorem wit_attn_fetch : (arun [fet false, fet true] [] .scores).fetches[1]? = some (fet true) ∧ coreClocked (onRun (arun [] [] .scores)) 0 = true := by decide +kernel
theorem test_attn_fetch : ((getCore (aft (.attnFetchReturn 0 0 []) (onRun (arun [fet false, fet true] [] .scores))) 0).attn.map (fun a => (a.keys.length, a.fetches.length))) = some (1, 1) := by decide +kernel
theorem wit_attn_last : (passTry (zeroTile (atAS atBlk)) (scorePass { arun [] [] .scores with keys := fetchRows (arun [] [] .scores) (fet false) [] }) [] []).2.2.1 = 0 := by decide +kernel
def thinF : Frame := ⟨.stack 0, .ctx 0 0, 3, .thinSums 6 [⟨5, .finite, false, false, 0⟩] none⟩
def thins : List AttnThin := [⟨6, false, 0, 0, [3], []⟩, ⟨7, false, 0, 0, [4], []⟩]
theorem wit_thin : arrives (onMesh (onRun (arun [] thins .scores)) thinF) 0 = some thinF ∧ thins.find? (fun y => y.id = 6) = some ⟨6, false, 0, 0, [3], []⟩ ∧ partOfCore (onRun (arun [] thins .scores)) 0 = some 0 := by decide +kernel
theorem test_thin : ((getCore (aft (.thinSumReturn 0) (onMesh (onRun (arun [] thins .scores)) thinF)) 0).attn.map (fun a => a.sums.map (fun x => (x.place, x.sum.sum)))) = some [(3, 5)] := by decide +kernel
theorem wit_attn_complete : (arun [] [] .output).off % 64 = 0 ∧ atPartial atBlk = false ∧ (arun [] [] .output).off + 64 ≤ atOutOff atBlk := by decide +kernel
theorem wit_attn_clean : ∀ x, blkDiff (getCore (onRun (arun [] [] .output)) 0).opbuf x = 0 := by intro x; rfl
theorem test_attn_complete : (getCore (aft (.attnComplete 0) (onRun (arun [] [] .output))) 0).att.cmds = 1 := by decide +kernel
theorem test_attn_mask : atVisible [0, 8] 0 0 = false := by decide +kernel
theorem test_attn_shift : shiftX 0 500 = (0, false) ∧ shiftX (BitVec.ofInt 128 (-1)) 127 = (BitVec.ofInt 128 (-1), true) ∧ shiftX 5 1 = (2, true) := by decide +kernel
theorem wit_fault_log : (aft (.nop 0 5) on).flt.waiting.length = 1 ∧ on.flt.waiting = [] := by decide +kernel
theorem test_fault_log : (aft .faultRecordWrite (aft (.nop 0 5) on)).flt.head = 1 ∧ (aft .faultRecordWrite (aft (.nop 0 5) on)).flt.partUnserviced = 1 ∧
    (aft .faultRecordWrite (modFlt (aft (.nop 0 5) on) (fun f => { f with head := 0xFFFFFFFE }))).flt.head = 0 := by decide +kernel
end Sys2Proof.Tests

/-! ### Chip links and trees (11_chip_links.md) -/

namespace Sys2Proof.Tests

/-- Partition 0 owns tree 1 of two chips: this one, rank 0, is the root, and rank 1 is its child on port 0. -/
def tr1 : TreeRec := ⟨1, 2, 0, [⟨1, 0, 0xFF, 1⟩]⟩
/-- The same for the other chip: its parent is on port 0. -/
def tr1c : TreeRec := ⟨1, 2, 1, [⟨0, 0, 0xFF, 0⟩]⟩
def portUp : LinkPort := { LinkPort.reset with st := .up, width := 16, quads := 15 }
def ed (c : Bool) : EdgeSt := ⟨c, false, 0, 0, [], [], [], false⟩
def onTree (r : TreeRec) (st : TreeSt) (e : EdgeSt) (ops : List EngOp) (rx : List LinkFrame) : State :=
  { modPart on 0 (fun p => { p with ports := [⟨0, 4, (r.edges.head?.map (fun e => e.peerRank)).getD 0⟩], trees := [r] }) with
    ports := vset on.ports 0 { portUp with rxq := rx }, trees := [⟨0, 1, st, 0, [e], false, ops, [], [], 0⟩] }
def lf (kind seq op : Nat) (d : List Byte) : LinkFrame := ⟨kind, 1, seq, 1, op, 0, 0, d⟩
def port0 (s : State) : LinkPort := getPort s 0
def tree1 (s : State) : Option (TreeSt × Nat) := (findTree s 0 1).map (fun x => (x.st, x.cause))
/-- A flit of 256 bytes (Table 11.2) with a CRC. -/
def flitOf (type seq : Nat) (body : List Byte) (crc : Nat) : List Byte :=
  leBytes 2 (type * 2 ^ 14 + seq) ++ body ++ List.replicate (250 - body.length) 0 ++ leBytes 4 crc
/-- A CRC whose steps are evaluated one after another. -/
def crcS (poly : W32) : List Byte → W32 → W32
  | [], c => c
  | b :: bs, c => if c.toNat < 2 ^ 32 then crcS poly bs (crcByte poly c b) else 0
theorem crcS_eq (poly : W32) (l : List Byte) (c : W32) : crcS poly l c = l.foldl (crcByte poly) c := by
  induction l generalizing c with
  | nil => rfl
  | cons b bs ih => simp only [crcS, c.isLt, if_true, ih, List.foldl_cons]
theorem flit_ok_of {b : List Byte} (h : b.length = 256 ∧ leNat ((b.drop 252).take 4) = (crcS 0xEDB88320 (b.take 252) 0xFFFFFFFF ^^^ 0xFFFFFFFF).toNat) : flitOk b = true := by
  rw [crcS_eq] at h
  simp [flitOk, crc32, crcOf, h]

theorem wit_frame_fits : frameFits ⟨0x16, 7, 65535, 8191, 0xFFFFFFFF, 8191, 2 ^ 18 - 1, List.replicate 4096 0⟩ := by
  refine ⟨rfl, by decide, by decide, by decide, by decide, by decide, by decide, by decide, ?_, ?_⟩ <;> simp only [List.length_replicate, Nat.le_refl]
theorem test_frame : (frameBytes (lf 0x12 3 0x1234 [])).take 12 = [0x12, 1, 0, 0, 3, 0, 1, 0, 0x34, 0x12, 0, 0] := by decide +kernel
/-- The check value of CRC-32: that of "123456789" is 0xCBF43926; CRC-32C gives 0xE3069283. -/
theorem test_crc : crc32 [0x31, 0x32, 0x33, 0x34, 0x35, 0x36, 0x37, 0x38, 0x39] = 0xCBF43926 ∧ crc32c [0x31, 0x32, 0x33, 0x34, 0x35, 0x36, 0x37, 0x38, 0x39] = 0xE3069283 := by decide +kernel
def goodFlit : List Byte := flitOf 1 0 (frameBytes (lf 0x12 0 0 [])) 3017220881
def goodCtl : List Byte := flitOf 2 0 (leBytes 2 0x8005 ++ leBytes 2 0) 3574277685
theorem wit_flit_ok : flitOk goodFlit = true := flit_ok_of (by decide +kernel)
theorem wit_ctl_ok : flitOk goodCtl = true := flit_ok_of (by decide +kernel)
theorem wit_flit : flitType goodFlit = 1 ∧ flitSeq goodFlit = 0 ∧ flitSeq (flitOf 1 9 [] 0) = 9 ∧ (port0 (onTree tr1c .confirming (ed true) [] [])).st = .up ∧
    (port0 (onTree tr1c .confirming (ed true) [] [])).rxSeq = 0 ∧ flitType goodCtl = 2 := by decide +kernel
theorem test_data_flit : (port0 (aft (.linkDataFlit 0 (flitOf 1 0 [] 0) ⟨0, 2, 16⟩ 0) (onTree tr1c .confirming (ed true) [] []))).nak = true ∧
    (port0 (aft (.linkDataFlit 0 (flitOf 1 0 [] 0) ⟨0, 2, 16⟩ 0) (onTree tr1c .confirming (ed true) [] []))).fecCorr = 2 := by decide +kernel
def onReplay : State := { onTree tr1 .ready (ed true) [] [] with ports := vset on.ports 0 { portUp with replay := [(4, [1]), (5, [2]), (6, [3])], txSeq := 7 } }
theorem wit_ctl_flit : (leNat ((goodCtl.drop 2).take 2)).testBit 15 = true ∧ (leNat ((goodCtl.drop 4).take 2)).testBit 15 = false ∧
    (port0 onReplay).replay = [(4, [1])] ++ (5, [2]) :: [(6, [3])] := by decide +kernel

def onTrain (st : TrainStep) : State := { on with ports := vset on.ports 0 { LinkPort.reset with st := .training, step := st, prevWidth := 16, width := 8 } }
theorem wit_training : (port0 (onTrain .identify)).st = .training ∧ (port0 (onTrain .identify)).replay = [] ∧ (port0 (onTrain .identify)).saved = false ∧ (List.replicate 16 (7 : Byte)).length = 16 := by decide +kernel
theorem test_train_step : (port0 (aft (.portTrainStepDone 0 (.widths 5)) (onTrain .width))).width = 8 ∧ (port0 (aft (.portTrainStepDone 0 (.identified (List.replicate 16 7) 3)) (onTrain .identify))).st = .up ∧
    (port0 (aft (.portTrainStepDone 0 .equalized) (onTrain .detect))).step = .detect := by decide +kernel
theorem test_train_timeout : (port0 (aft (.portTrainTimeout 0) (onTrain .deskew))).cause = 3 := by decide +kernel
theorem wit_retrain : (getPort onReplay (0 : Fin 24).val).st = .up ∧ (port0 onReplay).quads.getLsbD (15 / 4) = true ∧ (getPort onReplay 1).st = .off := by decide +kernel
theorem test_port_retrain : (port0 (aft (.portRetrain 0) onReplay)).st = .training ∧ (port0 (aft (.portRetrain 0) onReplay)).prevWidth = 16 := by decide +kernel
theorem test_lnk_retrain : (port0 (aft (.lnkRetrain 0) { on with ports := vset on.ports 0 { portUp with st := .failed } })).st = .training := by decide +kernel
theorem test_lnk_full : (port0 (aft (.lnkFull 0) onReplay)).full = true := by decide +kernel
theorem test_lane_lock : (port0 (aft (.chipLaneLockLoss 0 3) { on with ports := vset on.ports 0 { portUp with quads := 14 } })).st = .up := by decide +kernel

/-- What a frame at the front of port 0 must meet. -/
theorem wit_front (r : TreeRec) (st : TreeSt) (f : LinkFrame) (h : r = tr1 ∨ r = tr1c) (hf : f.tree = 1 ∧ f.seq = 0) : frontFrame (onTree r st (ed false) [] [f]) 0 f 0 0 ⟨0, 1, st, 0, [ed false], false, [], [], [], 0⟩ r := by
  obtain ⟨k, t, q, a, b, c, d, e⟩ := f
  obtain ⟨rfl, rfl⟩ : t = 1 ∧ q = 0 := hf
  rcases h with rfl | rfl <;> exact ⟨rfl, rfl, rfl, rfl, fun _ => rfl, rfl, Nat.one_pos⟩
theorem wit_hello : helloAgrees (onTree tr1 .confirming (ed false) [] []) 0 tr1 0 0 (helloData tr1c 0) = true ∧ helloAgrees (onTree tr1 .confirming (ed false) [] []) 0 tr1 0 0 (helloData tr1 0) = false ∧
    parentEdge tr1c = some 0 ∧ homeDie tr1 = some 0 := by decide +kernel
theorem test_hello : ((findTree (aft (.hello 0) (onTree tr1 .confirming (ed false) [] [lf 0x10 0 0 (helloData tr1c 0)])) 0 1).map (fun x => (getEdge x 0).confirmed)) = some true ∧
    tree1 (aft (.hello 0) (onTree tr1 .confirming (ed false) [] [lf 0x10 0 0 (helloData tr1 0)])) = some (.broken, 2) := by decide +kernel
theorem test_subtree : ((findTree (aft (.subtree 0) (onTree tr1 .confirming (ed true) [] [lf 0x11 0 0 (1 :: List.replicate 63 0)])) 0 1).map (fun x => (x.st, (getEdge x 0).ranks))) = some (.ready, [1]) := by decide +kernel
theorem test_ready : tree1 (aft (.ready 0) (onTree tr1c .confirming (ed true) [] [lf 0x12 0 0 []])) = some (.ready, 0) := by decide +kernel
theorem test_tree_reset : tree1 (aft (.treeReset 0) (onTree tr1 .ready (ed true) [] [lf 0x13 0 0 []])) = some (.broken, 4) ∧ tree1 (aft (.treeReset 0) (onTree tr1 .confirming (ed true) [] [lf 0x13 0 0 []])) = some (.confirming, 0) := by decide +kernel

/-- An ALL_REDUCE of two INT32 sums, as its descriptor goes on links, and as operation 4. -/
def dsc : List Byte := colDesc redBlk 4
def eop (ps : List (Nat × Nat × List Byte)) : EngOp := ⟨4, dsc, ps, false, 0, [], [], []⟩
def ops1 (s : State) : Option (List (Nat × Nat)) := (findTree s 0 1).map (fun x => x.ops.map (fun o => (o.op, o.parts.length)))
theorem wit_engine : colReduces dsc = true ∧ colOp dsc = 1 ∧ (findTree (onTree tr1 .ready (ed true) [eop []] []) 0 1).bind (fun x => findOp x 4) = some (eop []) ∧
    (findTree (onTree tr1 .ready (ed true) [] []) 0 1).map (fun x => (findOp x 4, x.dead.contains 4)) = some (none, false) := by decide +kernel
theorem wit_engine_front : frontFrame (onTree tr1 .ready (ed true) [eop []] [lf 2 0 4 [1]]) 0 (lf 2 0 4 [1]) 0 0 ⟨0, 1, .ready, 0, [ed true], false, [eop []], [], [], 0⟩ tr1 := ⟨rfl, rfl, rfl, rfl, fun _ => rfl, rfl, by decide⟩
theorem test_desc_frame : ops1 (aft (.desc 0) (onTree tr1 .ready (ed true) [] [lf 0x16 0 4 dsc])) = some [(4, 0)] := by decide +kernel
theorem test_up : ops1 (aft (.up 0) (onTree tr1 .ready (ed true) [eop []] [lf 1 0 4 (List.replicate 64 0)])) = some [(4, 1)] := by decide +kernel
theorem test_down : (aft (.down 0) (onTree tr1c .ready (ed true) [eop []] [lf 2 0 4 (List.replicate 64 0)])).mesh.map (fun g => (g.src, g.dst)) = [(.link 0, .red 0)] := by decide +kernel
theorem test_fail : ops1 (aft (.fail 0) (onTree tr1 .ready (ed true) [eop []] [lf 0x14 0 4 []])) = some [] ∧ (aft (.fail 0) (onTree tr1 .ready (ed true) [eop []] [lf 0x14 0 4 []])).flt.waiting.map (fun r => r.cls) = [0x3B] := by decide +kernel
def onUnack : State := onTree tr1 .ready { ed true with txSeq := 6, unacked := [lf 2 4 1 [], lf 2 5 1 []] } [] [lf 3 4 0 []]
theorem wit_frame_ack : (getEdge ⟨0, 1, .ready, 0, [{ ed true with txSeq := 6, unacked := [lf 2 4 1 [], lf 2 5 1 []] }], false, [], [], [], 0⟩ 0).unacked = [] ++ lf 2 4 1 [] :: [lf 2 5 1 []] := by decide +kernel
theorem test_frame_ack : ((findTree (aft (.frameAck 0) onUnack) 0 1).map (fun x => (getEdge x 0).unacked)) = some [lf 2 5 1 []] := by decide +kernel
theorem test_throttle : (vget (aft (.throttleNotice 0) (onTree tr1 .ready (ed true) [] [lf 0x15 0 0 ([1, 0, 9, 2, 1] ++ List.replicate 59 0)])).links 0).notice = 0xA4800400 := by decide +kernel
def both : EngOp := eop [(255, 0, [1, 0, 0, 0]), (0, 0, [2, 0, 0, 0])]
theorem wit_combine : childEdges tr1 = [0] ∧ parentEdge tr1 = none ∧ both.parts.find? (fun q => q.1 = 255) = some (255, 0, [1, 0, 0, 0]) ∧ engSum dsc 0 [1, 0, 0, 0] [[2, 0, 0, 0]] = ([3, 0, 0, 0], false) ∧
    (childEdges tr1).map (fun e => (both.parts.find? (fun q => q.1 = e && q.2.1 = 0)).map (fun q => q.2.2)) = [[2, 0, 0, 0]].map some := by decide +kernel
theorem test_engine_combine : (aft (.engineCombine 0 1 0) (onTree tr1 .ready (ed true) [both] [])).mesh.map (fun g => match g.body with | .red c => (c.op, c.data) | _ => (0, [])) = [(4, [3, 0, 0, 0])] := by decide +kernel
theorem wit_hello_send : (findTree (onTree tr1 .confirming (ed false) [] []) 0 1).map (fun x => (x.edges, activePort tr1 x 0)) = some ([ed false], 0) ∧ (port0 (onTree tr1 .confirming (ed false) [] [])).txq = [] := by decide +kernel
theorem test_hello_send : (port0 (aft (.helloSend 0 1) (onTree tr1 .confirming (ed false) [] []))).replay.map (fun e => (e.1, e.2.take 20)) = [(0, [0x10, 1, 1, 0, 0, 0, 0, 0, 0, 0, 0, 0, 0, 0, 0, 0, 2, 0, 0, 0])] ∧
    (port0 (aft (.helloSend 0 1) (onTree tr1 .ready (ed false) [] []))).replay = [] := by decide +kernel
end Sys2Proof.Tests

/-! ### Registers and the host interface (00_scope.md, 12_host.md) -/

namespace Sys2Proof.Tests

/-- Every unit's clock is enabled, and channel 2 of partition 0 exists. -/
def onReg : State :=
  { onSlot dIn with clk := { on.clk with enHub := 0xFF, enLink := 7, enStack := 0xFF, enTile := .replicate 4 0x1FF, enCores := .replicate 4 0xFFFFFFFF }
                    hst := { on.hst with drops := 0x500000007 } }
def answers (s : State) : List Resp := s.resps
theorem wit_access : taprootUp onReg = true ∧ fnLive onReg .pf = true ∧ fnLive onReg (.vf 0) = true ∧ fnLive onReg (.vf 1) = false ∧ regRead onReg .pf 0x600010 = some (.lo 0x500000007) ∧
    regRead onReg .pf 0x600014 = some (.hi 0x500000007) ∧ regRead onReg .pf 0x2000000 ≠ none ∧ regRead onReg (.vf 0) 0x4000 = none := by decide +kernel
theorem wit_access_open : accessOpen onReg .pf 0x600010 := ⟨by decide +kernel, by decide +kernel, fun k h => absurd h (by rw [show accCore ⟨.pf, 0x600010, 4, none⟩ = none by decide +kernel]; exact fun h => nomatch h)⟩
theorem wit_shadow : (aft (.registerRead .pf 0x600010 4) onReg).hub.shadow.find? (fun e => e.1 = shadowKey .pf 0x600014) = some (0x600014, 5) ∧ regRead onReg .pf 0x1000 = some (.word 1429209344) := by decide +kernel
theorem test_read : answers (aft (.registerRead .pf 0x600010 8) onReg) = [.value 0x500000007] ∧ answers (aft (.registerRead .pf 0x600014 4) (aft (.counterLowRead .pf 0x600010) (modHst (aft (.registerRead .pf 0x600010 4) onReg) (fun h => { h with drops := 0x600000000 })))) = [.value 7, .value 0, .value 6] := by decide +kernel
theorem test_counter_low : answers (aft (.counterLowRead .pf 0x600010) onReg) = [.value 7] ∧ answers (aft (.counterLowRead .pf 0x1000) onReg) = [] := by decide +kernel
theorem test_bus_error : answers (aft (.registerRead .pf 0x600010 2) onReg) = [.busError] ∧ (aft (.registerWrite .pf 0x600014 8 0) onReg).flt.waiting.map (fun r => (r.cls, r.address)) = [(0x3D, 0x600014)] := by decide +kernel
theorem test_write : (aft (.registerWrite .pf 0x60000C 4 0x3FF) onReg).hst.barGib = 0x1FF ∧ (aft (.registerWrite .pf 0x2000008 4 0xFFFFFFFF) onReg).flt.waiting = [] := by decide +kernel
def onEv : State := modFlt onReg (fun f => { f with evRecord := true, evWrap := true })
theorem test_rw1c : (aft (.rw1cClear .pf 0x500004 3 2) onEv).flt.evRecord = false ∧ (aft (.rw1cClear .pf 0x500004 3 2) onEv).flt.evWrap = true := by decide +kernel
/-- Core 2 is in region 1, which sleeps. -/
theorem wit_sleeping : accCore ⟨.pf, 0x1220000, 4, none⟩ = some 16 ∧ (getRegion onReg (regionOf 2)).power = .asleep ∧ accCore ⟨.pf, 0x1240000, 4, none⟩ = some 2 ∧ accessOk onReg ⟨.pf, 0x1240000, 4, none⟩ = true := by decide +kernel
theorem test_wakes : (getRegion (aft (.registerRead .pf 0x1240000 4) onReg) 1).power = .waking := by decide +kernel
theorem wit_cap : onReg.clk.enHub.getLsbD 4 = true ∧ (modFuses onReg (fun f => { f with code := 2 })).fuses.code = 2 ∧ (modFuses onReg (fun f => { f with code := 3 })).fuses.code = 3 := by decide +kernel
theorem test_cap : regRead onReg (.vf 0) 0x1C = regRead onReg .pf 0x101C ∧ (match regRead (modFuses onReg (fun f => { f with code := 3 })) .pf 0x101C with | some (.word n) => n / 2 ^ 24 | _ => 0) = 0x3F := by decide +kernel
theorem wit_config : hubRuns (modHub onReg (fun h => { h with phase := .sysref })) = false ∧ hubRuns onReg = true ∧ taprootUp (modSec onReg (fun x => { x with tops := .none })) = false := by decide +kernel
theorem test_config : answers (aft (.configRequest .pf .read) (modSec onReg (fun x => { x with tops := .none }))) = [.retry] ∧ answers (aft (.configRequest (.vf 3) .write) onReg) = [.unsupported] := by decide +kernel

/-! Windows, messages and rings. -/

/-- A message of 64 zero bytes with HSEQ 1 (Table 12.3) in the window of channel 2; its CRC is `crc`. -/
def msgHdr (crc : Nat) : List Byte := [1, 0, 0, 0, 0, 1, 7, 0] ++ leBytes 4 crc ++ List.replicate 52 0
def onWin (crc : Nat) : State := modCh onReg 0 2 (fun x => { x with win := memWriteBytes [] 0 (msgHdr crc), marks := [(0, 12)] })
theorem wit_window : chanRec onReg 0 (2 : Fin 8).val ≠ none ∧ (getCh onReg 0 2).stopped = false ∧ (getCh (onWin 0) 0 2).marks ≠ [] ∧ devRoom (onWin 0) 0 2 = true := by decide +kernel
theorem test_window_write : (getCh (aft (.windowWrite 0 2 65535 [1, 2]) onReg) 0 2).win = [(0, 2), (65535, 1)] ∧ (getCh (aft (.windowWrite 0 2 8 [1]) onReg) 0 2).marks = [] ∧ (getCh (aft (.windowWrite 0 2 65535 (List.replicate 13 0)) onReg) 0 2).marks = [(65535, 13)] := by decide +kernel
def fwd (dest : Nat) : HostMsg := ⟨4, 9, 7, dest, List.replicate 64 0, false⟩
def onFwd (dest : Nat) : State := modCh onReg 0 2 (fun x => { x with buf := [fwd dest] })
theorem wit_forward : (forwardNext (onFwd 0)).map (fun x => (x.1, x.2.1, x.2.2.2)) = some (0, 2, fwd 0) ∧ coreOfPcn (maskOf (onFwd 0) 0) 0 = some 0 ∧ forwardNext onReg = none ∧
    (forwardNext (onFwd 1)).isSome = true := by decide +kernel
theorem test_forward : (aft .hostBodyForward (onFwd 0)).mesh.map (fun f => (f.src, f.dst, f.cls)) = [(.host 0 2, .ctx 0 0, 0)] ∧ (getCh (aft .hostBodyForward (onFwd 1)) 0 2).buf = [] := by decide +kernel
def onRing (t : RingId) (held : List HeldEntry) : State := modRing onReg t (fun r => { r with enable := true, arm := true, baseLo := 0x1000, tail := 65, head := 2, held := held })
def he : HeldEntry := ⟨0, List.replicate 44 0, 3, true⟩
theorem wit_ring : ringExists onReg (.ch 0 2) = true ∧ ringExists onReg (.nr 7) = true ∧ ringReady (getRing (onRing (.ch 0 2) [he]) (.ch 0 2)) = true ∧ (getRing (onRing (.ch 0 2) [he]) (.ch 0 2)).held = [he] ∧
    ringReady (getRing onReg (.nr 0)) = false := by decide +kernel
theorem test_entry_write : (aft (.entryWrite (.ch 0 2) true false) (onRing (.ch 0 2) [he])).flt.waiting.map (fun r => (r.cls, r.address)) = [(0x46, 0x1040)] ∧
    (getRing (aft (.entryWrite (.nr 1) true false) (onRing (.nr 1) [he])) (.nr 1)).enable = false := by decide +kernel
theorem test_ring_enable : (getRing (aft (.ringEnable (.ch 0 2) 16 true) onReg) (.ch 0 2)).log2 = 16 ∧ (getRing (aft (.ringEnable (.ch 0 2) 17 true) onReg) (.ch 0 2)).log2 = 6 ∧
    (getRing (aft (.ringEnable (.ch 0 2) 16 true) (onRing (.ch 0 2) [])) (.ch 0 2)).log2 = 6 := by decide +kernel
theorem test_ring_arm : (getRing (aft (.ringArm (.nr 3)) onReg) (.nr 3)).arm = true := by decide +kernel
theorem test_ring_head : (getRing (aft (.ringHeadWrite (.ch 0 2) 64) (onRing (.ch 0 2) [])) (.ch 0 2)).head = 64 ∧ (getRing (aft (.ringHeadWrite (.ch 0 2) 66) (onRing (.ch 0 2) [])) (.ch 0 2)).head = 2 := by decide +kernel
def onStop : State := modCh onReg 0 2 (fun x => { x with stopped := true, d := 128 })
theorem wit_restart : (getCh onStop 0 (2 : Fin 8).val).stopped = true ∧ (getPart onStop 0).live = true ∧ (getPart onStop 1).live = false := by decide +kernel
theorem test_restart : (getCh (aft (.restart 0 2) onStop) 0 2).d = 0 := by decide +kernel
theorem test_message_take : aft (.messageTake 0 2) onStop = onStop ∧ aft (.messageTake 0 2) onReg = onReg := ⟨rfl, rfl⟩
theorem test_vf_flr : (getRing (aft (.vfFlr 0) (onRing (.ch 0 2) [he])) (.ch 0 2)).enable = false ∧ (getRing (aft (.vfFlr 1) (onRing (.ch 0 2) [he])) (.ch 0 2)).enable = true := by decide +kernel
theorem test_pf_flr : (getRing (aft .pfFlr (onRing (.nr 3) [he])) (.nr 3)).arm = false := by decide +kernel
theorem test_snap : vget (getPst (aft (.snap 0) { onReg with meters := vmod onReg.meters 0 (fun m => vset m 11 9) }) 0).snap 11 = 9 := by decide +kernel
def onBar : State := modHst onReg (fun h => { h with barOn := true, barGib := 0x40 })
theorem wit_aperture : barAddr onBar 0x3F0 = some 0x10000003F0 ∧ barBuffered onBar ≤ 0x300000 ∧ onReg.hst.barOn = false := by decide +kernel
/-- Aperture writes of any length may wait. -/
theorem wit_aperture_full (bs : List Byte) : barBuffered (modStack onBar 1 (fun t => { t with units := [⟨.bar4 0 0, none, 0, 512, some bs⟩] })) = bs.length := by
  have h : (modStack onBar 1 (fun t => { t with units := [⟨.bar4 0 0, none, 0, 512, some bs⟩] })).stks.toList =
    [Stack.reset, { Stack.reset with units := [⟨.bar4 0 0, none, 0, 512, some bs⟩] }, Stack.reset, Stack.reset, Stack.reset, Stack.reset, Stack.reset, Stack.reset] := rfl
  simp [barBuffered, h, Stack.reset]
theorem test_bar4_read : (getStack (aft (.bar4Read 0x3F0 32) onBar) 1).units.map (fun u => (u.addr % 2 ^ 36, u.len)) = [(0x3F0, 16), (0x400, 16)] := by decide +kernel
theorem test_bar4_write : (getStack (aft (.bar4Write 0x3F0 [1, 2]) onBar) 1).units.map (fun u => u.write) = [some [1, 2]] ∧ answers (aft (.bar4Write (2 ^ 39) [1]) onBar) = [.unsupported] := by decide +kernel
theorem test_bar4_enable : (aft .bar4Enable onReg).hst.barOn = true := by decide +kernel
end Sys2Proof.Tests

/-! ### Configuration streams (02_configuration_stream.md) -/

namespace Sys2Proof.Tests

/-! A key that every message verifies under: the neutral point, with the signature R neutral and S 0. -/

def idKey : List Byte := leBytes 57 1
def idSig : List Byte := leBytes 57 1 ++ leBytes 57 0
theorem ed_times_zero (n : Nat) : edTimes n edZero = edZero := by
  have h : edPlus edZero edZero = edZero := by decide +kernel
  unfold edTimes
  generalize bitsOf n 456 = l
  induction l with
  | nil => rfl
  | cons b bs ih => simp only [List.foldl_cons, h]; cases b <;> simpa [h] using ih
theorem id_decode : edDecode (leBytes 57 1) = some edZero := by decide +kernel
theorem id_verify (ctx msg : List Byte) : edVerify idKey ctx msg idSig = true := by
  have h1 : idSig.take 57 = leBytes 57 1 := by decide +kernel
  have h2 : leNat (idSig.drop 57) = 0 := by decide +kernel
  have h3 : idSig.length = 114 := by decide +kernel
  have h4 : edTimes 4 (edTimes 0 edBase) = edZero := by decide +kernel
  have h5 : edPlus edZero edZero = edZero := by decide +kernel
  have h6 : edSame edZero edZero = true := by decide +kernel
  have h7 : (0 : Nat) < edL := by decide +kernel
  unfold edVerify
  rw [h1, idKey, id_decode]
  simp [h2, h3, h4, h5, h6, h7, ed_times_zero]

/-! SHAKE256 gives as many bytes as it is asked for. -/

theorem walk_length (l : List (Nat × Nat × Nat)) (s : Keccak) : (l.foldl (fun out m => out.set m.2.1 ((s.getD m.1 0).rotateLeft (m.2.2 % 64))) s).length = s.length := by
  suffices h : ∀ o : Keccak, (l.foldl (fun out m => out.set m.2.1 ((s.getD m.1 0).rotateLeft (m.2.2 % 64))) o).length = o.length from h s
  induction l with
  | nil => intro o; rfl
  | cons m l ih => intro o; rw [List.foldl_cons, ih, List.length_set]
theorem chi_length (n : Nat) (s : Keccak) : (chiMix n s).length = min (5 * n) s.length := by
  induction n generalizing s with
  | zero => simp [chiMix]
  | succ n ih => simp [chiMix, chiRow, ih]; omega
theorem keccak_rounds_length (n r : Nat) (s : Keccak) (h : s.length = 25) : (keccakRounds n r s).length = 25 := by
  induction n generalizing r s with
  | zero => exact h
  | succ n ih => apply ih; rw [List.length_modifyHead, chi_length]; unfold walkMix; rw [walk_length]; simp [thetaMix, h]
theorem keccak_f_length (s : Keccak) (h : s.length = 25) : (keccakF s).length = 25 := keccak_rounds_length 24 1 s h
theorem absorb_length (n : Nat) (s : Keccak) (b : List Byte) (h : s.length = 25) : (shakeAbsorb n s b).length = 25 := by
  induction n generalizing s b with
  | zero => exact h
  | succ n ih => exact ih _ _ (keccak_f_length _ (by simp [lanesOf, h]))
theorem shake_length (b : List Byte) : (shake256 64 b).length = 64 := by
  have h := absorb_length ((shakePad b).length / 136) (List.replicate 25 0) (shakePad b) (by simp)
  have k : ∀ l : List (BitVec 64), (l.flatMap (fun x => leBytes 8 x.toNat)).length = 8 * l.length := by
    intro l; induction l with
    | nil => rfl
    | cons x xs ih => rw [List.flatMap_cons, List.length_append, ih]; show 8 + _ = 8 * (_ + 1); omega
  unfold shake256
  simp only [shakeSqueeze, List.append_nil, List.length_take, k, List.replicate]
  simp only [List.replicate] at h
  rw [h]; decide

/-- Header and PARTITION record of a CREATE stream: partition 1 of region 1, SEQUENCE 5. -/
def hdr1 : List Byte := [0x53, 0x54, 0x43, 0x46, 1, 0, 0, 0, 2, 1, 0, 0, 1, 0, 0, 0, 24, 0, 0, 0, 0, 0, 0, 0, 5, 0, 0, 0, 0, 0, 0, 0] ++ List.replicate 32 0
def rec1 : List Byte := [1, 0, 1, 0, 24, 0, 0, 0, 2, 0, 0, 0, 1, 1, 1, 1] ++ List.replicate 8 0
def body1 : List Byte := hdr1 ++ rec1
def stream1 : List Byte := body1 ++ (shake256 64 body1 ++ idSig)
def strm1 : Strm := ⟨streamHdr hdr1, [rec1], [parseRec rec1], shake256 64 body1⟩
def run0 (w : CfgWait) (bytes : List Byte) : CfgRun := ⟨false, 266, none, bytes, w, 0, [], none⟩
/-- A device whose key 0 is `idKey`, with a stream of 266 bytes in FETCH; the stack of the staging area has left self-refresh. -/
def onFetch : State := modStack (modCfg onReg (fun c => { c with st := .fetch, keys := [idKey, [], [], []], run := some (run0 .fetch []) })) 0 (fun t => { t with selfRef := false })
theorem stream_length : stream1.length = 266 := by
  have h : body1.length = 88 := by decide +kernel
  have k : idSig.length = 114 := by decide +kernel
  simp [stream1, h, k, shake_length]
/-- The state in which the staged stream is checked: only the stacks and the stream in progress differ. -/
def onStaged : State := { onFetch with
  stks := (withStaged onFetch stream1).stks, cfg := { onFetch.cfg with run := some { run0 .fetch [] with bytes := stream1, hdr := some (2, 1) } } }
theorem staged_eq : withStaged onFetch stream1 = onStaged := by
  have h : ∀ b : List Byte, b.length = 266 → withStaged onFetch b = { onFetch with stks := (withStaged onFetch b).stks, cfg := { onFetch.cfg with run := some { run0 .fetch [] with bytes := b, hdr := some ((streamHdr b).scope, (streamHdr b).part) } } } := by
    intro b hb
    unfold withStaged writeUnit
    rw [hb]; rfl
  exact h stream1 stream_length
set_option maxRecDepth 20000 in
theorem wit_stream_split : splitStream (run0 .fetch []).len stream1 = .inr strm1 := by
  have h : splitStream 266 stream1 = .inr ⟨streamHdr hdr1, [rec1], [parseRec rec1], (shake256 64 body1 ++ idSig).take 64⟩ := rfl
  rw [List.take_left' (shake_length body1)] at h
  exact h
theorem verify_ok {S : State} {b : List Byte} {x : Strm} (h1 : shake256 64 (b.take (64 + x.hdr.body)) = x.digest) (h2 : streamSig b x.hdr = idSig) (h3 : signerKey S x = some idKey)
    (h4 : ¬ x.hdr.seq ≤ S.cfg.floor.toNat) (h5 : x.hdr.major = 1 ∧ x.hdr.minor = 0 ∧ x.hdr.target.any (· != 0) = false) : verifyErr S b x = none := by
  have h7 : (x.hdr.target.any (· != 0) && x.hdr.target != idPrefix) = false := by rw [h5.2.2]; rfl
  have h8 : edVerify idKey ctxCfg x.digest idSig = true := id_verify _ _
  simp only [verifyErr, firstErr, h1, h2, h3, h5.1, h5.2.1, h7, if_neg h4, Option.getD_some, h8]
  simp
theorem good_of {S : State} {b : List Byte} {x : Strm} (h0 : verifyErr S b x = none) (h1 : recordErr S x = none) (h2 : claimErr S x = none) (h3 : portErr S x = none) : streamErr S b x = none := by
  simp only [streamErr, firstErr, h0, h1, h2, h3]
theorem stream_verifies : verifyErr onStaged stream1 strm1 = none := by
  have h1 : stream1.take (64 + strm1.hdr.body) = body1 := by
    have hb : 64 + strm1.hdr.body = 88 := by decide +kernel
    rw [hb, stream1, List.take_left' (by decide +kernel)]
  have h2 : streamSig stream1 strm1.hdr = idSig := by
    have hb : 128 + strm1.hdr.body = 88 + 64 := by decide +kernel
    have hl : body1.length = 88 := by decide +kernel
    unfold streamSig
    rw [hb, ← List.drop_drop, stream1, List.drop_left' hl, List.drop_left' (shake_length body1)]; rfl
  have h3 : signerKey onStaged strm1 = some idKey := by decide +kernel
  have h4 : ¬ strm1.hdr.seq ≤ onStaged.cfg.floor.toNat := by decide +kernel
  have h5 : strm1.hdr.major = 1 ∧ strm1.hdr.minor = 0 ∧ strm1.hdr.target.any (· != 0) = false := by decide +kernel
  have h6 : strm1.digest = shake256 64 body1 := by unfold strm1; with_reducible rfl
  exact verify_ok (by rw [h1, h6]) h2 h3 h4 h5
theorem wit_stream_good : streamErr (withStaged onFetch stream1) stream1 strm1 = none := by
  rw [staged_eq]
  have h1 : recordErr onStaged strm1 = none := by decide +kernel
  have h2 : claimErr onStaged strm1 = none := by decide +kernel
  have h3 : portErr onStaged strm1 = none := by decide +kernel
  exact good_of stream_verifies h1 h2 h3

end Sys2Proof.Tests

namespace Sys2Proof.Tests

def cfgNow (s : State) : CfgSt × Nat := (s.cfg.st, s.cfg.error)
theorem wit_begin : onReg.flt.held = [] ∧ cfgServed onReg = true ∧ cfgServed on = false ∧ topsRuns onReg = true ∧ onReg.cfg.run = none ∧ onFetch.cfg.run = some (run0 .fetch []) ∧
    topsRuns (modSec onReg (fun x => { x with tops := .noImage })) = false ∧ 64 ≤ hdr1.length ∧ hdr1.length ≤ (run0 .fetch []).len := by decide +kernel
theorem test_load : cfgNow (aft .load (modCfg onReg (fun c => { c with len := 266 }))) = (.fetch, 0) ∧ cfgNow (aft .load (modCfg onReg (fun c => { c with len := 0x4000001 }))) = (.rejected, 0x17) ∧ cfgNow (aft .load onFetch) = (.fetch, 0x1A) := by decide +kernel
theorem test_submit : (aft (.submitStream 266) onReg).cfg.run = some ⟨true, 266, none, [], .fetch, 0, [], none⟩ ∧ (aft (.submitStream 266) onFetch).sec.out = [.answer 0x1A] := by decide +kernel
theorem test_abort : cfgNow (aft .abort onFetch) = (.rejected, 0x1E) ∧ cfgNow (aft .abort onReg) = (.idle, 0) := by decide +kernel
theorem test_fetch_fault : cfgNow (aft (.fetchFault 200) onFetch) = (.rejected, 0x1F) ∧ (aft (.fetchFault 200) onFetch).cfg.index = 3 := by decide +kernel
theorem test_header : (aft (.streamHeaderFetched hdr1) onFetch).cfg.run = some ⟨false, 266, some (2, 1), [], .fetch, 0, [], none⟩ := by decide +kernel
theorem test_bad_magic : cfgNow (aft (.streamFetchComplete (List.replicate 266 0)) onFetch) = (.rejected, 1) ∧ cfgNow (aft (.streamFetchComplete [0]) onFetch) = (.fetch, 0) := by decide +kernel
/-- A stream without a signature, its parts, and a device that is about to commit it. -/
def plain (h : List Byte) (r : List Byte) : List Byte := h ++ r ++ List.replicate 178 0
def onApply (w : CfgWait) (h r : List Byte) : State := modCfg onReg (fun c => { c with st := .apply, keys := [idKey, [], [], []], run := some ⟨false, (plain h r).length, none, plain h r, w, 0, [], none⟩ })
/-- A wrong signature is found where the digest is right; here already the digest is wrong. -/
theorem wit_bad_split : splitStream 266 (List.replicate 266 0) = .inl { code := 1 } := by decide +kernel
theorem wit_commit : (stagedStream (onApply .commit hdr1 rec1)).map (fun x => (x.hdr.scope, x.hdr.part, x.hdr.seq)) = some (2, 1, 5) ∧ (stagedStream (onApply .commit hdr1 rec1)).bind (portErr (onApply .commit hdr1 rec1)) = none := by decide +kernel
/-- An AMEND stream of the partition's power envelope, a CHIP stream that revokes key 1, a TEARDOWN stream of partition 0. -/
def hdrOf (scope part count body : Nat) : List Byte :=
  [0x53, 0x54, 0x43, 0x46, 1, 0, 0, 0, BitVec.ofNat 8 scope, BitVec.ofNat 8 part, 0, 0, BitVec.ofNat 8 count, 0, 0, 0, BitVec.ofNat 8 body, 0, 0, 0, 0, 0, 0, 0, 9, 0, 0, 0, 0, 0, 0, 0] ++ List.replicate 32 0
def recEnv : List Byte := [7, 0, 1, 0, 16, 0, 0, 0, 50, 0, 0x78, 5, 0x5E, 1, 10, 0]
def recRevoke : List Byte := [0x11, 0, 1, 0, 16, 0, 0, 0, 1, 0, 0, 0, 0, 0, 0, 0]
def recTear : List Byte := [0x0F, 0, 1, 0, 8, 0, 0, 0]
def onAmend : State := onApply .commit (hdrOf 3 0 1 16) recEnv
def onChip (age : Nat) : State := modRun (onApply .table (hdrOf 1 0xFF 1 16) recRevoke) (fun r => { r with age := age })
def onTear : State := onApply .teardown (hdrOf 4 0 1 8) recTear
theorem wit_commits : (stagedStream onAmend).map (fun x => x.hdr.scope) = some 3 ∧ (stagedStream (onChip 0)).map (fun x => (x.hdr.scope, changesKeys x)) = some (1, true) ∧
    (stagedStream onTear).map (fun x => x.hdr.scope) = some 4 ∧ onTear.flt.run = none ∧ onTear.cfg.run.map (fun r => r.wait) = some .teardown ∧ (onChip (2 ^ 20)).cfg.run.map (fun r => r.age) = some (2 ^ 20) := by decide +kernel
theorem wit_chip_commit : (stagedStream (onApply .commit (hdrOf 1 0xFF 1 16) recRevoke)).isSome = true ∧ (stagedStream (onApply .commit (hdrOf 1 0xFF 1 16) recRevoke)).bind (portErr onReg) = none := by decide +kernel
/-- The port of the stream's tree is not UP. -/
def recPort : List Byte := [4, 0, 1, 0, 16, 0, 0, 0, 0, 4, 0, 0, 1, 0, 0, 0]
def recTree : List Byte := [5, 0, 1, 0, 32, 0, 0, 0, 1, 1, 0, 0, 2, 0, 0, 0, 0, 0, 0, 0, 0, 0, 0, 0, 1, 0, 0xFF, 0, 1, 0, 0, 0]
def onUntrained : State := onApply .commit (hdrOf 2 1 3 72) (rec1 ++ recPort ++ recTree)
theorem wit_untrained : (stagedStream onUntrained).bind (portErr onUntrained) = some { code := 0x1C, rec0 := 2, index := 0 } := by decide +kernel
theorem test_commit : (aft .streamCommit (onApply .commit hdr1 rec1)).cfg.floor = 5 ∧ (getRegion (aft .streamCommit (onApply .commit hdr1 rec1)) 1).owner = some 1 ∧
    (getPart (aft .streamCommit (onApply .commit hdr1 rec1)) 1).live = true := by decide +kernel
theorem test_commit_untrained : cfgNow (aft .streamCommit onUntrained) = (.rejected, 0x1C) ∧ (getPart (aft .streamCommit onAmend) 0).amends.length = 1 := by decide +kernel
theorem test_teardown : (aft .teardownCommit onTear).flt.run = some ⟨4, 0, 0, true, 1, false⟩ ∧ (aft .teardownCommit (modFlt onTear (fun f => { f with run := some ⟨1, 0, 0, false, 1, false⟩ }))).cfg.floor = 0 := by decide +kernel
theorem test_table_timeout : cfgNow (aft .tableStoredTimeout (onChip (2 ^ 20))) = (.rejected, 0x18) ∧ cfgNow (aft .tableStoredTimeout (onChip (2 ^ 20 - 1))) = (.apply, 0) := by decide +kernel
theorem test_table_stored : (aft .tableStored (onChip 5)).fuses.enrolled = true ∧ (aft .tableStored (onChip 5)).fuses.epoch = 0 ∧ cfgNow (aft .tableStored (onChip 5)) = (.done, 0) := by decide +kernel

/-! Pins of Tops (02_configuration_stream.md). -/

def pinS (n : Nat) (o : PinOwner) : PinSt := ⟨some n, 1, none, none, 64, o, 0, false⟩
def onPin (l : List PinSt) : State := modCfg onReg (fun c => { c with pins := l })
theorem wit_pins : (onPin [pinS 3 .stream]).cfg.pins.any (fun y => y.owner = .stream && pinNames y (some 3) none) = true ∧
    (onPin [pinS 3 .stream]).cfg.pins.any (fun y => y.owner = .stream && pinNames y (some 4) (some 15)) = false ∧
    (onPin [pinS 3 .tops]).cfg.pins.any (fun y => y.owner = .tops && y.pin == some 3 && y.timer == none) = true := by decide +kernel
theorem test_claim : (aft (.claim (some 4) (some 15)) (onPin [pinS 3 .stream])).cfg.pins.length = 2 ∧ (aft (.claim (some 3) none) (onPin [pinS 3 .stream])).sec.out = [.answer 1] ∧
    (aft (.claim (some 9) none) (onPin [])).sec.out = [.answer 1] := by decide +kernel
theorem test_release : (aft (.release (some 3) none) (onPin [pinS 3 .tops])).cfg.pins = [] := by decide +kernel
theorem wit_heartbeat : ({ pinS 3 .stream with count := 64 }).period ≤ ({ pinS 3 .stream with count := 64 }).count := by decide +kernel
theorem test_heartbeat : ((aft (.trayHeartbeat 3) (onPin [{ pinS 3 .stream with count := 64 }])).cfg.pins.map (fun y => (y.low, y.count))) = [(true, 0)] ∧
    ((aft (.trayHeartbeat 3) (onPin [{ pinS 3 .stream with count := 63 }])).cfg.pins.map (fun y => y.low)) = [false] := by decide +kernel
theorem test_heartbeat_end : ((aft (.trayHeartbeatEnd 3) (onPin [{ pinS 3 .stream with count := 16, low := true }])).cfg.pins.map (fun y => y.low)) = [false] := by decide +kernel

/-! ### Trust (13_trust.md) -/

def img (svn key : Nat) : Image := ⟨0, key, svn, 0, []⟩
def onImg (k : Nat) : State := modSec onReg (fun x => { x with topsImg := some (img 7 k), patch := some (img 3 1), kt := .valid })
theorem wit_svc : svcFree (onImg 1) ∧ (onFetch).cfg.run ≠ none ∧ taprootUp onFetch = true := ⟨⟨by decide +kernel, by decide +kernel, by decide +kernel, by decide +kernel, by decide +kernel⟩, by decide +kernel, by decide +kernel⟩
theorem test_commit_floor : (aft .commit (onImg 1)).fuses.topsFloor = 7 ∧ (aft .commit (modFuses (onImg 1) (fun f => { f with topsFloor := 9 }))).fuses.topsFloor = 9 ∧ (aft .commit onFetch).sec.waiting = [.commit] := by decide +kernel
theorem test_revoke : (aft .revokeKey0 (onImg 1)).fuses.key0Revoked = true ∧ (aft .revokeKey0 (onImg 0)).fuses.key0Revoked = false := by decide +kernel
theorem wit_reports : 4 ≤ ((modSec onReg (fun x => { x with waiting := List.replicate 4 (.doe .pf 1 0xFF 0 []) })).sec.waiting.filter (fun r => sameTransport (.doe .pf 1 0xFF 0 []) r)).length ∧ fnLive onReg .pf = true := by decide +kernel
theorem test_doe_report : answers (aft (.doeReport .pf ⟨0xFF, 0, [1]⟩) onReg) = [.bytes 0x41 [3, 0, 0, 0]] ∧ answers (aft (.doeReport (.vf 0) ⟨1, 0, List.replicate 32 0⟩) onReg) = [.bytes 0x41 [2, 0, 0, 0]] ∧
    answers (aft (.doeReport .pf ⟨5, 0, List.replicate 32 0⟩) onReg) = [.bytes 0x41 [1, 0, 0, 0]] := by decide +kernel
theorem test_doe_chain : answers (aft (.doeChain ⟨.pf, ⟨0xFF, 0⟩⟩) (modSec onReg (fun x => { x with chain := [9] }))) = [.bytes 0x41 [0, 0, 0, 0, 9]] ∧ answers (aft (.doeChain ⟨(.vf 0), ⟨0xFF, 0⟩⟩) onReg) = [.bytes 0x41 [2, 0, 0, 0]] := by decide +kernel
theorem test_report : (aft (.report ⟨5, 0, List.replicate 32 0⟩) onReg).sec.out = [.report [1, 0, 0, 0]] := by decide +kernel
theorem wit_images : (modSec onReg (fun x => { x with tops := .noImage, imgDone := false, imgFetch := some (0, 3) })).sec.imgFetch = some (0, ([1, 2, 3] : List Byte).length) ∧ ([1, 2, 3] : List Byte).length = (3 : W32).toNat := by decide +kernel
theorem test_img_load : (aft .imgLoad onReg).sec.imgCode = 9 ∧ (aft .imgLoad (modSec onReg (fun x => { x with tops := .noImage }))).sec.imgDone = false := by decide +kernel
theorem test_img_fetch : (aft (.imgFetchComplete [1, 2, 3]) (modSec onReg (fun x => { x with tops := .noImage, imgDone := false, imgFetch := some (0, 3) }))).sec.evImg = true := by decide +kernel
theorem test_recover : (aft .recover onReg).sec.ktCode = 9 ∧ (aft .recover (modSec onReg (fun x => { x with kt := .unrecovered }))).sec.ktDone = false := by decide +kernel
theorem test_kt_fetch : (aft (.ktFetchComplete [1, 2, 3]) (modSec onReg (fun x => { x with kt := .unrecovered, ktDone := false, ktFetch := some 0 }))).sec.kt = .unrecovered := by decide +kernel

/-! Guest certificates. -/

/-- A certificate under the key `idKey`, for a guest whose key is `idKey` too (Table 13.10). -/
def certHead : List Byte := [0x55, 0x47, 0x53, 0x54, 1, 0, 0, 1] ++ List.replicate 32 0 ++ idKey ++ List.replicate 7 0
def cert1 : List Byte := certHead ++ (shake256 64 certHead ++ idSig)
def onAdm : State := modGuest (modCfg onReg (fun c => { c with keys := [idKey, [], [], []] })) 1 (fun x => { x with st := .admitted })
theorem wit_cert : certGood onAdm cert1 = true := by
  have hl : certHead.length = 104 := by decide +kernel
  have h1 : cert1.take 104 = certHead := by rw [cert1, List.take_left' hl]
  have h2 : (cert1.drop 104).take 64 = shake256 64 certHead := by rw [cert1, List.drop_left' hl, List.take_left' (shake_length _)]
  have h3 : (cert1.drop 168).take 114 = idSig := by
    rw [show 168 = 104 + 64 from rfl, ← List.drop_drop, cert1, List.drop_left' hl, List.drop_left' (shake_length _)]; decide +kernel
  have h4 : cert1.length = 282 := by
    have : idSig.length = 114 := by decide +kernel
    simp [cert1, hl, shake_length, this]
  have h5 : ∀ o n, o + n ≤ 104 → (cert1.drop o).take n = (certHead.drop o).take n := by
    intro o n h
    rw [cert1, List.drop_append_of_le_length (by omega), List.take_append_of_le_length (by rw [List.length_drop]; omega)]
  have h6 : cert1.take 4 = [0x55, 0x47, 0x53, 0x54] := by have := h5 0 4 (by omega); simpa using this.trans (by decide +kernel)
  unfold certGood blkField
  rw [h1, h2, h3, h4, h6, h5 4 2 (by omega), h5 7 1 (by omega), h5 97 7 (by omega), h5 24 16 (by omega), h5 6 1 (by omega)]
  have h7 : leNat (List.take 1 (List.drop 6 certHead)) = 0 := by decide +kernel
  have h8 : onAdm.cfg.keys.getD 0 [] = idKey := by decide +kernel
  have h9 : leNat (List.take 2 (List.drop 4 certHead)) = 1 ∧ leNat (List.take 1 (List.drop 7 certHead)) = 1 ∧ leNat (List.take 7 (List.drop 97 certHead)) = 0 ∧
      List.take 16 (List.drop 24 certHead) = List.replicate 16 0 ∧ (List.replicate 16 (0 : Byte)).all (· == 0) = true ∧ idKey.isEmpty = false := by decide +kernel
  rw [h7, h8, h9.1, h9.2.1, h9.2.2.1, h9.2.2.2.1]
  simp only [h9.2.2.2.2.1, h9.2.2.2.2.2, id_verify]
  rfl
def gc : GuestCert := ⟨0, true, List.replicate 16 0, idKey, idKey⟩
def onTrial (age : Nat) : State := modSec onAdm (fun x => { x with trial := vset x.trial 1 (some (gc, List.replicate 32 5, age)) })
theorem wit_trial : edVerify gc.pub ctxGst (shake256 64 (List.replicate 32 5 ++ gc.id)) idSig = true ∧ vget (onTrial 65536).sec.trial 1 = some (gc, List.replicate 32 5, 65536) ∧
    (onTrial 65536).cfg.keys.getD gc.issuer [] = gc.issuerKey := ⟨id_verify _ _, by decide +kernel, by decide +kernel⟩
theorem test_cert_offer : (aft (.guestCertOffer 1 [0]) onAdm).sec.evReject = true ∧ aft (.guestCertOffer 0 [0]) onAdm = onAdm := ⟨by decide +kernel, rfl⟩
theorem test_response : (aft (.guestChallengeResponse 1 idSig) (onTrial 65537)).sec.evReject = true ∧ vget (aft (.guestChallengeResponse 1 idSig) (onTrial 65537)).sec.trial 1 = none := by decide +kernel
theorem test_trial_timeout : (aft (.guestChallengeTimeout 1) (onTrial 65536)).sec.evReject = true ∧ (aft (.guestChallengeTimeout 1) (onTrial 65535)).sec.evReject = false := by decide +kernel

/-! Watching Tops. -/

theorem wit_watch : onReg.tick % 2 ^ 16 = 0 ∧ onReg.flt.heartbeat = onReg.flt.lastBeat ∧ onReg.flt.topsCount ≤ 2 ∧ topsMay onReg .telemetry true 0 0x500038 = true ∧ topsMay onReg .fuses false 0 0 = false := by decide +kernel
theorem test_heartbeat_check : (aft .heartbeatCheck onReg).sec.tops = .restarting ∧ (aft .heartbeatCheck (modFlt onReg (fun f => { f with heartbeat := 1 }))).flt.lastBeat = 1 := by decide +kernel
theorem test_bus_access : (aft (.topsBusAccess .fuses none 0 0x77) onReg).flt.waiting.map (fun r => (r.cls, r.address)) = [(0x41, 0x77)] ∧ (aft (.topsBusAccess .telemetry (some 0) 0 0x500038) onReg).flt.heartbeat = 1 := by decide +kernel
theorem test_hub_mem : (aft (.hubMemUncorrectable .rom) onReg).flt.chipCause = 4 ∧ (aft (.hubMemUncorrectable .topsData) onReg).flt.waiting.map (fun r => r.cls) = [0x43] := by decide +kernel

/-! ### Resets (16_faults.md) -/

theorem wit_reset : asksReset 0 2 0 0 1 (.resetContext 0 2) ∧ asksReset 0 2 0 0 4 (.resetPartition 0) ∧ mayReset onReg 1 0 2 ∧ mayReset onReg 2 0 0 ∧ mayReset onReg 3 0 0 ∧ mayReset onReg 4 0 0 ∧
    waitsOnStream onReg 0 = false ∧ waitsOnStream onFetch 0 = true ∧ targetOwned onReg 3 1 = false ∧ resetContains onReg ⟨3, 0, 0, false, 1, false⟩ 4 0 0 = false :=
  ⟨Or.inl ⟨rfl, rfl⟩, Or.inr (Or.inr (Or.inr ⟨rfl, rfl⟩)), ⟨by decide +kernel, by decide +kernel, by decide +kernel, by decide +kernel⟩, ⟨by decide +kernel, by decide +kernel, by decide +kernel, by decide +kernel⟩,
    ⟨by decide +kernel, by decide +kernel, by decide +kernel, by decide +kernel⟩, ⟨by decide +kernel, by decide +kernel, by decide +kernel, by decide +kernel⟩, by decide +kernel, by decide +kernel, by decide +kernel, by decide +kernel⟩
theorem test_reset_context : (getCtx (aft (.resetContext 0 0) onReg) 0 0).st = .halted ∧ (aft (.resetContext 4 0) onReg).flt.stCode = 2 := by decide +kernel
theorem test_reset_core : (aft (.resetCore 0) onReg).flt.run = some ⟨2, 0, 0, false, 1, false⟩ := by decide +kernel
theorem test_reset_region : (getCtx (aft (.resetRegion 0) onReg) 1 0).st = .halted := by decide +kernel
theorem test_reset_partition : (aft (.resetPartition 0) onReg).flt.run = some ⟨4, 0, 0, false, 1, false⟩ ∧ (aft (.resetPartition 0) onFetch).flt.held = [⟨4, 0, 0, false, 0, false⟩] := by decide +kernel
def onReset (u : Nat) : State := modFlt onReg (fun f => { f with run := some ⟨u, 0, 0, false, 1, false⟩ })
theorem wit_reset_ends : drained (onReset 4) ⟨4, 0, 0, false, 1, false⟩ = true ∧ drained (onReset 1) ⟨1, 0, 0, false, 1, false⟩ = true ∧ (onReset 4).flt.held = [] ∧
    drained (modCore (onReset 4) 0 (fun m => { m with reqs := [⟨1, 9, 0, 64, 64, [], 0, 0⟩] })) ⟨4, 0, 0, false, 1, false⟩ = false := by decide +kernel
theorem test_reset_complete : (aft .resetComplete (onReset 3)).flt.hist = [⟨3, 0, 0⟩] ∧ (getRegion (aft .resetComplete (onReset 3)) 0).power = .asleep ∧ (aft .resetComplete (onReset 4)).flt.run.isSome = true := by decide +kernel
theorem test_partition_drained : (aft .partitionResetDrained (onReset 4)).flt.run = none ∧ (getPst (aft .partitionResetDrained (onReset 4)) 0).evReset = true := by decide +kernel
theorem wit_chip : onReg.hub.powered = true ∧ onReg.hub.phase ∉ [Phase.noVaux, .noVin, .perst] ∧ (modHub onReg (fun h => { h with booting := true, bootAge := 2 ^ 24 })).hub.booting = true := by decide +kernel
theorem test_reset_chip : (aft .resetChip onReg).flt.chipCause = 1 ∧ (getPart (aft .resetChip onReg) 0).live = false := by decide +kernel
theorem test_power_cycle : (aft .resetPowerCycle onReg).hub.cycleReq = true ∧ (aft .resetPowerCycle onReg).flt.stUnit = 6 := by decide +kernel
theorem test_chip_timeout : (aft .chipResetTimeout (modHub onReg (fun h => { h with booting := true, bootAge := 2 ^ 24 }))).hub.cycleReq = true ∧
    (aft .chipResetTimeout (modHub onReg (fun h => { h with booting := true, bootAge := 2 ^ 24 - 1 }))).hub.cycleReq = false := by decide +kernel
theorem test_reset_request : (aft (.resetRequest 3 0 0) onReg).sec.out = [.answer 0] ∧ (aft (.resetRequest 6 0 0) onReg).sec.out = [.answer 1] := by decide +kernel
end Sys2Proof.Tests

/-! ### Power, clocks and temperature (14_power_clocks.md, 15_thermal.md) -/

namespace Sys2Proof.Tests

theorem wit_tops : topsRuns onReg = true ∧ topsRuns State.reset = false := by decide +kernel
/-- R333: 500 W and 2,500 W are in range, 499 W and 2,501 W are not. -/
theorem test_cap_write : (aft (.pwrCapWrite 500) onReg).pwr.cap = 500 ∧ (aft (.pwrCapWrite 499) onReg).pwr.cap = 2500 ∧ (aft (.pwrCapWrite 2501) (aft (.pwrCapWrite 600) onReg)).pwr.cap = 600 := by decide +kernel
theorem test_power_cap : (aft (.powerCap 1000) onReg).pwr.cap = 1000 ∧ (aft (.powerCap 1000) onReg).sec.out = [.answer 0] ∧ (aft (.powerCap 2501) onReg).sec.out = [.answer 1] := by decide +kernel
theorem test_set_power_cap : (aft (.setPowerCap 700) onReg).pwr.cap = 700 ∧ (aft (.setPowerCap 700) onReg).resps = [.bytes respMgmt [0, 0, 0, 0]] := by decide +kernel
/-- R334: 20 to 250 W. -/
theorem test_ramp_write : (aft (.pwrRampWrite 20) onReg).pwr.ramp = 20 ∧ (aft (.pwrRampWrite 251) (aft (.pwrRampWrite 30) onReg)).pwr.ramp = 30 := by decide +kernel

/-- Region 0, Awake at level 10 with a partition whose envelope is 100 W. -/
def onPow (l : Nat) (c : Nat) : State :=
  modPwr (modThm (modPart (modRegion onReg 0 (fun g => { g with level := l, ceil := 28 })) 0 (fun p => { p with env := some ⟨100, 1400, 350, 250⟩ }))
    (fun t => { t with ceil := vset t.ceil 0 c })) (fun p => { p with hold := false })
theorem wit_round : hubRuns (onPow 10 28) = true ∧ (getRegion (onPow 10 28) 0).power = .awake ∧ partOfRegion (onPow 10 28) 0 = some 0 ∧ (getRegion (onPow 10 28) 1).power = .asleep ∧
    10 * (onPow 10 28).pwr.cap < 25001 ∧ brakeOn (onPow 10 28) = false := by decide +kernel
/-- A step of 50 MHz up where nothing limits; at the ceiling none; down where the package stands over its cap. -/
theorem test_round_up : (getRegion (aft (.controlRound [500] 1000 12000 0) (onPow 10 28)) 0).level = 11 ∧ (getRegion (aft (.controlRound [500] 1000 12000 0) (onPow 12 12)) 0).level = 12 ∧
    (getRegion (aft (.controlRound [500] 1000 12000 0) (onPow 12 9)) 0).level ≤ 9 := by decide +kernel
theorem test_round_cap : (aft (.controlRound [500] 25001 12000 0) (onPow 10 28)).pwr.evCapLimit = true ∧ (getRegion (aft (.controlRound [1001] 1000 12000 0) (onPow 10 28)) 0).level ≤ 10 := by decide +kernel
theorem wit_brake : brakeOn (onPow 10 28) = false ∧ (modPwr (onPow 10 28) (fun p => { p with pin := true })).pwr.vinLow = false ∧
    (modPwr (onPow 10 28) (fun p => { p with pin := true, vinLow := true })).pwr.vinLow = true := by decide +kernel
theorem test_brake : (getRegion (aft .brakeAssert (onPow 10 28)) 0).level = 7 ∧ (aft .brakeAssert (onPow 10 28)).pwr.evBrake = true := by decide +kernel
theorem test_brake_release : (aft .brakeRelease (aft .brakeAssert (onPow 10 28))).pwr.hold = true ∧ (aft .brakeHoldEnd (aft .brakeRelease (aft .brakeAssert (onPow 10 28)))).pwr.hold = false := by decide +kernel

/-- Region 1 in a power state, for some ticks, with no work. -/
def onRegion (p : PState) (ticks : Nat) : State :=
  modPwr (modRegion onReg 1 (fun g => { g with power := p, dozeTicks := ticks, level := 20 })) (fun w => { w with doze := 64, sleep := 4096 })
theorem wit_doze : (getRegion (onRegion .awake 0) 1).power = .awake ∧ (onRegion .awake 0).pwr.doze ≠ 0 ∧ regionIdle (onRegion .awake 0) 1 = true ∧ regionIdle (onRegion .awake 0) 0 = false := by decide +kernel
theorem test_doze : (getRegion (aft (.dozeEntry 1) (onRegion .awake 0)) 1).power = .dozing ∧ aft (.dozeEntry 0) (onRegion .awake 0) = onRegion .awake 0 := ⟨by decide +kernel, rfl⟩
theorem wit_sleep : (getRegion (onRegion .dozing 4096) 1).power = .dozing ∧ (onRegion .dozing 4096).pwr.sleep ≠ 0 ∧ (onRegion .dozing 4096).pwr.sleep ≤ (getRegion (onRegion .dozing 4096) 1).dozeTicks ∧
    regionIdle (onRegion .dozing 4096) 1 = true ∧ (getRegion (onRegion .dozing 4095) 1).dozeTicks < (onRegion .dozing 4095).pwr.sleep := by decide +kernel
theorem test_sleep : (getRegion (aft (.sleepEntry 1) (onRegion .dozing 4096)) 1).volt = 200 ∧ (getRegion (aft (.sleepEntry 1) (onRegion .dozing 4095)) 1).power = .dozing := by decide +kernel
theorem wit_wake : (getRegion (onRegion .waking 0) 1).power = .waking ∧ (∀ k ∈ regionCores 1, (getCore (onRegion .waking 0) k).notices = [] ∧ (getCore (onRegion .waking 0) k).nsl.test = none) ∧
    (onRegion .waking 0).hub.waitAcc = [] := by decide +kernel
theorem test_wake : (getRegion (aft (.wakeComplete 1) (onRegion .waking 0)) 1).power = .awake ∧ (getRegion (aft (.wakeComplete 1) (onRegion .waking 0)) 1).level = 7 := by decide +kernel
/-- Stack 3 has no page in use. -/
def onIdleStack (n : Nat) : State := modStack onReg 3 (fun t => { t with idleTicks := n, selfRef := false })
theorem wit_self_refresh : stackUnused (onIdleStack 1024) 3 = true ∧ 1024 ≤ (vget (onIdleStack 1024).stks 3).idleTicks ∧ stackUnused (modHst onReg (fun h => { h with barOn := true })) 3 = false := by decide +kernel
theorem test_self_refresh : (getStack (aft (.stackSelfRefreshEntry 3) (onIdleStack 1024)) 3).selfRef = true ∧ (getStack (aft (.stackSelfRefreshEntry 3) (onIdleStack 1023)) 3).selfRef = false := by decide +kernel
theorem test_self_refresh_exit : (getStack (aft (.stackSelfRefreshExit 3) (modStack (modHst onReg (fun h => { h with barOn := true })) 3 (fun t => { t with selfRef := true }))) 3).selfRef = false := by decide +kernel

/-! Clocks. -/

/-- A window of HCLK at 1,000 MHz counts 10,240; 7,680 and 12,800 stand at the bounds. -/
theorem wit_window_good : countGood (clkMhz onReg .hclk) 10240 ∧ countGood (clkMhz onReg .hclk) 7680 ∧ countGood (clkMhz onReg .hclk) 12800 ∧ ¬ countGood (clkMhz onReg .hclk) 7679 ∧ ¬ countGood (clkMhz onReg .hclk) 12801 := by
  unfold countGood; decide +kernel
theorem test_window_good : (aft (.clockMonitorWindow dieHub [(.hclk, 7679)]) onReg).clk.bad = [(dieHub, .hclk)] ∧ (aft (.clockMonitorWindow dieHub [(.hclk, 7680)]) onReg).clk.bad = [] := by decide +kernel
theorem wit_aclk : coreClocked onReg (coreOf 0 0) = true ∧ (getRegion onReg 0).moved = false := by decide +kernel
theorem test_aclk : (getRegion (aft (.clockMonitorWindow 0 [(.aclk 0, 0)]) onReg) 0).onBackup = true ∧ (aft (.clockMonitorWindow 0 [(.aclk 0, 0)]) onReg).flt.waiting.map (fun r => r.cls) = [0x23] := by decide +kernel
theorem test_sysref : (aft (.clockMonitorWindow dieHub [(.sysref, 0)]) onReg).hub.phase = .sysref ∧ (aft (.clockMonitorWindow dieHub [(.hclk, 0)]) onReg).flt.chipCause = 6 := by decide +kernel
theorem wit_die_clock : onReg.flt.severed.getLsbD 23 = false ∧ onReg.cfg.run = none := by decide +kernel
theorem test_die_clock : (aft (.clockMonitorWindow 23 [(.fclk, 0)]) onReg).flt.severed.getLsbD 23 = true := by decide +kernel
theorem wit_rail : (getRegion onReg 5).railOk = true := by decide +kernel
theorem test_rail : (aft (.regionRailFault 5) onReg).flt.waiting.map (fun r => (r.cls, r.region)) = [(0x25, 5)] := by decide +kernel
theorem wit_restored : (modHub onReg (fun h => { h with phase := .sysref })).hub.phase = .sysref := by decide +kernel
theorem test_restored : (aft .sysrefRestored (modHub onReg (fun h => { h with phase := .sysref }))).hub.phase = .start := by decide +kernel
/-- The trim (R346): 102,400 counts are exact; the code stands still to 51 off and TRIMMED takes four windows to 102 off. -/
def onTrim (w c : Nat) : State := modClk onReg (fun k => { k with sysref := true, wins := w, code := c, trimmed := false })
theorem wit_trim : (onTrim 3 512).clk.sysref = true ∧ (onTrim 3 512).clk.wins ≤ 4 ∧ (onTrim 3 512).clk.code < 1024 ∧ (modClk onReg (fun k => { k with sysref := false })).clk.sysref = false := by decide +kernel
theorem test_trim : (aft (.trimWindow 102298) (onTrim 3 512)).clk.trimmed = true ∧ (aft (.trimWindow 102297) (onTrim 3 512)).clk.wins = 0 ∧ (aft (.trimWindow 102451) (onTrim 2 512)).clk.code = 512 ∧
    (aft (.trimWindow 102451) (onTrim 2 512)).clk.trimmed = false := by decide +kernel

/-! Temperature. -/

def onThm (tick : Nat) : State := { onReg with tick := tick }
/-- Before phase D the sensors are read for the shutdown alone. -/
def onEarly (tick : Nat) : State := modHub (onThm tick) (fun h => { h with phase := .c })
def onFast : State := modSensor (onThm 64) 300 (fun x => { x with fast := true })
theorem wit_reading : readMode onFast = .full ∧ onFast.tick % 64 = 0 ∧ onFast.tick % 1024 ≠ 0 ∧ (vget onFast.thm.sensors 300).fast = true ∧ readMode (onEarly 64) = .shutdownOnly ∧
    readMode (onThm 1024) = .full ∧ readMode (modHub onReg (fun h => { h with vin := false })) = .none := by decide +kernel
/-- -40 °C and 150 °C are valid, an eighth of a kelvin beyond is not (R349). -/
theorem test_reading : (getSensor (aft (.sensorRead [⟨300, some (-320), 10000⟩]) (onEarly 64)) 300).valid = true ∧ (getSensor (aft (.sensorRead [⟨300, some 1201, 10000⟩]) (onEarly 64)) 300).valid = false ∧
    (getSensor (aft (.sensorRead [⟨300, some 0, 99⟩]) (onEarly 64)) 300).valid = false := by decide +kernel
/-- R357: a round raises a ceiling by 50 MHz where the sources with 2 K more would allow it, and lowers it at once. -/
def onCeil (c : Nat) (temp : Int) : State := modSite (modThm (onThm 1024) (fun t => { t with ceil := vset t.ceil 0 c, ceils := vset t.ceils 0 #v[28, 28, 28, c, 28, 28, 28] })) 0 (fun x => { x with val := some temp })
theorem test_round : vget (regionCeil true (onCeil 20 700) 0).thm.ceil 0 = 21 ∧ vget (regionCeil true (onCeil 26 800) 0).thm.ceil 0 = 18 ∧ vget (regionCeil false (onCeil 20 700) 0).thm.ceil 0 = 20 := by decide +kernel
theorem test_no_round : aft (.housekeepingRound []) (onThm 1023) = onThm 1023 ∧ aft (.housekeepingRound []) (onEarly 1024) = onEarly 1024 := ⟨rfl, rfl⟩
theorem wit_no_reading : onReg.tick % 1024 = 0 ∧ (onThm 63).tick % 64 ≠ 0 ∧ (vget (onThm 64).thm.sensors 7).fast = false := by decide +kernel
theorem test_unmask : (getSensor (aft (.thmUnmask 300) (modSensor onReg 300 (fun x => { x with masked := true }))) 300).masked = false ∧ (getSensor (modSensor onReg 300 (fun x => { x with masked := true })) 300).masked = true := by decide +kernel
/-- R356 around the point of 85 °C: 85, 85.125, 86, 86.125 and 97 °C. -/
theorem test_throttle_points : [680, 681, 688, 689, 776].map (fun t => throttleCeil t 680 * 50) = [1400, 1300, 1300, 1200, 350] := by decide +kernel
def onInlet (t : Option Int) : State := modSite onReg 250 (fun x => { x with val := t })
theorem wit_inlet : siteVal (onInlet none) siteInlet = none ∧ siteVal (onInlet (some 360)) siteInlet = some 360 := by decide +kernel
theorem test_inlet : [280, 281, 360, 361].map (fun t => inletCeil (onInlet (some t)) 0 * 50) = [1400, 1300, 400, 350] := by decide +kernel
/-- Twins 0 and 1 of region 0's logic site. -/
def onTwin (a b : Bool) : State := modSensor (modSensor onReg 0 (fun x => { x with valid := !a, temp := 100, masked := a })) 1 (fun x => { x with valid := !b, temp := 300, masked := b })
theorem wit_twin : siteSensors (0 : Fin 251).val = [0, 1] ∧ siteSensors (32 : Fin 251).val = [2] ∧ (getSensor (onTwin true false) 0).masked = true ∧ (getSensor (onTwin false true) 1).masked = true ∧ (getSensor (onTwin false false) 0).masked = false := by decide +kernel
theorem test_twin : siteReads (onTwin false false) 0 = some 300 ∧ siteReads (onTwin false true) 0 = some 124 ∧ siteReads (onTwin true false) 0 = some 324 := by decide +kernel
def onFlow (tick : Nat) (stopped : Bool) : State := modThm (onThm tick) (fun t => { t with flowOn := true, ppl := 10, flowSince := 0, stopped := stopped })
theorem wit_flow : (onFlow 2048 false).thm.flowOn = true ∧ (onFlow 2048 false).thm.ppl ≠ 0 ∧ (onFlow 2048 false).thm.flowSince + 2048 ≤ (onFlow 2048 false).tick ∧ (onFlow 2048 false).thm.stopped = false ∧
    (onFlow 2047 false).tick < (onFlow 2047 false).thm.flowSince + 2048 := by decide +kernel
theorem test_flow_stop : (aft .flowStop (onFlow 2048 false)).thm.emergency = true ∧ (aft .flowStop (onFlow 2047 false)).thm.emergency = false := by decide +kernel
theorem test_flow_pulse : (aft .flowPulse (onFlow 2048 true)).thm.stopped = false := by decide +kernel
def onTrip : State := modThm onReg (fun t => { t with latch := true, tripSensor := 7 })
theorem wit_trip : onTrip.thm.latch = true ∧ onTrip.hub.powered = true ∧ (modHub onTrip (fun h => { h with vin := false })).hub.vin = false := by decide +kernel
theorem test_rails_off : (aft .shutdownRailsOff onTrip).hub.powered = false ∧ (aft .shutdownRailsOff onTrip).thm.tripSensor = 7 := by decide +kernel
theorem wit_life : (onThm (2 ^ 30)).tick % 2 ^ 30 = 0 ∧ (onThm (2 ^ 30)).sec.tops = .running ∧ (onThm 1).tick % 2 ^ 30 ≠ 0 := by decide +kernel
theorem test_life : (aft .lifeSave (onThm (2 ^ 30))).sec.out.length = 1 ∧ (aft .lifeSave (onThm 1)).sec.out = [] := by decide +kernel
end Sys2Proof.Tests

/-! ### Dies, die links and bring-up (16_faults.md, 17_package.md), and images (13_trust.md) -/

namespace Sys2Proof.Tests

/-- A Tops image of 8 body bytes, with SVN 7, under production key 0. -/
def imgHead : List Byte := [0x55, 0x49, 0x4D, 0x47, 2, 0, 0, 0, 7, 0, 0, 0, 1, 0, 0, 0, 8, 0, 0, 0] ++ List.replicate 44 0 ++ List.replicate 8 9
def img1 : List Byte := imgHead ++ (shake256 64 imgHead ++ idSig)
/-- The image is good but for its signature, which the production key decides. -/
theorem wit_image : imgCheck onReg 2 true img1 = if edVerify (Config.imageKey 0) ctxImg (shake256 64 imgHead) idSig then 0 else 5 := by
  have hl : imgHead.length = 72 := by decide +kernel
  have hs : idSig.length = 114 := by decide +kernel
  have h1 : img1.take 72 = imgHead := by rw [img1, List.take_left' hl]
  have h2 : (img1.drop 72).take 64 = shake256 64 imgHead := by rw [img1, List.drop_left' hl, List.take_left' (shake_length _)]
  have h3 : (img1.drop 136).take 114 = idSig := by
    rw [show 136 = 72 + 64 from rfl, ← List.drop_drop, img1, List.drop_left' hl, List.drop_left' (shake_length _)]; decide +kernel
  have h4 : img1.length = 250 := by simp [img1, hl, shake_length, hs]
  have h5 : ∀ o n, o + n ≤ 72 → (img1.drop o).take n = (imgHead.drop o).take n := by
    intro o n h
    rw [img1, List.drop_append_of_le_length (by omega), List.take_append_of_le_length (by rw [List.length_drop]; omega)]
  have hb : ∀ o n, o + n ≤ 72 → blkField img1 o n = blkField imgHead o n := fun o n h => by unfold blkField; rw [h5 o n h]
  have h6 : img1.take 4 = [0x55, 0x49, 0x4D, 0x47] := by have := h5 0 4 (by omega); simpa using this.trans (by decide +kernel)
  have h7 : imgBodyLen img1 = 8 := by unfold imgBodyLen; rw [hb _ _ (by omega)]; decide +kernel
  have h8 : imgSvn img1 = 7 := by unfold imgSvn; rw [hb _ _ (by omega)]; decide +kernel
  have h9 : imgHeaderOk 2 true img1 = true := by
    unfold imgHeaderOk; rw [h7, h8, h4, hb 4 1 (by omega), hb 5 1 (by omega), hb 6 2 (by omega), hb 24 40 (by omega), hb 20 4 (by omega)]; decide +kernel
  have h10 : blkField img1 5 1 = 0 := by rw [hb _ _ (by omega)]; decide +kernel
  have h11 : onReg.fuses.key0Revoked = false ∧ onReg.fuses.topsFloor = 0 := by decide +kernel
  unfold imgCheck
  rw [h6, h7, h8, h9, h10, h11.1, h11.2]
  simp only [show 64 + 8 = 72 from rfl, show 128 + 8 = 136 from rfl, h1, h2, h3]
  simp
  split <;> simp_all

/-! Dies and their links. -/

theorem wit_die : resettable onReg 7 = false ∧ resettable onReg 18 = true ∧ resettable onReg 19 = false ∧ resettable onReg 3 = true ∧ (modFlt onReg (fun f => { f with run := some ⟨7, 16, 0, false, 1, false⟩ })).flt.run = some ⟨7, 16, 0, false, 1, false⟩ ∧
    onReg.flt.run = none ∧ onReg.cfg.run = none ∧ dependsOn onReg 0 0 = true ∧ dependsOn onReg 0 1 = false ∧ onReg.flt.severed.getLsbD 0 = false := by decide +kernel
theorem test_die_reset : (aft (.resetDie 7) onReg).flt.stCode = 2 ∧ (aft (.resetDie 0) (modFlt onReg (fun f => { f with run := some ⟨7, 16, 0, false, 1, false⟩ }))).flt.stCode = 1 := by decide +kernel
theorem test_die_resets : (aft (.resetDie 18) onReg).flt.run = some ⟨7, 18, 0, false, 1, false⟩ ∧ (aft (.resetDie 18) onReg).flt.severed.getLsbD 18 = true ∧ (getCtx (stopCore onReg 0) 0 0).st = .halted := by decide +kernel

/-- Bundle 0 of pair 18, the hub pair of tile 0, in a state, with its spares and its lost lanes. -/
def onBun (st : BunSt) (half : Bool) (a b : Option Nat) (lanes : List Nat) : State :=
  modPair22 onReg 18 (fun p => { p with bundles := vmod p.bundles 0 (fun x => { x with st := st, half := half, sp32 := a, sp33 := b, lanes := lanes, rx := vset x.rx 1 (5, true) }) })
def bun (s : State) : Bundle := bundleAt s 18 0
/-- A flit of zeros with its header (Table 17.10). -/
def dlFlit (low crc : Nat) : List Byte := List.replicate 256 0 ++ leBytes 4 low ++ leBytes 4 crc
def dataFlit : List Byte := dlFlit 0x500040 2953213298
def nakFlit : List Byte := dlFlit 0x80 2096154144
theorem dl_good {f : List Byte} (h : f.length = 264 ∧ (crcS 0xEDB88320 (f.take 260) 0xFFFFFFFF ^^^ 0xFFFFFFFF).toNat = leNat ((f.drop 256).take 8) / 2 ^ 32) :
    f.length = 264 ∧ (crc32 (f.take 260)).toNat = leNat ((f.drop 256).take 8) / 2 ^ 32 := by
  rw [crcS_eq] at h; exact h
theorem wit_dl_data : (dataFlit.length = 264 ∧ (crc32 (dataFlit.take 260)).toNat = leNat ((dataFlit.drop 256).take 8) / 2 ^ 32) ∧ (leNat ((dataFlit.drop 256).take 8) / 64) % 4 = 1 ∧
    (leNat ((dataFlit.drop 256).take 8) / 2 ^ 20) % 4096 = 5 ∧ (vget (bun (onBun .full false none none [])).rx 1).1 = 5 ∧ (vget (bun (onBun .full false none none [])).rx 0).1 = 0 :=
  ⟨dl_good (by decide +kernel), by decide +kernel, by decide +kernel, by decide +kernel, by decide +kernel⟩
theorem wit_dl_nak : (nakFlit.length = 264 ∧ (crc32 (nakFlit.take 260)).toNat = leNat ((nakFlit.drop 256).take 8) / 2 ^ 32) ∧ (leNat ((nakFlit.drop 256).take 8) / 64) % 4 = 2 :=
  ⟨dl_good (by decide +kernel), by decide +kernel⟩
theorem wit_carries : carries (onBun .full false none none []) 18 0 ∧ carries (onBun .half true none none []) 18 0 ∧ ¬ carries onReg 18 0 ∧ ¬ carries (onBun .full false none none []) 18 2 := by
  refine ⟨⟨by decide +kernel, .inl (by decide +kernel)⟩, ⟨by decide +kernel, .inr (by decide +kernel)⟩, fun h => ?_, fun h => absurd h.1 (by decide +kernel)⟩
  exact absurd h.2 (by decide +kernel)
/-- A short flit is bad; all its check words fail, and all but one lane's hold. -/
theorem wit_dl_bad : badLanes (bun (onBun .full false none none [])) [1] [] = [0] ∧ badLanes (bun (onBun .full false none none [])) [] [] = [] := by decide +kernel
theorem test_dl_bad : (bun (aft (.dlFlitReceive 18 0 1 [] []) (onBun .full false none none []))).crc = 1 ∧ (vget (bun (aft (.dlFlitReceive 18 0 0 [] []) (onBun .full false none none []))).rx 0).2 = true := by decide +kernel
/-- Each clause of Table 16.8. -/
theorem wit_lanes : (3 : Fin 34).val ∉ (bun (onBun .full false (some 9) (some 8) [9, 8])).lanes ∧ (bun (onBun .full false none none [])).sp32 = none ∧ (bun (onBun .full false (some 9) none [9])).sp33 = none ∧
    33 ∉ (bun (onBun .full false (some 9) none [9])).lanes ∧ (bun (onBun .half true (some 9) (some 8) [9, 8, 20])).half = decide ((3 : Fin 34).val < 16) ∧
    (bun (onBun .half false (some 9) (some 8) [9, 8, 20])).half ≠ decide ((3 : Fin 34).val < 16) ∧
    (bundleAt (modPair22 (onBun .half false (some 9) (some 8) [9, 8, 20]) 18 (fun p => { p with bundles := vmod p.bundles 1 (fun x => { x with st := .full }) })) 18 1).st ≠ .out ∧
    (bundleAt (modPair22 (onBun .half false (some 9) (some 8) [9, 8, 20]) 18 (fun p => { p with bundles := vmod p.bundles 1 (fun x => { x with st := .out }) })) 18 1).st = .out ∧ bundlesOf 18 = 2 := by decide +kernel
def bst (s : State) : BunSt × Option Nat × Option Nat := ((bun s).st, (bun s).sp32, (bun s).sp33)
theorem test_lane_lost : bst (aft (.dlLaneLockLoss 18 0 (some 3)) (onBun .full false none none [])) = (.full, some 3, none) ∧ bst (aft (.dlLaneLockLoss 18 0 (some 3)) (onBun .full false (some 9) none [9])) = (.full, some 9, some 3) ∧
    bst (aft (.dlLaneLockLoss 18 0 (some 3)) (onBun .full false (some 9) (some 8) [9, 8])) = (.half, some 9, some 8) ∧ (bst (aft (.dlLaneLockLoss 18 0 (some 3)) (onBun .half false (some 9) (some 8) [9, 8, 20]))).1 = .out := by decide +kernel
theorem test_clock_lost : (bun (aft (.dlLaneLockLoss 18 0 none) (onBun .full false none none []))).st = .out := by decide +kernel
theorem wit_bundle_training : (0 : Fin 8).val < bundlesOf (18 : Fin 22).val ∧ (bun (onBun .full false none none [])).st ≠ .untrained ∧ (bun onReg).st = .untrained ∧ onReg.flt.run = none ∧ onReg.fuses.lanes = [] ∧ (bun onReg).lanes = [] := by decide +kernel
theorem test_retrain : (bun (aft (.bundleRetrain 18 0) (onBun .full false none none []))).st = .untrained ∧ (bun (aft (.bundleFull 18 0) (onBun .half false none none []))).again = true := by decide +kernel
theorem test_trained : (bun (aft (.bundleTrainComplete 18 0 .locked []) onReg)).st = .full ∧ (bun (aft (.bundleTrainComplete 18 0 .fallback [4]) onReg)).sp32 = some 4 ∧ (bun (aft (.bundleTrainComplete 18 0 .none []) onReg)).st = .out := by decide +kernel

/-! Supplies and phases. -/

def onHub (f : Hub → Hub) : State := modHub onReg f
def at' (p : Phase) : State := onHub (fun h => { h with phase := p })
theorem wit_supplies : (onHub (fun h => { h with vaux := false })).hub.vaux = false ∧ onReg.hub.vaux = true ∧ (onHub (fun h => { h with vin := false })).hub.vin = false ∧ onReg.hub.vin = true ∧
    onReg.hub.powered = true ∧ (at' .perst).hub.phase = .perst := by decide +kernel
theorem test_vaux : (aft .vauxUp (onHub (fun h => { h with vaux := false }))).hub.phase = .noVin ∧ (aft .vauxLoss onReg).hub.powered = false := by decide +kernel
theorem test_vin : (aft .vinUp (onHub (fun h => { h with vin := false, powered := false }))).hub.phase = .perst ∧ (aft .vinUp (onHub (fun h => { h with vin := false, powered := false, needCycle := true }))).hub.powered = false ∧
    (aft .vinFail onReg).hub.needCycle = true := by decide +kernel
theorem test_vin_below : (aft .vinBelow6v (onHub (fun h => { h with needCycle := true }))).hub.needCycle = false := by decide +kernel
theorem test_perst : (aft .perstAssert onReg).flt.chipCause = 9 ∧ (aft .perstRelease (at' .perst)).hub.booting = true := by decide +kernel
def noFlash : Flash := ⟨[], [], [], [], [], [], [], [], idPrefix⟩
theorem wit_phases : (at' .start).hub.phase = .start ∧ onReg.hub.phase ≠ .start ∧ (at' .a).flt.chipCounted = false ∧
    (bootChain (at' .a) noFlash).sec.topsImg = none ∧ onReg.hub.phase ≠ .a ∧ onReg.hub.phase ∉ [Phase.noVaux, .noVin, .perst] := by decide +kernel
/-- Every bundle has been trained. -/
def onTrained (p : Phase) : State :=
  { at' p with pairs := (at' p).pairs.map (fun q => { q with bundles := q.bundles.map (fun x => { x with st := .full }) })
               hub := { (at' p).hub with fieldWait := false } }
theorem wit_phase_c : (∀ k, k < 22 → pairPresent (onTrained .b) k = true → pairUntrained (onTrained .b) k = false) ∧ (onTrained .b).hub.phase = .b ∧
    (modThm (onTrained .b) (fun t => { t with tripValid := true })).thm.tripValid = true := by decide +kernel
theorem wit_phase_d : (onTrained .c).hub.phase = .c ∧ (onTrained .c).hub.fieldWait = false ∧ (vget onReg.fuses.cores 0).length = 4 ∧ (onTrained .d).hub.phase = .d ∧ onReg.clk.enLink.getLsbD 2 = true := by decide +kernel
theorem wit_phase_f : (onTrained .e).hub.phase = .e ∧ (∀ p : Fin 24, (vget (onTrained .e).ports p).st ≠ .training) ∧ (∀ g : Fin 2, (vget (onTrained .e).guests g).st ≠ .training) ∧ (onTrained .f).hub.phase = .f := by decide +kernel
theorem test_phase_a : (aft .phaseA (at' .start)).hub.phase = .a ∧ (aft .phaseA onReg).hub.phase = .g := by decide +kernel
theorem test_phase_b : (aft (.phaseB noFlash false 1 ⟨4, 6, true⟩) (at' .a)).hub.phase = .noImage ∧ (aft (.phaseB noFlash true 1 ⟨4, 6, true⟩) (at' .a)).hub.cycleReq = true := by
  refine ⟨?_, by decide +kernel⟩
  by_cases h : noFlash.owner = idPrefix
  · simp only [aft, exec, execPhaseB, settingsRead, if_pos h]; decide +kernel
  · simp only [aft, exec, execPhaseB, settingsRead, if_neg h]; decide +kernel
theorem test_phase_c : (aft .phaseC (onTrained .b)).hub.phase = .c ∧ (aft .phaseC (onTrained .b)).hub.fieldWait = true ∧ (aft .phaseC (at' .b)).hub.phase = .b := by decide +kernel
theorem test_phase_d : (aft .phaseD (onTrained .c)).hub.phase = .d ∧ (aft .phaseD (onTrained .c)).clk.enTile = .replicate 4 0x1FF := by decide +kernel
theorem test_phase_e : (aft (.phaseE 0x0F) (onTrained .d)).hub.phase = .e ∧ (aft (.phaseE 0x0F) (onTrained .d)).clk.enStack = 0x0F := by decide +kernel
theorem test_phase_fg : (aft .phaseF (onTrained .e)).hub.phase = .f ∧ (aft .phaseG (onTrained .f)).hub.ready = true := by decide +kernel
def onField (age : Nat) : State := onHub (fun h => { h with phase := .c, fieldWait := true, fieldAge := age })
theorem wit_field : (onField 0).hub.phase = .c ∧ (onField 0).hub.fieldWait = true ∧ (onField 0).cfg.run = none ∧ (onField 0).hub.fieldAge < 2 ^ 20 ∧ 2 ^ 20 ≤ (onField (2 ^ 20)).hub.fieldAge ∧ onReg.hub.phase ≠ .c := by decide +kernel
/-- A record of type 9, one of core 0 of region 32, and one of sensor 300. -/
def recs3 : List Byte := 9 :: List.replicate 15 0 ++ [1, 0, 32, 0] ++ List.replicate 12 0 ++ [7, 0, 0, 0, 0x2C, 1] ++ List.replicate 10 0
theorem test_field : (aft (.fieldRepairCountWord recs3) (onField 0)).sec.out = [.fields [1, 1, 0]] ∧ memReadNat (aft (.fieldRepairCountWord recs3) (onField 0)).sec.dataRam 0x7FFFFC 4 = 3 := by decide +kernel
theorem test_field_timeout : (aft .fieldRepairTimeout (onField (2 ^ 20))).hub.fieldWait = false ∧ (aft .fieldRepairTimeout (onField (2 ^ 20 - 1))).hub.fieldWait = true := by decide +kernel
end Sys2Proof.Tests

/-! ### Guests, the management bus and the whole machine (17_package.md) -/

namespace Sys2Proof.Tests

def onGuest (f : Guest → Guest) : State := modFuses (modGuest onReg 1 f) (fun x => { x with fitted := 2 })
def onTrng : State := onGuest (fun x => { x with st := .training, rail := true })
def onUp : State := onGuest (fun x => { x with st := .admitted, rail := true })
def ident1 : List Byte := [1, 2, 3, 4, 5, 6, 7] ++ List.replicate 57 0
theorem wit_ident : (vget onTrng.guests 1).st = .training ∧ (vget onTrng.guests 1).rail = true ∧ ident1.length = 64 ∧ (∀ v ∈ ident1.drop 7, v = 0) ∧ (vget onUp.guests 1).st ≠ .training ∧
    (∃ v ∈ (ident1.take 63 ++ [1]).drop 7, v ≠ 0) := by decide +kernel
theorem test_ident : (getGuest (aft (.guestIdent 1 ident1 4 2 1) onTrng) 1).ident = [1, 2, 3, 4, 5, 6, 7] ∧ (getGuest (aft (.guestIdent 1 (ident1.take 63 ++ [1]) 4 2 1) onTrng) 1).st = .down := by decide +kernel
theorem test_guest_train_timeout : (getGuest (aft (.guestTrainTimeout 1) onTrng) 1).evDown = true ∧ (getGuest (aft (.guestTrainTimeout 1) onUp) 1).st = .admitted := by decide +kernel
theorem wit_link_down : (vget onUp.guests 1).st = .admitted ∧ onUp.cfg.run = none ∧ onUp.fuses.fitted.getLsbD 1 = true ∧ onUp.fuses.fitted.getLsbD 0 = false ∧ (vget onUp.guests 1).rail = true := by decide +kernel
theorem test_link_down : (getGuest (aft (.guestLinkDown 1) onUp) 1).st = .down ∧ (aft (.guestLinkDown 1) onUp).flt.severed.getLsbD 29 = true := by decide +kernel
theorem test_retrain_guest : (getGuest (aft (.guestRetrain 1) onUp) 1).st = .training := by decide +kernel
theorem test_guest_power : (getGuest (aft (.guestPowerFault 1) onUp) 1).rail = false ∧ (getGuest (aft (.guestPowerFault 1) onUp) 1).st = .down := by decide +kernel

/-! Husk. -/

/-- Window 3 of site 1: 4 KiB at 0, of partition 0's core 0, with a rate of 128 bytes. -/
def onHusk (kind classes : Nat) (budget : Int) (held : List GuestFrame) : State :=
  modSec (modPart (modGuest onUp 1 (fun x => { x with held := held, budget := vset x.budget 3 budget })) 0 (fun p => { p with guestWins := [⟨1, kind, classes, 3, 128, 0, 4096, 0⟩] }))
    (fun x => { x with cert := vset x.cert 1 (some gc) })
def gf (kind w cls addr : Nat) : GuestFrame := ⟨kind, w, cls, 0x77, 0, addr, List.replicate 64 0⟩
theorem wit_husk_cmds : guestCmd 1 (gf 1 3 2 0) (.mboxSend 1 3 2 0x77 0 (List.replicate 64 0)) ∧ guestCmd 1 (gf 7 3 2 0) (.meshMsg 1 3 2 0x77 0 (List.replicate 64 0)) ∧
    guestCmd 1 (gf 5 3 2 64) (.dmaWr 1 3 2 0x77 64 (List.replicate 64 0)) ∧ guestCmd 1 (gf 8 3 1 0) (.guestSyncAdd 1 3 1 0x77 0 (List.replicate 64 0)) ∧ guestCmd 1 (gf 3 3 2 64) (.dmaRd 1 3 2 0x77 64 0) :=
  ⟨.inl ⟨rfl, rfl, rfl⟩, .inr (.inl ⟨rfl, rfl, rfl⟩), .inr (.inr (.inl ⟨rfl, rfl, rfl⟩)), .inr (.inr (.inr (.inl ⟨rfl, rfl, rfl⟩))), .inr (.inr (.inr (.inr ⟨rfl, rfl, 0, rfl, rfl⟩)))⟩
theorem wit_husk : atHusk (onHusk 2 15 128 []) 1 (gf 1 3 2 0) ∧ atHusk (onHusk 2 15 128 []) 1 (gf 5 3 2 4033) ∧ atHusk (onHusk 1 15 128 []) 1 (gf 8 3 1 0) := by
  refine ⟨⟨?_, ?_, ?_, ?_, ?_, ?_, ?_, ?_⟩, ⟨?_, ?_, ?_, ?_, ?_, ?_, ?_, ?_⟩, ⟨?_, ?_, ?_, ?_, ?_, ?_, ?_, ?_⟩⟩ <;> decide +kernel
/-- Each clause: no window 4, a byte beyond the window, a kind and a class that it does not allow, a used-up budget, and a frame that passes. -/
theorem wit_husk_window : huskWindow (onHusk 2 15 128 []) 1 4 = none ∧ (huskWindow (onHusk 2 15 128 []) 1 3).map (fun x => (x.1, x.2.len)) = some (0, 4096) ∧ ¬ (4096 < (gf 5 3 2 4032).addr + (gf 5 3 2 4032).data.length) ∧
    4096 < (gf 5 3 2 4033).addr + (gf 5 3 2 4033).data.length := by decide +kernel
theorem wit_husk_class : kindAllows 1 2 = true ∧ classAllows (gf 1 3 2 0) ⟨1, 2, 3, 3, 128, 0, 4096, 0⟩ = false ∧ kindAllows 8 1 = false ∧ partResetting (onHusk 2 15 128 []) 0 = false ∧
    (match huskCheck (onHusk 2 15 128 []) 1 (gf 1 3 2 0) with | .ok (p, w) => decide (p = 0 ∧ w.window = 3) | .error _ => false) = true := by decide +kernel
theorem wit_husk_budget : vget (vget (onHusk 2 15 0 []).guests 1).budget (Fin.ofNat 32 3) ≤ 0 ∧ 0 < vget (vget (onHusk 2 15 1 []).guests 1).budget (Fin.ofNat 32 3) ∧
    (vget (onHusk 2 15 0 [gf 1 3 2 0]).guests 1).held = [gf 1 3 2 0] ∧ huskFrame (onHusk 2 15 0 [gf 1 3 2 0]) (1 : Fin 2).val (gf 1 3 2 0) = none ∧ frameOk (gf 5 3 2 0) = true := ⟨by decide +kernel, by decide +kernel, by decide +kernel, rfl, by decide +kernel⟩
def errs (s : State) : List (Nat × Nat) := (getGuest s 1).out.map (fun f => (f.kind, f.window))
theorem test_husk_drops : errs (aft (.mboxSend 1 4 2 0x77 0 (List.replicate 64 0)) (onHusk 2 15 128 [])) = [(0x0F, 1)] ∧ errs (aft (.dmaWr 1 3 2 0x77 4033 (List.replicate 64 0)) (onHusk 2 15 128 [])) = [(0x0F, 2)] ∧
    errs (aft (.guestSyncAdd 1 3 1 0x77 0 (List.replicate 64 0)) (onHusk 1 15 128 [])) = [(0x0F, 3)] ∧ errs (aft (.meshMsg 1 3 2 0x77 0 (List.replicate 64 0)) (onHusk 2 3 128 [])) = [(0x0F, 4)] := by decide +kernel
theorem test_husk_held : (getGuest (aft (.mboxSend 1 3 2 0x77 0 (List.replicate 64 0)) (onHusk 2 15 0 [])) 1).held.length = 1 ∧ (getGuest (aft (.dmaWr 1 3 2 0x77 0 (List.replicate 64 0)) (onHusk 2 15 0 [gf 1 3 2 0])) 1).held.length = 2 := by decide +kernel
theorem wit_effects : guestDst (onHusk 2 15 128 []) 0 ⟨1, 2, 15, 3, 128, 0, 4096, 0⟩ (gf 7 3 2 0) = some 0 ∧ (vget (onHusk 2 15 128 []).guests 1).msgs = [] ∧ (vget (onHusk 2 15 128 []).guests 1).dma = [] ∧
    guestObj (onHusk 2 15 128 []) 0 ⟨1, 2, 15, 3, 128, 0, 4096, 0⟩ 5 = some (0, 5) ∧ dmaRanges (getPart onReg 0) true 3 0 0x3FFFC0 64 = some [(0, 0x3FFFC0, 64)] ∧ dmaRanges (getPart onReg 0) true 3 0 0x3FFFC0 128 = none := by decide +kernel
theorem test_husk_messages : (getGuest (aft (.mboxSend 1 3 2 0x77 2 (List.replicate 64 0)) (onHusk 2 15 128 [])) 1).msgs.map (fun m => (m.dst, m.tag)) = [(2, 0x77)] ∧
    (getGuest (aft (.meshMsg 1 3 2 0x77 3 (List.replicate 64 0)) (onHusk 2 15 128 [])) 1).msgs.map (fun m => (m.dst, m.tag)) = [(3, 0x77)] := by decide +kernel
theorem test_husk_memory : (getGuest (aft (.dmaRd 1 3 2 0x77 64 0) (onHusk 2 15 128 [])) 1).dma.map (fun d => (d.read, d.waits)) = [(true, 1)] ∧
    ((getStack (aft (.dmaWr 1 3 2 0x77 64 (List.replicate 64 5)) (onHusk 2 15 128 [])) 0).units.map (fun u => (u.addr, u.len))) = [(64, 64)] ∧ vget (getGuest (aft (.dmaRd 1 3 2 0x77 64 0) (onHusk 2 15 128 [])) 1).budget 3 = 64 := by decide +kernel
theorem test_husk_sync : (aft (.guestSyncAdd 1 3 1 0x77 5 (List.replicate 64 0)) (onHusk 2 15 128 [])).mesh.map (fun f => f.dst) = [.sync 0] := by decide +kernel
def onDma (read : Bool) (waits : Nat) (bad : Bool) : State := modGuest (onHusk 2 15 64 []) 1 (fun x => { x with dma := [⟨9, 0, 3, 0x77, read, [1, 2], waits, bad⟩] })
theorem wit_dma : (vget (onDma true 0 false).guests 1).dma[0]? = some ⟨9, 0, 3, 0x77, true, [1, 2], 0, false⟩ ∧ (vget (onDma true 0 false).guests 1).dma[1]? = none ∧ (vget (onDma true 1 false).guests 1).dma[0]? = some ⟨9, 0, 3, 0x77, true, [1, 2], 1, false⟩ := by decide +kernel
theorem test_dma : (getGuest (aft (.dmaRdData 1 0) (onDma true 0 false)) 1).out = [⟨4, 3, 3, 0x77, 0, 0, [1, 2]⟩] ∧ errs (aft (.dmaRdData 1 0) (onDma true 0 true)) = [(0x0F, 6)] := by decide +kernel
theorem wit_refill : (vget (onHusk 2 15 64 []).guests 1).held = [] ∧ (getPart (onHusk 2 15 64 []) 0).live = true ∧ (getPart (onHusk 2 15 64 []) 0).guestWins.map (fun w => (w.site, w.window)) = [(1, 3)] := by decide +kernel
theorem test_refill : vget (getGuest (aft (.huskBudgetRefill 1) (onHusk 2 15 64 [])) 1).budget 3 = 128 ∧ vget (getGuest (aft (.huskBudgetRefill 1) (onHusk 2 15 (-100) [])) 1).budget 3 = 28 := by decide +kernel

/-! The management bus. -/

def said (s : State) : List (List Byte) := s.resps.map (fun r => match r with | .bytes _ b => b | _ => [])
theorem wit_mgmt : mgmtControl onReg .getEndpointId [0, 0, 0, 0] ∧ mgmtControl onReg (.getPldmCommands 7) [0x83] ∧ topsRuns onReg = true ∧ topsRuns (modSec onReg (fun x => { x with tops := .restarting })) = false :=
  ⟨.inl ⟨rfl, by decide +kernel⟩, by unfold mgmtControl; right; right; right; right; right; right; right; right; right; right; right; left; exact ⟨7, rfl, by decide, by decide, rfl⟩, by decide +kernel, by decide +kernel⟩
theorem test_endpoint : said (aft .getEndpointId (aft (.setEndpointId 9) onReg)) = [[0, 0, 9, 0], [0, 9, 0, 0]] ∧ said (aft (.setEndpointId 255) onReg) = [[2]] := by decide +kernel
theorem test_mctp : said (aft .getMessageTypeSupport onReg) = [[0, 3, 0, 1, 0x7E]] ∧ said (aft (.getMctpVersionSupport 2) onReg) = [[0x80]] := by decide +kernel
theorem test_pldm : said (aft .getPldmTypes onReg) = [[0, 5, 0, 0, 0, 0, 0, 0, 0]] ∧ said (aft (.getPldmVersion 1) onReg) = [[0x83]] ∧ (said (aft (.getPldmCommands 2) onReg)).map (fun b => b.drop 1) = [leBytes 32 131072] := by decide +kernel
theorem test_ids : (aft .getTid onReg).resps.length = 1 ∧ (aft .getVendorDefinedMessageSupport onReg).resps.length = 1 ∧ (said (aft .getStatus onReg)).map (fun b => b.length) = [24] := ⟨rfl, rfl, by decide +kernel⟩
def onSens : State := modPwr (modSensor onReg 300 (fun x => { x with valid := true, temp := -8 })) (fun p => { p with pkg := 12345 })
theorem wit_sensors : topsRuns onSens = true ∧ (getSensor onSens 300).valid = true ∧ (getSensor onSens 0).valid = false := by decide +kernel
theorem test_sensors : said (aft (.getSensorReading 301) onSens) = [[0, 3, 0, 0, 0, 0, 0, 0xF8, 0xFF]] ∧ said (aft (.getSensorReading 1) onSens) = [[0, 3, 2, 0, 0, 0, 0, 0, 0]] ∧
    said (aft (.getSensorReading 0x200) onSens) = [[0, 4, 0, 0, 0, 0, 0, 0xD2, 4, 0, 0]] ∧ said (aft (.getSensorReading 302) onSens) = [[0x80]] := by decide +kernel
theorem wit_mgmt_reset : onReg.flt.oos = false ∧ targetOwned onReg 2 (0 : CoreId).val = true ∧ onReg.flt.run = none ∧ recentReset onReg 2 (0 : CoreId).val 0 = false ∧ targetOwned onReg 4 1 = false ∧
    (onReset 3).flt.run = some ⟨3, 0, 0, false, 1, false⟩ ∧ resetContains (onReset 3) ⟨3, 0, 0, false, 1, false⟩ 4 0 0 = false ∧ targetOwned (onReset 3) 4 0 = true := by decide +kernel
theorem test_mgmt_reset : said (aft (.mgmtReset 6 0 0) onReg) = [[1, 0, 0, 0]] ∧ (aft (.mgmtReset 2 0 0) onReg).flt.run = some ⟨2, 0, 0, false, 1, true⟩ ∧ said (aft (.mgmtReset 4 0 0) (onReset 3)) = [[3, 0, 0, 0]] := by decide +kernel
theorem test_events : said (aft .getEvents (modHub onReg (fun h => { h with events := [.chipReset] }))) = [[0, 0, 0, 0, 3, 0, 0, 0, 0, 0, 0, 0]] ∧ (aft .getEvents (modHub onReg (fun h => { h with events := [.chipReset] }))).hub.events = [] := by decide +kernel
theorem test_mgmt_fault_log : said (aft (.getFaultLog 0) onReg) = [[0, 0, 0, 0]] := by decide +kernel
theorem wit_attest : onFetch.cfg.run ≠ none ∧ (onFetch.sec.waiting.filter (fun r => sameTransport (.mctp true 2 0xFF 0 []) r)).length < 4 ∧ onReg.cfg.run = none ∧ onReg.sec.waiting = [] := by decide +kernel
theorem test_attest : (aft (.attest 2 ⟨0xFF, 0⟩ []) onFetch).sec.waiting = [.mctp true 2 0xFF 0 []] ∧ said (aft (.attest 3 ⟨0, 0⟩ []) onReg) = [[3, 0, 0, 0]] ∧ said (aft (.attest 2 ⟨0xFF, 0⟩ []) (modSec onReg (fun x => { x with chain := [8] }))) = [[0, 0, 0, 0, 8]] := by decide +kernel

/-! The tick and the whole machine. -/

theorem wit_tick : onReg.hub.vaux = true ∧ (modHub onReg (fun h => { h with vaux := false })).hub.vaux = false ∧ (modSec onReg (fun x => { x with tops := .restarting })).sec.tops = .restarting := by decide +kernel
theorem test_tick : (aft .tuberTick onReg).tick = onReg.tick + 1 ∧ (aft .tuberTick (modSec onReg (fun x => { x with tops := .restarting }))).sec.tops = .running := by decide +kernel
theorem wit_limits : limitsInRange State.reset := by unfold limitsInRange; decide +kernel
theorem wit_step : step { onReg with pending := [.commit] } = .next (aft .commit onReg) ∧ step onReg = .next onReg := ⟨rfl, rfl⟩
theorem wit_formats : fDecode fp16Fmt 0x3C00 ≠ .nan ∧ fDecode bf16Fmt 0xFF80 ≠ .nan ∧ fDecode fp32Fmt 0x7F800001 = .nan := by decide +kernel
end Sys2Proof.Tests

/-! ### Ill-formed commands -/

namespace Sys2Proof.Tests

theorem wf_registers : Instr.wf (.registerWrite .pf (2 ^ 26 - 1) 8 0) = true ∧ Instr.wf (.registerWrite .pf (2 ^ 26) 4 0) = false ∧ Instr.wf (.registerRead .pf 0 0) = false ∧ Instr.wf (.registerRead .pf 0 65) = false ∧
    Instr.wf (.rw1cClear .pf (2 ^ 26) 0 0) = false ∧ Instr.wf (.counterLowRead .pf (2 ^ 26)) = false := by decide +kernel
theorem wf_streams : Instr.wf (.streamHeaderFetched (List.replicate 127 0)) = false ∧ Instr.wf (.streamHeaderFetched (List.replicate 128 0)) = true ∧ Instr.wf (.submitStream (2 ^ 32)) = false := by decide +kernel
theorem wf_stream_bytes (b : List Byte) (h : 2 ^ 26 < b.length) : Instr.wf (.streamFetchComplete b) = false := by simp only [Instr.wf]; exact decide_eq_false (by omega)
theorem wf_window_bytes (b : List Byte) (h : 65536 < b.length) : Instr.wf (.windowWrite 0 0 0 b) = false := by
  simp only [Instr.wf]; rw [decide_eq_false (by omega : ¬ b.length ≤ 65536)]; simp
theorem wf_frame_bytes : Instr.wf (.dmaWr 0 0 0 0 0 (List.replicate 4160 0)) = false := by decide +kernel
theorem wf_flits : Instr.wf (.linkDataFlit 0 (List.replicate 255 0) ⟨0, 0, 0⟩ 0) = false ∧ Instr.wf (.linkCtlFlit 0 ⟨List.replicate 257 0, ⟨0, 0, 0⟩, 0⟩) = false ∧ Instr.wf (.dlFlitReceive 0 0 0 (List.replicate 256 0) (List.replicate 32 0)) = false ∧
    Instr.wf (.dlFlitReceive 0 0 0 (List.replicate 264 0) (List.replicate 31 0)) = false ∧ Instr.wf (.dlFlitReceive 0 0 0 (List.replicate 264 0) (List.replicate 32 0)) = true := by decide +kernel
theorem wf_host : Instr.wf (.windowWrite 0 0 65536 [0]) = false ∧ Instr.wf (.windowWrite 0 0 0 []) = false ∧ Instr.wf (.bar4Read (2 ^ 40) 1) = false ∧ Instr.wf (.bar4Read 0 4097) = false ∧ Instr.wf (.bar4Read 0 0) = false ∧
    Instr.wf (.bar4Write 0 (List.replicate 513 0)) = false ∧ Instr.wf (.bar4Write 0 []) = false ∧ Instr.wf (.bar4Write (2 ^ 40) [0]) = false ∧ Instr.wf (.ringEnable (.nr 0) 32 true) = false := by decide +kernel
theorem wf_tops : Instr.wf (.claim none none) = false ∧ Instr.wf (.claim (some 256) none) = false ∧ Instr.wf (.release none (some 256)) = false ∧ Instr.wf (.resetRequest 8 0 0) = false ∧ Instr.wf (.resetRequest 1 128 0) = false ∧
    Instr.wf (.mgmtReset 1 0 4) = false ∧ Instr.wf (.powerCap 65536) = false ∧ Instr.wf (.setPowerCap 65536) = false := by decide +kernel
theorem wf_power : Instr.wf (.pwrCapWrite 4096) = false ∧ Instr.wf (.pwrRampWrite 256) = false ∧ Instr.wf (.controlRound [] 0 0 0) = false ∧ Instr.wf (.controlRound (List.replicate 32 0) (2 ^ 20) 0 0) = false ∧
    Instr.wf (.controlRound (List.replicate 32 0) 0 65536 0) = false ∧ Instr.wf (.controlRound (List.replicate 32 0) 0 0 65536) = false ∧ Instr.wf (.clockMonitorWindow 32 []) = false ∧ Instr.wf (.trimWindow (2 ^ 17)) = false ∧
    Instr.wf (.thmUnmask 512) = false ∧ Instr.wf (.resetDie 32) = false := by decide +kernel
theorem wf_guests : Instr.wf (.guestIdent 0 [] 0 0 0) = false ∧ Instr.wf (.guestIdent 0 ident1 5 3 0) = true ∧
    Instr.wf (.mboxSend 0 256 0 0 0 (List.replicate 64 0)) = false ∧ Instr.wf (.meshMsg 0 0 256 0 0 (List.replicate 64 0)) = false ∧ Instr.wf (.dmaWr 0 0 0 0 (2 ^ 64) (List.replicate 64 0)) = false ∧
    Instr.wf (.guestSyncAdd 0 0 0 0 0 (List.replicate 65 0)) = false ∧ Instr.wf (.dmaWr 0 0 0 0 0 []) = false ∧ Instr.wf (.dmaRd 0 256 0 0 0 0) = false ∧ Instr.wf (.dmaRd 0 0 256 0 0 0) = false ∧ Instr.wf (.dmaRd 0 0 0 0 (2 ^ 64) 0) = false := by decide +kernel
theorem wf_mgmt : Instr.wf (.setEndpointId 256) = false ∧ Instr.wf (.getMctpVersionSupport 256) = false ∧ Instr.wf (.getPldmVersion 256) = false ∧ Instr.wf (.getPldmCommands 256) = false ∧ Instr.wf (.getSensorReading 65536) = false ∧
    Instr.wf (.attest 256 ⟨0, 0⟩ []) = false ∧ Instr.wf (.attest 0 ⟨256, 0⟩ []) = false := by decide +kernel
end Sys2Proof.Tests

/-! ### Further witnesses and tests -/

namespace Sys2Proof.Tests

/-! The words of the six classes, written from Tables 3.7 to 3.13. -/

theorem test_word_add : decodeInstr 0 0x0010886000000000 = .add 0 ⟨1, 2, 3, 0, 0, 0⟩ := by decide +kernel
theorem test_word_addi : decodeInstr 0 0x2011880000000005 = .addi 0 ⟨3, 2, 0, 0, 5⟩ := by decide +kernel
theorem test_word_li : decodeInstr 0 0x4120000000000007 = .li 0 ⟨4, 0, 7⟩ := by decide +kernel
theorem test_word_beq : decodeInstr 0 0x6010880000000008 = .beq 0 ⟨1, 2, 0, 8⟩ := by decide +kernel
theorem test_word_mma : decodeInstr 0 0x9014260000000001 = .mma 0 ⟨2, 1, 3, 0, 0, 0, 0, 1⟩ := by decide +kernel
theorem test_word_send : decodeInstr 0 0xBC00886000090001 = .send 0 ⟨1, 2, 3, 0, 9, 1⟩ := by decide +kernel
theorem test_word_none : decodeInstr 0 0xC000000000000001 = .nop 0 0xC000000000000001 ∧ decodeInstr 0 0x0FF0000000000000 = .nop 0 0x0FF0000000000000 ∧ decodeInstr 0 0 = .nop 0 0 := by decide +kernel
theorem wit_words : encodeInstr (.mma 0 ⟨2, 1, 3, 0, 0, 0, 0, 1⟩) = some (0, 0x9014260000000001) ∧ encodeInstr (.nop 0 0) = some (0, 0) := by decide +kernel

/-! Tensor operations, streams and the instructions that send to units. -/

theorem wit_tiles_clean : tileSofts (getCore onT 0) 0 = [] ∧ tileSofts (getCore (onPass false) 0) 0 = [] ∧ tileSofts (getCore onEpi 0) 0 = [] ∧ (getTile onT 0 0).els.length = 4096 := by decide +kernel
def onReplay1 : State := modCore onT 0 (fun m => { m with replays := [pass1] })
theorem wit_replay : coreClocked onReplay1 0 = true ∧ (getCore onReplay1 0).replays = [pass1] ∧ pass1.op.kind = .mma 0 (td 0) (td 64) true none false ∧
    (∀ r ∈ tdRanges (tileDesc (td 0)) ++ tdRanges (tileDesc (td 64)), cleanRange (getCore onReplay1 0).opbuf r.1 r.2) :=
  ⟨by decide +kernel, by decide +kernel, rfl, fun _ _ => clean_of_nil (by decide +kernel) _ _⟩
theorem wit_in_flight : inFlight (getCore (onX (xf dIn .run) []) 0) = 0 ∧ coreClocked (onX { xf dIn .run with dlDue := some 0 } []) 0 = true ∧
    (localPlace (onX (xf dBuf .run) []) 0 (xf dBuf .run) 0).2 % 65536 + 64 ≤ 65536 := by decide +kernel
/-- The context's task has been aborted, with a block in place. -/
def onBlockAborted (b : List Byte) : State :=
  modCore (onBlock b) 0 (fun m => { m with tasks := [⟨3, 0, 0, 1, 0, true, 0, false, [], some 7⟩], ctx := vmod m.ctx 0 (fun x => { x with task := some 3 }) })
theorem wit_units : issues (onBlock fillBlock) 0 0 ∧ readableBlock (onBlock fillBlock) 0 0 (fS 1 0 0 0 0) fillBlock ∧ syncNamed (onBlock fillBlock) 0 (sprSync fillBlock) ∧
    readableBlock (onBlock colBlk) 0 0 (fS 1 0 0 0 0) colBlk ∧ syncNamed (onBlock colBlk) 0 (colSync colBlk) ∧ (getCtx (onBlock fillBlock) 0 0).sprOut = 0 ∧
    issueTask (onBlockAborted fillBlock) 0 0 = none ∧ (getCore (onBlock colBlk) 0).early = [] :=
  ⟨⟨by decide +kernel, by decide +kernel, by decide +kernel, by decide +kernel⟩,
    ⟨by decide +kernel, by decide +kernel, clean_of_nil (by decide +kernel) _ _, by decide +kernel, by decide +kernel⟩, fun h => absurd (by decide +kernel) h,
    ⟨by decide +kernel, by decide +kernel, clean_of_nil (by decide +kernel) _ _, by decide +kernel, by decide +kernel⟩, fun h => absurd (by decide +kernel) h,
    by decide +kernel, by decide +kernel, by decide +kernel⟩
theorem test_units_aborted : (aft (.sprIssue 0 (fS 1 0 0 0 0)) (onBlockAborted fillBlock)).mesh = [] ∧ pcOf (aft (.sprIssue 0 (fS 1 0 0 0 0)) (onBlockAborted fillBlock)) 0 0 = 72 ∧
    (aft (.colIssue 0 (fS 1 0 0 0 0)) (onBlockAborted colBlk)).mesh = [] := by decide +kernel
theorem wit_clean_msg : (∀ b ∈ ([] : List Nat), decodeSyn (tget 0 (getCore onMsg 0).inbDiff b) = .clean) ∧ outRoom onMsg 0 64 = true := ⟨fun _ h => absurd h List.not_mem_nil, by decide +kernel⟩
theorem wit_task_add : arrives (onMesh (onTask 0) (fSync (.taskAdd 1 3))) 0 = some (fSync (.taskAdd 1 3)) ∧ (findTask (onTask 0) 0 3).map (fun t => t.adding) = some false := by decide +kernel
theorem test_task_add : (getObj (aft (.syncOpAdd 0) (onMesh (onTask 0) (fSync (.taskAdd 1 3)))) 0 1).count = 1 ∧ findTask (aft (.syncOpAdd 0) (onMesh (onTask 0) (fSync (.taskAdd 1 3)))) 0 3 = none := by decide +kernel

/-! Page copies at their stack (R229, R180), and the engines' grants (R18). -/

theorem wit_copy_grant : (grantNext (modStack onCopying 0 (fun t => { t with selfRef := false })) 0).map (fun x => (x.1.src, x.1.addr % 512, x.1.len)) = some (.kv 0, 0, 512) ∧
    (kvFront onCopying 0).map (fun r => decide (r.done < 128)) = some true := by decide +kernel
theorem test_copy_grant : (kvFront (aft (.stackUnitGrant 0) (modStack onCopying 0 (fun t => { t with selfRef := false }))) 0).map (fun r => (r.done, r.busy, r.unit.length)) = some (1, false, 512) := by decide +kernel
/-- The copy has read and written its 64 units. -/
def onCopied : State := onKv { kvr [(0x8004, 0x10000)] (some (0x8000, 0x10000)) with done := 128 } [(1, ⟨2, 0, true⟩), (2, ⟨1, 0, true⟩)]
theorem wit_copied : (kvFront onCopied 0).map (fun r => (decide (128 ≤ r.done), r.copy)) = some (true, some (0x8000, 0x10000)) := by decide +kernel
theorem test_copied : (kvPage (aft (.kvpCopyEnd 0) onCopied) 0 0x8000) = ⟨1, 0, false⟩ ∧ (aft (.kvpCopyEnd 0) onCopied).kvp.copies = 1 := by decide +kernel

/-! Registers, the host and streams. -/

def onMasked : State := modHst onReg (fun h => { h with mask := [(.pf, 1)], pend := [(.pf, 1)] })
theorem wit_masks : 1 < vectorsOf .pf ∧ (Fn.pf, 1) ∈ onMasked.hst.pend ∧ (Fn.pf, 1) ∉ onReg.hst.mask := by decide +kernel
theorem test_masks : (aft (.configRequest .pf (.mask 1 false)) onMasked).irqs = onMasked.irqs ++ [(.pf, 1)] ∧ (aft (.configRequest .pf (.mask 1 true)) onReg).hst.mask = [(.pf, 1)] := by decide +kernel
theorem wit_no_part : (getPart onReg 9).live = false ∧ (siteMask (modFuses onReg (fun f => { f with code := 3 }))).getLsbD 6 = false := by decide +kernel
theorem test_no_part : answers (aft (.windowWrite 9 0 0 [1]) onReg) = [.unsupported] := by decide +kernel
theorem wit_no_stream_waits : noStreamWaits onReg ∧ fetching onReg = false ∧ fetching (modSec onReg (fun x => { x with ktFetch := some 0 })) = true :=
  ⟨by intro q h; rw [show onReg.sec.waiting = [] from by decide +kernel] at h; exact absurd h List.not_mem_nil, by decide +kernel, by decide +kernel⟩
theorem test_submit_waits : (aft (.submitStream 266) (modSec onReg (fun x => { x with ktFetch := some 0 }))).sec.waiting = [.stream true 266 none] := by decide +kernel
theorem test_table_late : cfgNow (aft .tableStored (onChip (2 ^ 20 + 1))) = (.rejected, 0x18) := by decide +kernel

/-! Taproot, Tops and resets. -/

theorem wit_tops_write : fnPlace .pf 0x400014 = some (.thm 0x14) ∧ telemetryPlace (.thm 0x14) = true ∧ placeOn onReg (.thm 0x14) = true := by decide +kernel
theorem test_tops_write : (aft (.topsBusAccess .telemetry (some 0x50007) 0 0x400014) onReg).thm.ppl = 5 ∧ (aft (.topsBusAccess .telemetry none 0 0x400014) onReg).sec.out.length = 1 := by decide +kernel
theorem test_mailbox : (aft (.topsBusAccess .mailbox (some 9) 0 0) onReg).sec.out = [.answer 1] ∧ (aft (.topsBusAccess .mailbox (some 3) 0 0) onReg).sec.out = [] := by decide +kernel
theorem wit_reset_within : resetContains (modFlt onReg (fun f => { f with run := some ⟨6, 0, 0, false, 1, false⟩ })) ⟨6, 0, 0, false, 1, false⟩ 7 18 0 = true := by decide +kernel
theorem test_reset_within : (aft (.resetDie 18) (modFlt onReg (fun f => { f with run := some ⟨6, 0, 0, false, 1, false⟩ }))).flt.stUnit = 6 := by decide +kernel
theorem test_absent_die : (aft (.resetDie 18) (modFuses onReg (fun f => { f with code := 2 }))).flt.stCode = 2 := by decide +kernel
theorem test_tops_reset : (aft (.resetRequest 2 0 0) onReg).flt.run = some ⟨2, 0, 0, false, 1, true⟩ ∧ (aft (.resetRequest 6 0 0) onReg).sec.out = [.answer 1] := by decide +kernel

/-! Clocks, temperatures, supplies and bundles. -/

theorem wit_backup : (modClk onReg (fun c => { c with backup := 0xFFFFFFFF })).clk.backup.getLsbD 23 = true ∧ onReg.clk.backup.getLsbD dieHub = false ∧ onReg.clk.backup.getLsbD 23 = false := by decide +kernel
theorem test_backup : (aft (.clockMonitorWindow 23 [(.fclk, 0)]) (modClk onReg (fun c => { c with backup := 0xFFFFFFFF }))).clk.nmis = onReg.clk.nmis ∧ (aft (.clockMonitorWindow 23 [(.fclk, 0)]) onReg).clk.nmis = onReg.clk.nmis + 1 := by decide +kernel
def onLatched (low : Bool) : State := modThm (modHub onReg (fun h => { h with vin := false, lowVin := low, powered := false })) (fun t => { t with latch := true })
theorem wit_latched : (onLatched true).thm.latch = true ∧ (onLatched true).hub.vin = false ∧ (onLatched true).hub.lowVin = true ∧ (onLatched false).hub.lowVin = false := by decide +kernel
theorem test_latched : (aft .vinUp (onLatched true)).thm.latch = false ∧ (aft .vinUp (onLatched false)).thm.latch = true ∧ (aft .vinUp (onLatched false)).hub.powered = false := by decide +kernel
theorem wit_held_wake : ownerHeld (getRegion (modRegion onReg 0 (fun g => { g with power := .waking, held := true })) 0) = true := by decide +kernel
theorem test_held_wake : (getRegion (aft (.wakeComplete 0) (modRegion onReg 0 (fun g => { g with power := .waking, held := true }))) 0).power = .waking := by decide +kernel
theorem wit_takes : pairDown (onBun .full false none none []) 18 = false ∧ pairDown (modFlt (onBun .full false none none []) (fun f => { f with severed := 1 })) 18 = true ∧
    (bun (onBun .half true none none [])).half ≠ decide (20 < 16) ∧ 20 ∉ (bun (onBun .half true none none [])).lanes := by decide +kernel
theorem test_takes : aft (.dlFlitReceive 18 0 1 [] []) (modFlt (onBun .full false none none []) (fun f => { f with severed := 1 })) = modFlt (onBun .full false none none []) (fun f => { f with severed := 1 }) := rfl
theorem test_pair_out : (vget (aft (.dlLaneLockLoss 18 0 (some 20)) (modPair22 (onBun .half true (some 9) (some 8) [9, 8, 3]) 18
    (fun p => { p with bundles := vmod p.bundles 1 (fun x => { x with st := .out }) }))).pairs 18).severed = true := by decide +kernel

/-! Guests and the mesh. -/

theorem wit_guest_turn : (wrrPick 32 (guestWork (onDma true 0 false) 1) (wGuest (onDma true 0 false)) (getGuest (onDma true 0 false) 1).rr).map (fun r => r.1) = some 0 := by decide +kernel
/-- Two partitions have a read to be answered, and partition 1 a tree without work on the link die of partition 0's. -/
def onTwo : State := modGuest (onHusk 2 15 64 []) 1 (fun x => { x with dma := [⟨9, 1, 3, 0x77, true, [1, 2], 0, false⟩, ⟨10, 0, 3, 0x78, true, [3], 0, false⟩] })
theorem wit_guest_other : (wrrPick 32 (guestWork onTwo 1) (wGuest onTwo) (getGuest onTwo 1).rr).map (fun r => r.1) = some 0 ∧ (vget onTwo.guests 1).dma[0]?.map (fun d => d.part) = some 1 := by decide +kernel
theorem test_guest_other : (getGuest (aft (.dmaRdData 1 0) onTwo) 1).dma.length = 2 ∧ (getGuest (aft (.dmaRdData 1 1) onTwo) 1).dma.length = 1 := by decide +kernel
def onTwoTrees : State :=
  { modPart (onTree tr1 .ready (ed true) [both] []) 1 (fun p => { p with live := true, trees := [tr1] }) with
    trees := [⟨0, 1, .ready, 0, [ed true], false, [both], [], [], 0⟩, ⟨1, 1, .ready, 0, [ed true], false, [], [], [], 0⟩] }
theorem wit_link_turn : homeDie tr1 = some 0 ∧ treeRec onTwoTrees 1 1 = some tr1 ∧ (findTree onTwoTrees 1 1).isSome = true ∧
    (wrrPick 32 (linkWork onTwoTrees 0) (wLink onTwoTrees) (vget onTwoTrees.links 0).rr).map (fun g => g.1) = some 0 := by decide +kernel
theorem test_mesh_header : (hdrBits ⟨3, 10, 0, 31, 0, 0, 2, 5, 24, 1, 2, 0x77, 7, 1⟩).toNat = 3 * 2 ^ 62 + 10 * 2 ^ 58 + 31 * 2 ^ 47 + 2 * 2 ^ 38 + 5 * 2 ^ 34 + 24 * 2 ^ 29 + 2 ^ 28 + 2 * 2 ^ 26 + 0x77 * 2 ^ 10 + 7 * 2 ^ 4 + 2 ^ 3 := by decide +kernel
/-- Table 10.1: stack 2 of tile 1 at u 4 and 5 of its end edge, link die 0 along its side edge in tile 0. -/
theorem test_ports : epPorts (dieStack 2) 1 = [(12, 0), (13, 0)] ∧ epPorts (dieLink 0) 0 = [(0, 0), (0, 1), (0, 2), (0, 3)] ∧ epPorts (dieStack 0) 1 = [] := by decide +kernel

/-! Pins (Table 2.5). -/

def onPinF (func : Nat) (part : Option Nat) : State := onPin [{ pinS 3 .stream with func := func, part := part }]
theorem wit_levels : hubRuns (onPinF 3 none) = true ∧ ((onPinF 3 none).cfg.pins.find? (fun y => y.pin == some 3)).map (fun y => (y.func, y.owner)) = some (3, .stream) ∧
    (∀ y ∈ (onPinF 3 none).cfg.pins, y.pin ≠ some 4) := by decide +kernel
theorem test_levels : gpioLevel (onPinF 3 none) 3 = .high ∧ gpioLevel (modFlt (onPinF 3 none) (fun f => { f with oos := true })) 3 = .low ∧ gpioLevel (onPinF 0 none) 3 = .highZ ∧
    gpioLevel (modFlt (onPinF 2 (some 1)) (fun f => { f with partUnserviced := 2 })) 3 = .low ∧ gpioLevel (modThm (onPinF 4 none) (fun t => { t with ceil := vset t.ceil 9 27 })) 3 = .low := by decide +kernel
theorem test_dl_nak : (bun (aft (.dlFlitReceive 18 0 1 [] []) (onBun .full false none none []))).sent.map (fun e => (e.1, (leNat ((e.2.drop 256).take 4)))) = [(0, 0x580)] ∧
    (dlCovered 0 0 { bun onReg with tx := .replicate 2 ⟨6, [(4, []), (5, [])], []⟩ } 5).tx = #v[⟨6, [(5, [])], []⟩, ⟨6, [(4, []), (5, [])], []⟩] := by decide +kernel
def idleFlit : List Byte := dlFlit 0x900 2658683796
theorem wit_dl_idle : (idleFlit.length = 264 ∧ (crc32 (idleFlit.take 260)).toNat = leNat ((idleFlit.drop 256).take 8) / 2 ^ 32) ∧ (leNat ((idleFlit.drop 256).take 8) / 64) % 4 = 0 :=
  ⟨dl_good (by decide +kernel), by decide +kernel⟩
theorem test_thermistor : (getSensor (aft (.sensorRead [⟨300, some 0, 100⟩]) (onEarly 64)) 300).valid = true := by decide +kernel

end Sys2Proof.Tests

namespace Sys2Proof.Tests

/-! ### Witnesses of the tensor statements' clauses -/

theorem wit_full : 4 ≤ (getCtx (modCtx onT 0 0 (fun x => { x with queue := List.replicate 4 ⟨0, .accz 0 0, 0, 64, none⟩ })) 0 0).queue.length := by decide +kernel
theorem wit_unowned : (accOwn (unowned onT) 0 0).getLsbD 0 = false ∧ mmaForm (unowned onT) 0 0 (fT 1 2 0 0 0 1) ∧ imageForm (unowned onT) 0 0 (fT 0 0 0 2 0 0) := by
  unfold mmaForm imageForm; decide +kernel
theorem wit_unowned_epi : epiForm (unowned onTE) 0 0 (fT 0 0 1 2 0 0) := by unfold epiForm; decide +kernel
theorem wit_unowned_attn : attnForm (unowned onAttn) 0 0 (fT 0 0 0 2 0 0) 0x2000 attnBlock ∧ (∃ a ∈ atTiles attnBlock, (accOwn (unowned onAttn) 0 0).getLsbD a = false) :=
  ⟨⟨by decide +kernel, by decide +kernel, by decide +kernel, by decide +kernel, by decide +kernel, by decide +kernel, by decide +kernel, by decide +kernel, by decide +kernel, by decide +kernel,
    clean_of _ _ _ (by decide +kernel), by decide +kernel, by decide +kernel, fun _ _ => clean_of _ _ _ (by decide +kernel), by decide +kernel⟩, by decide +kernel⟩
/-- A queued MMA holds the first 32 bytes of its operands against a store to byte 8 (R94). -/
def onHeld (started : Bool) : State := modCore onT 0 (fun m => { m with holds := [⟨5, [(0, 32)], started, none⟩] })
theorem wit_held : issues (onHeld false) 0 0 ∧ localOk (onHeld false) 0 0 ⟨3, 0, 0, 0, 8⟩ 1 8 8 .opbuf 8 ∧ ((getCore (onHeld false) 0).holds.map (fun x => x.op)).Nodup ∧ [(0, 32)].any (meets 8 8) = true ∧
    cleanRange (getCore (onHeld false) 0).opbuf 0 32 :=
  ⟨⟨by decide +kernel, by decide +kernel, by decide +kernel, by decide +kernel⟩, ⟨by decide +kernel, by decide +kernel, by decide +kernel, by decide +kernel, by decide +kernel, by decide +kernel, fun _ => by decide +kernel⟩,
   by decide +kernel, by decide +kernel, clean_of _ _ _ (by decide +kernel)⟩
theorem test_held : ((getCore (aft (.st 0 ⟨3, 0, 0, 0, 8⟩) (onHeld false)) 0).holds.map (fun h => h.bytes.map (fun o => o.map (fun l => l.map (fun r => r.take 1))))) = [some (some [[2]])] := by decide +kernel
theorem wit_operands : operandsAre (onQ (.mma 0 (td 0) (td 64) false none false)) 0 0 (tileDesc (td 0)) (tileDesc (td 64))
    (operandVals (tileDesc (td 0)) ((tdRanges (tileDesc (td 0))).map (fun r => memReadBytes (getCore onT 0).opbuf.bytes r.1 r.2)))
    (operandVals (tileDesc (td 64)) ((tdRanges (tileDesc (td 64))).map (fun r => memReadBytes (getCore onT 0).opbuf.bytes r.1 r.2))) :=
  ⟨fun _ _ => clean_of _ _ _ (by decide +kernel), rfl, rfl⟩
/-- The kept bytes of an operation whose first tile read 7 and whose second read 9. -/
def onKept : State := modCore (onQ (.mma 0 (td 0) (td 64) false none false)) 0 (fun m => { m with holds := [⟨0, [(0, 32), (64, 32)], false, some (some [7 :: List.replicate 31 0, 9 :: List.replicate 31 0])⟩] })
theorem test_pass_kept : ((getCore (aft (.mmaPassStart 0) onKept) 0).passes.map (fun p => (p.aVals.map (fun r => r.take 1), p.bVals.map (fun r => r.take 1)))) = [([[.fin 7 0]], [[.fin 9 0]])] := by decide +kernel
theorem wit_replay_kept : ((findHold (modCore onKept 0 (fun m => { m with replays := [pass1] })) 0 pass1.op.id).bind (fun h => h.bytes)).isSome = true := by decide +kernel
theorem wit_accrd_clean : 0x2000 % 64 = 0 ∧ tileSofts (getCore (onQ (.accrd 0 0x2000)) 0) 0 = [] := by decide +kernel
theorem wit_epi_complete : (getCore (onEpi2 true) 0).epi.map (fun e => e.released) = some true ∧ coreClocked (onEpi2 true) 0 = true ∧ (getCore (onEpi2 true) 0).holds = [] ∧ (getCore (onEpi2 true) 0).opbuf.diff = [] := by decide +kernel
theorem test_epi_result : lastByte [(0, [1, 2]), (1, [3])] 1 = some 3 ∧ lastByte [(0, [1, 2]), (1, [3])] 2 = none := by decide +kernel

/-! ### Witnesses of the vector and memory statements' clauses -/

theorem wit_nan : isNanBits .fp32 0x7F800001 ∧ ¬ isNanBits .fp32 0xFF800000 ∧ isNanBits .bf16 0xFFC0 ∧ quietBits .fp32 0x7F800001 = 0x7FC00001 := by unfold isNanBits; decide +kernel
/-- VMAX of −0 and +0 is +0; VCVT to INT32 of 2.5 is 2 and of 3.5 is 4, and an infinity saturates (R71). -/
theorem test_select : laneSel .fp32 true 0x80000000 0 = 0 ∧ laneSel .fp32 false 0 0x80000000 = 0x80000000 ∧ laneSel .fp32 true 0x3F800000 0x7F800001 = 0x7FC00001 := by decide +kernel
theorem test_convert : laneCvt .fp32 .int32 0x40200000 = 2 ∧ laneCvt .fp32 .int32 0x40600000 = 4 ∧ laneCvt .fp32 .int32 0xFF800000 = 0x80000000 ∧ laneCvt .fp32 .bf16 0x7F7FFFFF = 0x7F80 := by decide +kernel
/-- A VLD of blocks 0 to 15 finds block 1 first, and stores over it take any block. -/
theorem wit_poison_vector : localOk onMem 0 0 ⟨3, 0, 0, 0, 0⟩ 1 1024 64 .opbuf 0 ∧ 1 ∈ blocksOf 0 1024 ∧ badBlk (getSpace onMem 0 .opbuf) 1 ∧ (∀ b' ∈ blocksOf 0 1024, b' < 1 → ¬ badBlk (getSpace onMem 0 .opbuf) b') ∧
    localOk onMem 0 0 ⟨3, 0, 0, 0, 64⟩ 2 4 4 .opbuf 64 ∧ 1 ∈ blocksOf 64 4 := by
  unfold badBlk; exact ⟨⟨by decide +kernel, by decide +kernel, by decide +kernel, by decide +kernel, by decide +kernel, by decide +kernel, fun _ => by decide +kernel⟩, by decide +kernel, by decide +kernel, by decide +kernel,
    ⟨by decide +kernel, by decide +kernel, by decide +kernel, by decide +kernel, by decide +kernel, by decide +kernel, fun _ => by decide +kernel⟩, by decide +kernel⟩
end Sys2Proof.Tests

namespace Sys2Proof.Tests

/-! ### Witnesses of the stream, message and reduction statements' clauses -/

/-- Eight transfers of the core run, in the slots of context 1. -/
def onEight : State := modCore (onSlot dIn) 0 (fun m => { m with xfers := (List.range 8).map (fun i => { xf dIn .run with id := 20 + i, ctx := 1, slot := Fin.ofNat 8 i }) })
theorem wit_strm_blocked : (currentXfer (onX (xf dIn .run) []) 0 0 5).map xferActive = some true ∧ goFault (onX (xf dIn .run) []) 0 0 5 (descOf dIn) = none ∧
    currentXfer onEight 0 0 5 = none ∧ openTask onEight 0 0 = none ∧ goFault onEight 0 0 5 (descOf dIn) = none ∧ badCauses onEight 0 0 5 (descOf dIn) false = [] ∧ badCauses onEight 0 0 5 (descOf dIn) true = [] ∧
    8 < ((getCore onEight 0).xfers.filter (fun x => x.state != .ended)).length + attnActive (getCore onEight 0) + (if (descOf dIn).indexed then 2 else 1) := by decide +kernel
theorem test_strm_blocked : (getCtx (aft (.strmGo 0 (fS 0 0 0 0 5)) onEight) 0 0).wait = .strmGo 5 ∧ (getCtx (aft (.strmFill 0 (fS 0 1 0 0 5)) (onX (xf dIn .run) [])) 0 0).wait = .strmGo 5 := by decide +kernel
theorem wit_strm_full : 64 ≤ inFlight (getCore (onX (xf dIn .run) (List.replicate 64 ⟨1, 9, 0, 2, 64, [], 0, 0⟩)) 0) := by decide +kernel
/-- A block of the source at 0 cannot be corrected; and a command that sends nothing of its own. -/
def onBadSource : State := modCore (onBlock colBlk) 0 (fun m => { m with opbuf := { m.opbuf with diff := [(0, 3)] } })
def colRecv : List Byte := [3, 1, 1, 0] ++ leBytes 4 0xFFFFFFFF ++ leBytes 4 16 ++ leBytes 4 1 ++ List.replicate 8 0 ++ leBytes 8 0 ++ leBytes 8 4096 ++ List.replicate 24 0
theorem wit_col_bad : (readLocal (taskOpBegin onBadSource 0 none) 0 (colSrcSpace colBlk) (colSrc colBlk) 64).2 = none ∧ (getCore (onBlock colBlk) 0).early = [] := by decide +kernel
theorem test_col_bad : (aft (.colIssue 0 (fS 1 0 0 0 0)) onBadSource).mesh.map (fun g => g.body) = [.red ⟨1, 1, true, colBlk, 0, 0, 0, 0, 0, 0, true, []⟩] := by decide +kernel
/-- A transfer of the open task runs, with a request in flight. -/
def onTaskX : State := modCore (onTask 1) 0 (fun m => { m with xfers := [{ xf dIn .run with task := some 3 }], reqs := [⟨1, 9, 0, 2, 64, [], 0, 0⟩] })
theorem wit_fault_transfer : (∀ y ∈ (getCore onTaskX 0).xfers, findXfer onTaskX 0 y.id = some y ∧ y.task = some 3 ∧ y.state = .run) ∧ (getCore onTaskX 0).reqs.any (fun r => r.xfer = 9) = true := by decide +kernel
theorem test_fault_transfer : (findXfer (aft (.nop 0 5) onTaskX) 0 9).map (fun x => (x.state, x.code, x.cause, x.record)) = some (.stopping, 2, 8, 0) := by decide +kernel
theorem wit_fault_accz : (getCtx (onQ (.accz 1 (-512))) 0 0).queue.map (fun o => o.kind) = [.accz 1 (-512)] := by decide +kernel

/-- A read request of a transfer waits at stack 3. -/
def onRequest : State := modStack (onX (xf dIn .run) [⟨4, 9, 0, 128, 64, [], 0, 0⟩]) 3 (fun t => { t with units := [⟨.stream 0 4 0, some 0, 64, 128, none⟩] })
theorem wit_misroute_request : requestCtx onRequest 0 4 = some 0 ∧ requestEnd onRequest 0 4 = .stack 3 := by decide +kernel
theorem test_misroute_request : (getStack (aft (.meshMisroute (.request 0 4) 1) onRequest) 3).units = [] ∧ (aft (.meshMisroute (.request 0 4) 1) onRequest).mesh = [⟨.stack 3, .ctx 0 0, 0, .error 4⟩] := by decide +kernel
theorem test_misroute_command : (aft (.meshMisroute (.frame 0) 2) (onMesh on (cmdFrame fillBlock))).mesh = [⟨.stack 0, .ctx 0 0, 0, .cmdError 4 64 none⟩] := by decide +kernel
/-- The command of core 0 names object 7. -/
def redBlkS : List Byte := [1, 3, 1, 0] ++ leBytes 4 7 ++ leBytes 4 2 ++ List.replicate 12 0 ++ leBytes 8 0 ++ leBytes 8 4096 ++ List.replicate 24 0
def onColS : State :=
  onMesh (modPart (modCore (onH 7 1 0) 0 (fun m => { m with cols := [⟨0, 1, 4, redBlkS, 64, none, 8, false⟩] })) 0 (fun p => { p with trees := [⟨1, 1, 0, []⟩] }))
    ⟨.red 0, .ctx 0 0, 3, .red ⟨1, 4, false, redBlkS, 0, 0, 0, 0, 0, 0, false, [1, 2, 3, 4, 5, 6, 7, 8]⟩⟩
theorem wit_result_sync : (arrives onColS 0).isSome = true ∧ handleObj (maskOf onColS 0) (colSync redBlkS).toNat = some (0, 7) := by decide +kernel
theorem test_result_sync : (aft (.redChunkArrive 0) onColS).mesh = [⟨.ctx 0 0, .sync 0, 1, .syncAdd 7 1⟩] := by decide +kernel
theorem wit_bad_block_message : decodeSyn (tget 0 (getCore onMsg 0).inbDiff 3) = .clean := by decide +kernel
end Sys2Proof.Tests

namespace Sys2Proof.Tests

/-! ### Witnesses of the clauses of the statements on stacks, pages, links, the host, Tops, resets, dies and guests -/

theorem wit_grant_cut : unitCut (onUnit (su 64 none)) 0 (su 64 none) = false ∧ dieDown (modFlt (onUnit (su 64 none)) (fun f => { f with severed := 1 })) (dieTile ((0 : Fin 8).val / 2)) = true ∧
    (grantNext (modFlt (onUnit (su 64 none)) (fun f => { f with severed := 1 })) 0).map (fun x => x.1) = some (su 64 none) := by decide +kernel
theorem test_grant_cut : req0 (aft (.stackUnitGrant 0) (modFlt (onUnit (su 64 none)) (fun f => { f with severed := 1 }))) = [([0, 0, 0, 0], 0, 7)] := by decide +kernel
/-- The first unit of a copy is read, its second is to be written, and its last has been. -/
def onCopyU (done : Nat) : State := modKv (onStack 0 (fun t => { t with mem := ⟨[(0x8000, 5)], []⟩ })) (fun k =>
  { k with reqs := [{ kvr [(0x8004, 0x10000)] (some (0x8000, 0x10000)) with done := done }], pages := [(1, ⟨2, 0, true⟩), (2, ⟨1, 0, true⟩)] })
theorem wit_copy_unit : (grantNext (onCopyU 0) 0).map (fun x => (x.1.src, x.1.addr, x.1.write.isSome)) = some (.kv 0, 0x8000, false) ∧ (grantNext (onCopyU 1) 0).map (fun x => (x.1.src, x.1.addr, x.1.write.isSome)) = some (.kv 0, 0x10000, true) ∧
    (kvFront (onCopyU 0) 0).map (fun r => r.ended) = some none := by decide +kernel
/-- The second output block of a command lies in a page that its partition may not write. -/
theorem wit_spr_refused : (onDone none none).hub.powered = true ∧ [(12288, ([1, 2, 3, 4] : List Byte))].any (fun o => !writeAllowed (onDone none none) ((0 : Fin 8).val * 2 ^ 36 + o.1)) = true := by decide +kernel
theorem test_spr_refused : (getStack (aft (.sproutCommandComplete 0) (onDone none none)) 0).evFault = true ∧ (getStack (aft (.sproutCommandComplete 0) (onDone none none)) 0).mem.bytes = [] := by decide +kernel

/-- A pair with one bad codeword counts once, and its flits are damaged. -/
theorem wit_bad_pair : (pairSeen (port0 (onTree tr1c .confirming (ed true) [] [])) ⟨0, 2, 16⟩).rxLost = true ∧ (pairSeen (port0 (onTree tr1c .confirming (ed true) [] [])) ⟨0, 2, 15⟩).rxLost = false ∧
    (pairSeen { portUp with rxPair := some 4, rxLost := true } ⟨4, 0, 0⟩).rxLost = true := by decide +kernel
theorem test_bad_pair : (pairSeen portUp ⟨0, 2, 16⟩).fecCorr = 2 ∧ (pairSeen (pairSeen portUp ⟨0, 2, 16⟩) ⟨0, 2, 16⟩).uncorr = 1 := by decide +kernel
/-- A port that trains with the settings of a neighbour at four quads. -/
def onSaved (st : TrainStep) : State :=
  { on with ports := vset on.ports 0 { LinkPort.reset with st := .training, step := st, saved := true, sets := [(LinkPort.reset.band, ⟨List.replicate 16 7, 3, 16⟩)] } }
theorem wit_saved : savedFor (port0 (onSaved .width)) = some ⟨List.replicate 16 7, 3, 16⟩ ∧ (port0 (onSaved .identify)).saved = true ∧ (port0 (onSaved .identify)).replay = [] := by decide +kernel
theorem test_saved : (port0 (aft (.portTrainStepDone 0 (.widths 7)) (onSaved .width))).step = .detect ∧ (port0 (aft (.portTrainStepDone 0 (.widths 15)) (onSaved .width))).step = .identify ∧
    (port0 (aft (.portTrainStepDone 0 (.identified (List.replicate 16 7) 3)) (onSaved .identify))).st = .up ∧ (port0 (aft (.portTrainStepDone 0 (.identified (List.replicate 16 8) 3)) (onSaved .identify))).saved = false := by decide +kernel
theorem wit_engine_grant : (wrrPick 32 (linkWork (onTree tr1 .ready (ed true) [both] []) 0) (wLink (onTree tr1 .ready (ed true) [both] [])) (vget (onTree tr1 .ready (ed true) [both] []).links (Fin.ofNat 3 0)).rr).map (fun g => g.1) = some 0 ∧
    (port0 (onTree tr1 .confirming (ed false) [] [])).rsq = [] := by decide +kernel
/-- A body for the page manager: one entry that allocates a page, and the same with a count that its length does not bear out. -/
def kvMsg (n : Nat) : HostMsg := ⟨4, 9, 7, 1, leBytes 8 n ++ leBytes 8 0x8001 ++ List.replicate 48 0, false⟩
def onKvMsg (n : Nat) : State := modCh onReg 0 2 (fun x => { x with buf := [kvMsg n] })
theorem wit_forward_kv : (forwardNext (onKvMsg 1)).map (fun x => (x.1, x.2.1, x.2.2.2)) = some (0, 2, kvMsg 1) ∧ (kvMsg 1).body.length = (8 + 16 * 1 + 63) / 64 * 64 ∧ (∀ x ∈ (kvMsg 1).body.drop (8 + 16 * 1), x = 0) ∧
    kvFront (onKvMsg 1) 0 = none ∧ kvOp (0x8001, 0) = 1 ∧ (kvMsg 9).body.length ≠ (8 + 16 * 9 + 63) / 64 * 64 ∧ devRoom (onKvMsg 9) 0 2 = true := by decide +kernel
theorem test_forward_kv : (aft .hostBodyForward (onKvMsg 1)).kvp.reqs.map (fun r => (r.part, r.channel, r.hseq, r.entries)) = [(0, 2, 9, [(0x8001, 0)])] ∧ (aft .hostBodyForward (onKvMsg 9)).kvp.evRefused = true := by decide +kernel
/-- A configuration of stacks 0 to 5 has no stack 6. -/
def onNoStack : State := modFuses (modHst onReg (fun h => { h with barOn := true, barGib := 0x180 })) (fun f => { f with code := 3 })
theorem wit_absent_stack : onNoStack.hst.barOn = true ∧ (siteMask onNoStack).getLsbD ((onNoStack.hst.barGib * 2 ^ 30 + 8) % 2 ^ 39 / 2 ^ 36) = false := by decide +kernel
theorem test_absent_stack : answers (aft (.bar4Read 8 4) onNoStack) = [.unsupported] ∧ (aft (.bar4Write 8 [1]) onNoStack).flt.waiting.map (fun r => (r.cls, r.address)) = [(0x3D, 8)] := by decide +kernel
theorem wit_stream_refresh : (getStack onFetch 0).selfRef = false ∧ (getStack (modStack onFetch 0 (fun t => { t with selfRef := true })) 0).selfRef = true ∧ (List.replicate 266 (0 : Byte)).length = (run0 .fetch []).len := by decide +kernel
theorem test_stream_refresh : cfgNow (aft (.streamFetchComplete (List.replicate 266 0)) (modStack onFetch 0 (fun t => { t with selfRef := true }))) = (.fetch, 0) := by decide +kernel

theorem wit_watch_reads : topsMay onReg .sec false 0xC 0 = true ∧ topsMay onReg .sec false 0xE 0 = false ∧ topsMay onReg .telemetry false 0 0x400014 = true ∧ topsMay onReg .telemetry false 0 0x400016 = false ∧
    fnPlace .pf 0x100008 = some (.cfg 8) ∧ telemetryPlace (.cfg 8) = false ∧ topsMay onReg .topsData false 0x7FFFFC 0 = true ∧ topsMay onReg .topsData false 0x7FFFFD 0 = false := by decide +kernel
theorem test_watch_reads : (aft (.topsBusAccess .telemetry none 0 0x100008) onReg).sec.out = [.busError] ∧ (aft (.topsBusAccess .topsData none 4 0) (aft (.topsBusAccess .topsData (some 0x12345678) 4 0) onReg)).sec.out = [.word 0x12345678] := by decide +kernel
theorem wit_reset_contained : resetContains (onReset 4) ⟨4, 0, 0, false, 1, false⟩ 2 0 0 = true ∧ resetContains (onReset 2) ⟨2, 0, 0, false, 1, false⟩ 4 0 0 = false ∧ recentReset (onReset 2) 4 0 0 = false ∧ waitsOnStream (onReset 2) 0 = false ∧
    waitsOnStream (modFlt onFetch (fun f => { f with run := some ⟨2, 0, 0, false, 1, false⟩ })) 0 = true ∧ targetOwned (onReset 2) 4 0 = true := by decide +kernel
theorem test_reset_contained : (aft (.resetCore 0) (onReset 4)).flt.stUnit = 4 ∧ (aft (.resetPartition 0) (onReset 2)).flt.stCode = 1 ∧
    (aft (.resetPartition 0) (modFlt onFetch (fun f => { f with run := some ⟨2, 0, 0, false, 1, false⟩ }))).flt.held = [⟨4, 0, 0, false, 0, false⟩] := by decide +kernel
/-- Core 0 is in reset; its image asks for contexts 0 and 1. -/
def onRestart : State := modPart (modCore (onReset 2) 0 (fun m => { m with ctx := vmod m.ctx 0 (fun x => { x with st := .halted }) })) 0 (fun p =>
  { p with images := [⟨0, 3, List.replicate 64 0, [64, 128]⟩] })
theorem wit_restart_image : drained onRestart ⟨2, 0, 0, false, 1, false⟩ = true ∧ (imageOf onRestart 0).map (fun g => (g.ctxMask, headerBad (getCore onRestart 0).imem g)) = some (3, true) ∧ (getCtx onRestart 0 0).st = .halted := by decide +kernel
theorem test_restart_image : (getCtx (aft .resetComplete onRestart) 0 0).st = .faulted ∧ (getCtx (aft .resetComplete onRestart) 0 2).st = .halted := by decide +kernel
theorem wit_flow_used : flowUsed (onFlow 5 true) = true ∧ flowUsed onReg = false := by decide +kernel

/-- Three flits are kept; the ACK of the first, of none and of all of them. -/
def dtx : DlTx := ⟨8, [(5, [1]), (6, [2]), (7, [3])], []⟩
theorem wit_kept : keptFlits dtx 6 [(6, [2]), (7, [3])] ∧ keptFlits dtx 8 [] ∧ keptFlits dtx 100 dtx.replay :=
  ⟨.inl ⟨[(5, [1])], [2], [(7, [3])], rfl, rfl, by decide⟩, .inr ⟨by decide, rfl⟩, .inr ⟨by decide, rfl⟩⟩
theorem test_dl_send : (dlSend 0 0 (bun (onBun .full false none none [])) (List.replicate 256 (some 7))).tx = #v[⟨1, [(0, List.replicate 256 7)], []⟩, ⟨0, [], []⟩] := by decide +kernel
def oldBun (p : Phase) : State := modHub (onBun .untrained false none none [3]) (fun h => { h with phase := p })
theorem wit_old_lane : (bun (oldBun .b)).lanes = [3] ∧ (oldBun .b).hub.phase = .b ∧ (oldBun .g).hub.phase ≠ .b ∧ (oldBun .g).flt.run = none ∧ (∃ b' : Fin 8, b' ≠ 0 ∧ carries (modPair22 (oldBun .g) 18 (fun p => { p with bundles := vmod p.bundles 1 (fun x => { x with st := .full }) })) 18 b') :=
  ⟨by decide +kernel, by decide +kernel, by decide +kernel, by decide +kernel, 1, by decide, by decide +kernel, .inl (by decide +kernel)⟩
theorem test_old_lane : (aft (.bundleTrainComplete 18 0 .fallback []) (oldBun .b)).flt.waiting.map (fun r => r.cls) = [0x30] ∧ (aft (.bundleTrainComplete 18 0 .fallback []) (oldBun .g)).flt.waiting = [] := by decide +kernel
/-- The hub pair of tile 0 had lost every bundle before the reset of the tile. -/
def lostPair (l : Bool) : State := modFlt (modPair22 onReg 18 (fun p => { p with severed := true, lost := l })) (fun f => { f with run := some ⟨7, 0, 0, false, 1, false⟩ })
theorem wit_lost_pair : 18 ∈ pairsOfDie 0 ∧ pairPresent (lostPair true) (18 : Fin 22).val = true ∧ (bundleAt (lostPair true) 18 1).st = .untrained ∧ (vget (lostPair true).pairs 18).lost = true := by decide +kernel
theorem test_lost_pair : (vget (aft (.bundleTrainComplete 18 0 .fallback []) (lostPair true)).pairs 18).severed = true ∧ (vget (aft (.bundleTrainComplete 18 0 .fallback []) (lostPair false)).pairs 18).severed = false := by decide +kernel
theorem wit_bring_up : (at' .d).hub.cold = true ∧ (aft (.phaseE 0xFF) (at' .d)).hub.cold = false ∧ (chipReset onReg 1).hub.ready = false ∧ onReg.hub.ready = true := by decide +kernel

/-- A guest's frame of a kind that no window allows. -/
def oddBytes : List Byte := [0x0F, 3, 2, 0, 0, 0, 0, 0] ++ List.replicate 72 0
theorem wit_guest_bytes : atHusk (onHusk 2 15 128 []) 1 (guestFrameOf oddBytes) ∧ (huskWindow (onHusk 2 15 128 []) 1 (guestFrameOf oddBytes).window).isSome = true ∧ (guestFrameOf oddBytes).kind ∉ [1, 3, 5, 7, 8] := by
  refine ⟨⟨?_, ?_, ?_, ?_, ?_, ?_, ?_, ?_⟩, ?_, ?_⟩ <;> decide +kernel
theorem test_guest_bytes : errs (guestBytes (onHusk 2 15 128 []) 1 oddBytes) = [(0x0F, 3)] ∧ (getGuest (guestBytes (onHusk 2 15 128 []) 1 oddBytes) 1).vioCause = 3 := by decide +kernel
theorem wit_mgmt_waits : waitsOnStream onFetch (0 : PartId).val = true ∧ targetOwned onFetch 4 (0 : PartId).val = true ∧ recentReset onFetch 4 (0 : PartId).val 0 = false ∧ onFetch.flt.run = none := by decide +kernel
theorem test_mgmt_waits : said (aft (.mgmtReset 4 0 0) onFetch) = [[0, 0, 0, 0]] ∧ (aft (.mgmtReset 4 0 0) onFetch).flt.held = [⟨4, 0, 0, false, 0, true⟩] ∧ said (match pldmOther 0 7 onReg with | .next t => t | _ => onReg) = [[5]] := by decide +kernel
/-- The three outcomes of an instruction at issue. -/
theorem wit_outcomes : programCore (.nop 0 5) = some 0 ∧ runningCtx on 0 = some 0 ∧ coreClocked on 0 = true ∧ resetCovers on 0 (0 : CtxId).val = false ∧ 64 ≤ (pcOf on 0 0).toNat ∧ opListed 5 = true ∧ isNopWord 5 = true := by decide +kernel
theorem test_outcomes : (getCtx (aft (.nop 0 0) on) 0 0).ret = 1 ∧ (getCtx (aft (.strmGo 0 (fS 0 0 0 0 5)) onEight) 0 0).st = .blocked ∧ (getCtx (aft (.nop 0 5) on) 0 0).fltAddr = pcOf on 0 0 := by decide +kernel
end Sys2Proof.Tests
end

/-!
PROOFS of family 00_scope.md: register accesses of the host (R4 to R6, R33, R338), the capability block and its copies (R2, R3, R10).
-/

namespace Sys2Proof.Machine

/-! ### What an access can do -/

theorem exec_registerRead (fn : Fn) (off size : Nat) (s : State) :
    exec (.registerRead fn off size) s = .next (access s ⟨fn, off, size, none⟩) := rfl

theorem exec_registerWrite (fn : Fn) (off size : Nat) (v : BitVec 64) (s : State) :
    exec (.registerWrite fn off size v) s = .next (access s ⟨fn, off, size, some v⟩) := rfl

theorem exec_counterLowRead (fn : Fn) (off : Nat) (s : State) : exec (.counterLowRead fn off) s = execCounterLowRead fn off s := rfl

theorem exec_counterLowRead_lo {s : State} {fn : Fn} {off : Nat} {c : BitVec 64} (h : regRead s fn off = some (.lo c)) :
    exec (.counterLowRead fn off) s = exec (.registerRead fn off 4) s := by
  simp only [exec_counterLowRead, exec_registerRead, execCounterLowRead, h]

theorem exec_counterLowRead_word {s : State} {fn : Fn} {off n : Nat} (h : regRead s fn off = some (.word n)) :
    exec (.counterLowRead fn off) s = .next s := by
  simp only [exec_counterLowRead, execCounterLowRead, h]

theorem accessOk_four {s : State} {fn : Fn} {off : Nat} (w : Option (BitVec 64)) (ha : off % 4 = 0) (hr : (regRead s fn off).isSome) :
    accessOk s ⟨fn, off, 4, w⟩ = true := by
  simp [accessOk, ha, hr]

theorem accessOk_eight {s : State} {fn : Fn} {off : Nat} (w : Option (BitVec 64)) (ha : off % 8 = 0) (hl : (regRead s fn off).isSome)
    (hh : (regRead s fn (off + 4)).isSome) : accessOk s ⟨fn, off, 8, w⟩ = true := by
  simp [accessOk, ha, hl, hh]

/-- R5 and R33: the accesses that no register serves. -/
theorem accessOk_eq_false {s : State} {fn : Fn} {off size : Nat} (w : Option (BitVec 64))
    (h : (size ≠ 4 ∧ size ≠ 8) ∨ off % size ≠ 0 ∨ regRead s fn off = none ∨ (size = 8 ∧ regRead s fn (off + 4) = none)) :
    accessOk s ⟨fn, off, size, w⟩ = false := by
  rcases h with ⟨h4, h8⟩ | ha | hn | ⟨rfl, hn⟩
  · simp [accessOk, h4, h8]
  · by_cases h4 : size = 4
    · subst h4; simp [accessOk, ha]
    · by_cases h8 : size = 8
      · subst h8; simp [accessOk, ha]
      · simp [accessOk, h4, h8]
  · simp [accessOk, hn]
  · simp [accessOk, hn]

section
variable {s : State} {a : RegAcc} (hup : taprootUp s = true) (hlive : fnLive s a.fn = true)
include hup hlive

theorem access_bad (hbad : accessOk s a = false) : access s a = busError s a.fn a.off := by
  simp [access, hup, hlive, hbad]

theorem access_awake (hok : accessOk s a = true)
    (haw : ∀ k, accCore a = some k → (getRegion s (regionOf k)).power = .awake) : access s a = serveAcc s a := by
  cases hk : accCore a with
  | none => simp [access, hup, hlive, hok, hk]
  | some k => simp [access, hup, hlive, hok, hk, haw k hk]

/-- R338: an access to a core of a region that is not Awake asks for the wake and waits. -/
theorem access_notAwake {k : CoreId} (hok : accessOk s a = true) (hk : accCore a = some k)
    (hp : (getRegion s (regionOf k)).power ≠ .awake) :
    access s a = modHub (wakeRegion s (regionOf k)) (fun h => { h with waitAcc := h.waitAcc ++ [a] }) := by
  simp [access, hup, hlive, hok, hk, hp]
end

theorem serveAcc_read {s : State} {fn : Fn} {off size : Nat} (hok : accessOk s ⟨fn, off, size, none⟩ = true) :
    serveAcc s ⟨fn, off, size, none⟩ = serveRead s ⟨fn, off, size, none⟩ := by
  simp [serveAcc, hok]

theorem serveAcc_write_four {s : State} {fn : Fn} {off : Nat} {v : BitVec 64} (hok : accessOk s ⟨fn, off, 4, some v⟩ = true) :
    serveAcc s ⟨fn, off, 4, some v⟩ = write32 s fn off (v.extractLsb' 0 32) := by
  simp [serveAcc, hok, serveWrite]

/-! ### Bus errors (R5, R33) -/

/-- Settles O37: every such access fails `accessOk`, and a bus error touches the fault log and the answers alone. -/
theorem busErrors : Obligations.BusErrors := by
  unfold Obligations.BusErrors
  intro s fn off size c hup hlive hc hbad
  have hex : exec c s = .next (busError s fn off) := by
    rcases hc with rfl | ⟨v, rfl⟩
    · rw [exec_registerRead, access_bad hup hlive (accessOk_eq_false none hbad)]
    · rw [exec_registerWrite, access_bad hup hlive (accessOk_eq_false (some v) hbad)]
  exact ⟨_, _, hex, rfl, rfl, rfl, rfl, rfl⟩

/-! ### Counters in halves (R6) -/

theorem find?_tset_self {α : Type} (l : Tbl α) (k : Nat) (x : α) : (tset l k x).find? (fun e => e.1 = k) = some (k, x) := by
  induction l with
  | nil => simp [tset]
  | cons e es ih =>
    by_cases h : e.1 = k
    · simp [tset, h]
    · simp [tset, h, ih]

section
variable {s : State} {fn : Fn} {off : Nat} {c : BitVec 64}

theorem serveRead_four_lo (h : regRead s fn off = some (.lo c)) : serveRead s ⟨fn, off, 4, none⟩ =
    respond { modHub s (fun h => { h with shadow := tset h.shadow (shadowKey fn (off + 4)) (c.extractLsb' 32 32) }) with
      freeCtr := s.freeCtr + 1 } (.value ((c.extractLsb' 0 32).setWidth 64)) := by
  simp [serveRead, read32, h]

theorem serveRead_four_hi {x : W32} (h : regRead s fn off = some (.hi c))
    (hx : s.hub.shadow.find? (fun e => e.1 = shadowKey fn off) = some (shadowKey fn off, x)) : serveRead s ⟨fn, off, 4, none⟩ =
    respond { modHub s (fun h => { h with shadow := h.shadow.filter (fun e => e.1 != shadowKey fn off) }) with
      freeCtr := s.freeCtr + 1 } (.value (x.setWidth 64)) := by
  simp [serveRead, read32, h, hx]

theorem serveRead_four_word {n : Nat} (h : regRead s fn off = some (.word n)) : serveRead s ⟨fn, off, 4, none⟩ =
    respond { s with freeCtr := s.freeCtr + 1 } (.value ((BitVec.ofNat 32 n).setWidth 64)) := by
  simp [serveRead, read32, h]

theorem serveRead_eight (hl : regRead s fn off = some (.lo c)) (hh : regRead s fn (off + 4) = some (.hi c)) :
    serveRead s ⟨fn, off, 8, none⟩ = respond { s with freeCtr := s.freeCtr + 1 } (.value c) := by
  have hc : BitVec.ofNat 64 (c.toNat / 2 ^ 32 * 2 ^ 32 + c.toNat % 2 ^ 32) = c := by
    rw [Nat.div_add_mod', BitVec.ofNat_toNat, BitVec.setWidth_eq]
  simp only [serveRead, regNow, hl, hh, hc, if_true]

/-- An access that is open and names its registers is served at once. -/
theorem exec_read_open {size : Nat} (ho : accessOpen s fn off) (hok : accessOk s ⟨fn, off, size, none⟩ = true) :
    exec (.registerRead fn off size) s = .next (serveRead s ⟨fn, off, size, none⟩) := by
  obtain ⟨hup, hlive, haw⟩ := ho
  rw [exec_registerRead, access_awake hup hlive hok haw, serveAcc_read hok]
end

theorem low_half_setWidth (c : BitVec 64) : (c.extractLsb' 0 32).setWidth 64 = c &&& 0xFFFFFFFF := by
  apply BitVec.eq_of_toNat_eq
  have hm : c.toNat &&& (2 ^ 32 - 1) = c.toNat % 2 ^ 32 := Nat.and_two_pow_sub_one_eq_mod _ 32
  have hlt : c.toNat % 4294967296 < 18446744073709551616 := by omega
  simpa [Nat.mod_eq_of_lt hlt] using hm.symm

/-- Settles O38: one equation of `serveRead` for each kind of register and each width. -/
theorem counterReads : Obligations.CounterReads := by
  unfold Obligations.CounterReads
  intro s fn off c ha ho
  have read4 : ∀ {r}, regRead s fn off = some r →
      exec (.registerRead fn off 4) s = .next (serveRead s ⟨fn, off, 4, none⟩) :=
    fun h => exec_read_open ho (accessOk_four none ha (by simp [h]))
  refine ⟨fun hl i hi => ?low, fun x hh hx => ?high, fun hl hh ha8 => ?both, fun n hw => ?word⟩
  case low =>
    have hex : exec i s = .next (serveRead s ⟨fn, off, 4, none⟩) := by
      simp only [List.mem_cons, List.not_mem_nil, or_false] at hi
      rcases hi with rfl | rfl
      · rw [exec_counterLowRead_lo hl, read4 hl]
      · exact read4 hl
    rw [serveRead_four_lo hl, low_half_setWidth] at hex
    exact ⟨_, hex, rfl, find?_tset_self _ _ _, rfl⟩
  case high =>
    have hex := read4 hh
    rw [serveRead_four_hi hh hx] at hex
    exact ⟨_, hex, rfl, by simp⟩
  case both =>
    have hex := exec_read_open ho (accessOk_eight none ha8 (by simp [hl]) (by simp [hh]))
    rw [serveRead_eight hl hh] at hex
    exact ⟨_, hex, rfl, rfl⟩
  case word =>
    have hex := read4 hw
    rw [serveRead_four_word hw] at hex
    exact ⟨exec_counterLowRead_word hw, _, hex, rfl, rfl⟩

/-! ### The capability block and its copies (R2, R3, R10) -/

/-- The capability block in BAR0 (Table 0.6). -/
theorem fnPlace_cap {off : Nat} (h : off < 0x100) : fnPlace .pf (0x1000 + off) = some (.cap off) := by
  have hm : (0x1000 + off) / 0x100000 = 0 := by omega
  have ho : (0x1000 + off) % 0x100000 = 0x1000 + off := by omega
  have hr : 0x1000 + off < 0x1100 := by omega
  simp [fnPlace, placeOf, hm, ho, hr]

/-- The status blocks in BAR0 (Table 12.9). -/
theorem fnPlace_status (p : PartId) {off : Nat} (h : off < 0x4000) :
    fnPlace .pf (0x680000 + p.val * 0x4000 + off) = some (.status p off) := by
  have hp := p.isLt
  have hm : (0x680000 + p.val * 0x4000 + off) / 0x100000 = 6 := by omega
  have hx : 0x680000 + p.val * 0x4000 + off - 0x600000 = 0x80000 + (p.val * 0x4000 + off) := by omega
  have hr : 0x80000 + (p.val * 0x4000 + off) < 0x100000 := by omega
  have hd : (p.val * 0x4000 + off) / 0x4000 = p.val := by omega
  have ho : (0x80000 + (p.val * 0x4000 + off)) % 0x4000 = off := by omega
  simp [fnPlace, placeOf, hm, hx, hr, hd, ho]

theorem fnPlace_vf (p : PartId) {off : Nat} (h : off < 0x4000) : fnPlace (.vf p) off = some (.status p off) := by
  simp [fnPlace, h]

theorem regRead_of_place {s : State} {fn : Fn} {off : Nat} {q : Place} (hq : fnPlace fn off = some q) (hon : placeOn s q = true) :
    regRead s fn off = placeReg s q := by
  simp [regRead, hq, hon]

theorem capReg_isSome (s : State) {off : Nat} (h : off < 0x100) : (capReg s off).isSome = true := by
  simp [capReg, h]

theorem regRead_cap (s : State) {off : Nat} (h : off < 0x100) : regRead s .pf (0x1000 + off) = capReg s off :=
  regRead_of_place (fnPlace_cap h) rfl

/-- R10: a status block begins with the capability block. -/
theorem placeReg_status_copy (s : State) (p : PartId) {off : Nat} (h : off < 0x100) : placeReg s (.status p off) = capReg s off := by
  simp [placeReg, statusReg, h]

theorem writeAt_cap (s : State) (v : W32) (off : Nat) : writeAt s v (.cap off) = s := rfl

theorem writeAt_status_copy (s : State) (v : W32) (p : PartId) {off : Nat} (h : off < 0x100) : writeAt s v (.status p off) = s := by
  have hne : ∀ n, 0x100 ≤ n → off ≠ n := fun n hn => by omega
  have hc : clearAt s v (.status p off) = none := by simp [clearAt, hne]
  have hlow : ¬ 0x200 ≤ off := by omega
  simp [writeAt, hc, writeStatus, hne, hlow]

/-- A 32-bit write of a register outside the core blocks is done at once. -/
theorem exec_write_place {s : State} {fn : Fn} {off : Nat} {q : Place} (v : BitVec 64) (hup : taprootUp s = true)
    (hlive : fnLive s fn = true) (ha : off % 4 = 0) (hq : fnPlace fn off = some q) (hr : (regRead s fn off).isSome = true)
    (hc : ∀ k o, q ≠ .core k o) : exec (.registerWrite fn off 4 v) s = .next (writeAt s (v.extractLsb' 0 32) q) := by
  have hok := accessOk_four (some v) ha hr
  have hk : accCore ⟨fn, off, 4, some v⟩ = none := by
    cases q with
    | core k o => exact absurd rfl (hc k o)
    | _ => simp only [accCore, hq]
  have haw := access_awake (a := ⟨fn, off, 4, some v⟩) hup hlive hok (by simp [hk])
  rw [exec_registerWrite, haw, serveAcc_write_four hok, write32, hq]

/-- R3: the U48-H6L3 has no stacks 6 and 7. -/
theorem capReg_stack_h6l3 (s : State) (h : s.fuses.code = 3) : ∃ n, capReg s 0x1C = some (.word n) ∧ n / 2 ^ 24 = 0x3F :=
  ⟨fld (siteMask s).toNat 24 + fld 64 12 + fld 32 4, rfl, by simp [siteMask, h, fld]⟩

/-- R2: the U48-H8L2 has no link die 2. -/
theorem capReg_link_h8l2 (s : State) (h : s.fuses.code = 2) : ∃ n, capReg s 0x20 = some (.word n) ∧ n / 2 ^ 24 = 3 :=
  ⟨fld (linkMask s).toNat 24 + fld (ports s) 16 + fld 16 8 + 224, rfl, by
    have hp : ports s = 16 := by simp only [ports, linkMask, h, if_true]; decide
    simp [hp, linkMask, h, fld]⟩

/-- Settles O39: both copies name the block itself, and a write of any of the three is ignored. -/
theorem capabilityCopy : Obligations.CapabilityCopy := by
  unfold Obligations.CapabilityCopy
  intro s p off h
  have h4 : off < 0x4000 := by omega
  refine ⟨fun hon => ⟨?vf, ?pf, fun v ha hup hlive => ⟨?wvf, ?wpf⟩⟩, fun hc => ?link, fun hc => ?stack⟩
  case vf =>
    rw [regRead_of_place (fnPlace_vf p h4) hon, placeReg_status_copy s p h, regRead_cap s h]
  case pf =>
    rw [regRead_of_place (fnPlace_status p h4) hon, placeReg_status_copy s p h, regRead_cap s h]
  case wvf =>
    have hr : (regRead s (.vf p) off).isSome = true := by
      rw [regRead_of_place (fnPlace_vf p h4) hon, placeReg_status_copy s p h, capReg_isSome s h]
    rw [exec_write_place (fn := .vf p) v hup hlive ha (fnPlace_vf p h4) hr (by simp), writeAt_status_copy s _ p h]
  case wpf =>
    have hr : (regRead s .pf (0x1000 + off)).isSome = true := by rw [regRead_cap s h, capReg_isSome s h]
    rw [exec_write_place v hup rfl (by omega) (fnPlace_cap h) hr (by simp), writeAt_cap]
  case link => rw [show (0x1020 : Nat) = 0x1000 + 0x20 from rfl, regRead_cap s (by decide)]; exact capReg_link_h8l2 s hc
  case stack => rw [show (0x101C : Nat) = 0x1000 + 0x1C from rfl, regRead_cap s (by decide)]; exact capReg_stack_h6l3 s hc

/-! ### Accesses to a region that stays held in reset (R338, R382) -/

theorem wakeRegion_ownerHeld {s : State} {r : RegionId} (h : ownerHeld (getRegion s r) = true) :
    getRegion (wakeRegion s r) r = getRegion s r := by
  simp [wakeRegion, h]

/-- A region that stays held in reset does not wake: the access waits, and the region is as it was. -/
theorem registerRead_ownerHeld {s : State} {fn : Fn} {off size : Nat} {k : CoreId} (hup : taprootUp s = true)
    (hlive : fnLive s fn = true) (hok : accessOk s ⟨fn, off, size, none⟩ = true) (hk : accCore ⟨fn, off, size, none⟩ = some k)
    (hp : (getRegion s (regionOf k)).power ≠ .awake) (hh : ownerHeld (getRegion s (regionOf k)) = true) :
    ∃ t, exec (.registerRead fn off size) s = .next t ∧ getRegion t (regionOf k) = getRegion s (regionOf k) :=
  ⟨_, congrArg Host.Outcome.next (access_notAwake hup hlive hok hk hp), wakeRegion_ownerHeld hh⟩

/-- The device in service: partition 0 owns region 0, which is Awake, and maps a page of stack 0, whose die is SEVERED; the cores'
register blocks are clocked. -/
def stackSevered : State :=
  { State.reset with
    regions := vmod State.reset.regions 0 (fun g => { g with owner := some 0, power := .awake })
    parts := vset State.reset.parts 0 { PartCfg.none with live := true, regions := 1, maps := [⟨0, 0, 2, 15⟩] }
    clk := { Clk.reset with enCores := .replicate 4 0xFFFFFFFF }
    flt := { Flt.reset with severed := bit32 (dieStack 0) }
    hub := { Hub.reset with phase := .g }
    sec := { Sec.reset with tops := .running } }

/-- The operator resets partition 0, and the reset ends: for the SEVERED die that the partition depends on its region stays held (R382). -/
noncomputable def heldAfterReset : State :=
  let s := ran stackSevered (exec (.resetPartition 0) stackSevered)
  ran s (exec .partitionResetDrained s)

/-- Core 0's register block begins at offset 0x120_0000 (Tables 1.9 and 1.10). -/
theorem heldAfterReset_access : taprootUp heldAfterReset = true ∧ accCore ⟨.pf, 0x1200000, 4, none⟩ = some 0 ∧
    accessOk heldAfterReset ⟨.pf, 0x1200000, 4, none⟩ = true := by
  decide +kernel

theorem heldAfterReset_region : (getRegion heldAfterReset (regionOf 0)).power = .asleep ∧
    ownerHeld (getRegion heldAfterReset (regionOf 0)) = true := by
  decide +kernel

/-- Refutes O40: the last clause of `Claims.RegisterWrites` says that an access to a core of a region that sleeps takes it to Waking. A
region that a partition reset leaves Asleep and held, as R382 asks while a die that its partition depends on is SEVERED, does not wake. -/
theorem not_registerAccesses : ¬ Obligations.RegisterAccesses := by
  unfold Obligations.RegisterAccesses Claims.RegisterWrites
  rintro ⟨hwrites, -⟩
  obtain ⟨hup, hk, hok⟩ := heldAfterReset_access
  obtain ⟨hasleep, hheld⟩ := heldAfterReset_region
  obtain ⟨-, -, -, -, -, hwakes⟩ := hwrites heldAfterReset 0 0 hup
  obtain ⟨t, ht, hwaking, -⟩ := hwakes 0x1200000 4 0 hk hok hasleep
  obtain ⟨u, hu, hsame⟩ := registerRead_ownerHeld hup rfl hok hk (by simp [hasleep]) hheld
  obtain rfl : t = u := Host.Outcome.next.inj (ht.symm.trans hu)
  rw [hsame, hasleep] at hwaking
  exact absurd hwaking (by decide)

end Sys2Proof.Machine

/-!
PROOFS of family 01_structure.md: instructions reach only their core (R22, R25, R34), a queue of them leaves the device as it is, and
the clock monitors (R16, R343 to R346).
-/

namespace Sys2Proof.Machine

section
variable {k : CoreId} {s t : State} {c : CtxId}

theorem onlyCore.ite {p : Prop} {_ : Decidable p} {t u : State} (ht : onlyCore k s t) (hu : onlyCore k s u) :
    onlyCore k s (if p then t else u) := by
  split
  · exact ht
  · exact hu

/-! ### How an instruction ends, and what it has reached -/

/-- Between `s` and how an instruction ends, only what belongs to the core has changed. -/
def IRes.onlyCore (k : CoreId) (s : State) : IRes → Prop
  | .done t => Machine.onlyCore k s t
  | .doneThen t g => Machine.onlyCore k s t ∧ ∀ u, Machine.onlyCore k u (g u)
  | .jump t _ => Machine.onlyCore k s t
  | .wait t _ => Machine.onlyCore k s t
  | .fault t _ _ _ => Machine.onlyCore k s t

theorem bodyLocal_of_onlyCore {body : CtxId → State → IRes} (h : ∀ c s, (body c s).onlyCore k s) : bodyLocal k body := by
  intro c s
  have hr := h c s
  revert hr
  cases body c s <;> exact id

theorem IRes.onlyCore.after {r : IRes} (hst : Machine.onlyCore k s t) (hr : r.onlyCore k t) : r.onlyCore k s := by
  cases r with
  | doneThen u g => exact ⟨hst.trans hr.1, hr.2⟩
  | _ => exact hst.trans hr

theorem IRes.onlyCore.iFault (f : FCls) : (Machine.iFault s f).onlyCore k s := Machine.onlyCore.refl k s

theorem IRes.onlyCore.faultSame (f : FCls) (d : BitVec 16) (a : BitVec 64) : (IRes.fault s f d a).onlyCore k s := Machine.onlyCore.refl k s

theorem IRes.onlyCore.waitSame (w : Wait) : (IRes.wait s w).onlyCore k s := Machine.onlyCore.refl k s

theorem IRes.onlyCore.doneSame : (IRes.done s).onlyCore k s := Machine.onlyCore.refl k s

theorem IRes.onlyCore.ite {p : Prop} {_ : Decidable p} {a b : IRes} (ha : a.onlyCore k s) (hb : b.onlyCore k s) :
    (if p then a else b).onlyCore k s := by
  split
  · exact ha
  · exact hb

/-- An instruction that first looks for a fault of R422. -/
theorem IRes.onlyCore.checked {e : Option FCls} {r : IRes} (h : r.onlyCore k s) :
    (match e with | some f => Machine.iFault s f | none => r : IRes).onlyCore k s := by
  cases e with
  | none => exact h
  | some f => exact IRes.onlyCore.iFault f

/-- A command that reaches only the core, in every state. -/
def reachesCore (k : CoreId) (o : State → Out) : Prop := ∀ s t, o s = .next t → onlyCore k s t

theorem reachesCore_runInstr {body : CtxId → State → IRes} (h : ∀ c s, (body c s).onlyCore k s) :
    reachesCore k (fun s => .next (runInstr k body s)) := by
  rintro s _ ⟨⟩
  exact onlyCore.runInstr (bodyLocal_of_onlyCore h)

/-! ### Scalar instructions (Tables 3.8 and 3.9) -/

theorem execNop_reachesCore (w : BitVec 64) : reachesCore k (execNop k w) := by
  intro s t h
  unfold execNop at h
  split at h
  · cases h
    exact onlyCore.refl k s
  · exact reachesCore_runInstr (fun _ _ => .ite .doneSame (.iFault _)) s t h

theorem aluR_reachesCore (f : FieldsR) (op : W64 → W64 → W64) : reachesCore k (aluR k f op) :=
  reachesCore_runInstr fun _ _ => .ite (onlyCore.setG _ _ _) (.iFault _)

theorem aluI_reachesCore (f : FieldsI) (op : W64 → W64 → W64) : reachesCore k (aluI k f op) :=
  reachesCore_runInstr fun _ _ => .ite (onlyCore.setG _ _ _) (.iFault _)

theorem execTset_reachesCore (f : FieldsR) : reachesCore k (execTset k f) :=
  reachesCore_runInstr fun _ _ => .ite (onlyCore.modCtx _ _) (.iFault _)

theorem execTget_reachesCore (f : FieldsR) : reachesCore k (execTget k f) :=
  reachesCore_runInstr fun _ _ => .ite (onlyCore.setG _ _ _) (.iFault _)

theorem execRdid_reachesCore (f : FieldsR) : reachesCore k (execRdid k f) :=
  reachesCore_runInstr fun _ _ => .ite (onlyCore.setG _ _ _) (.iFault _)

theorem execLi_reachesCore (f : FieldsL) : reachesCore k (execLi k f) :=
  reachesCore_runInstr fun _ _ => .ite (onlyCore.setG _ _ _) (.iFault _)

theorem execLih_reachesCore (f : FieldsL) : reachesCore k (execLih k f) :=
  reachesCore_runInstr fun _ _ => .ite (onlyCore.setG _ _ _) (.iFault _)

theorem branchIf_reachesCore (f : FieldsB) (p : W64 → W64 → Bool) : reachesCore k (branchIf k f p) :=
  reachesCore_runInstr fun _ _ => .ite (.iFault _) (.ite (.checked (onlyCore.refl k _)) .doneSame)

theorem execJal_reachesCore (f : FieldsB) : reachesCore k (execJal k f) :=
  reachesCore_runInstr fun _ _ => .ite (.iFault _) (.checked (onlyCore.setG _ _ _))

theorem execJr_reachesCore (f : FieldsB) : reachesCore k (execJr k f) :=
  reachesCore_runInstr fun _ _ => .ite (.iFault _) (.checked (onlyCore.refl k _))

/-! ### Local loads and stores (R66, R69) -/

theorem onlyCore.of_readLocal {sp : Space} {a n : Nat} {r : Option (List Byte)} (h : Machine.readLocal s k sp a n = (t, r)) :
    onlyCore k s t := by
  have hread := onlyCore.readLocal (k := k) (s := s) sp a n
  rwa [h] at hread

theorem onlyCore.of_readRanges {rs : List (Nat × Nat)} {r : Option (List (List Byte))} (h : Machine.readRanges s k rs = (t, r)) :
    onlyCore k s t := by
  have hread := onlyCore.readRanges (k := k) (s := s) rs
  rwa [h] at hread

theorem onlyCore.of_touchSofts {u : Soft} {bs : List Nat} {r : Bool} (h : Machine.touchSofts s k u bs = (t, r)) : onlyCore k s t := by
  have hread := onlyCore.touchSofts (k := k) (s := s) u bs
  rwa [h] at hread

theorem loadLocal_reachesCore (f : FieldsI) (legal : Bool) (spMax n al : Nat) (fin : Ctx → List Byte → Ctx) :
    reachesCore k (loadLocal k f legal spMax n al fin) := by
  refine reachesCore_runInstr fun c s => ?_
  split
  · exact .iFault _
  · split
    next t bs hr => exact .after (.of_readLocal hr) (onlyCore.modCtx _ _)
    next t hr => exact .after (.of_readLocal hr) (.faultSame _ _ _)

theorem storeLocal_reachesCore (f : FieldsI) (legal : Bool) (n al : Nat) (src : Ctx → List Byte) :
    reachesCore k (storeLocal k f legal n al src) := by
  refine reachesCore_runInstr fun c s => ?_
  split
  · exact .iFault _
  · exact onlyCore.writeLocal _ _ _

theorem execLd_reachesCore (f : FieldsI) : reachesCore k (execLd k f) := by
  unfold execLd
  exact loadLocal_reachesCore f _ _ _ _ _

theorem execLdw_reachesCore (f : FieldsI) : reachesCore k (execLdw k f) := by
  unfold execLdw
  exact loadLocal_reachesCore f _ _ _ _ _

theorem execVld_reachesCore (f : FieldsI) : reachesCore k (execVld k f) := by
  unfold execVld
  exact loadLocal_reachesCore f _ _ _ _ _

theorem execSt_reachesCore (f : FieldsI) : reachesCore k (execSt k f) := by
  unfold execSt
  exact storeLocal_reachesCore f _ _ _ _

theorem execStw_reachesCore (f : FieldsI) : reachesCore k (execStw k f) := by
  unfold execStw
  exact storeLocal_reachesCore f _ _ _ _

theorem execVst_reachesCore (f : FieldsI) : reachesCore k (execVst k f) := by
  unfold execVst
  exact storeLocal_reachesCore f _ _ _ _

/-! ### Vector instructions (Table 3.10, R71) -/

theorem vecR_reachesCore (f : FieldsR) (allow : Lane → Bool) (op : Lane → Nat → Nat → Nat) : reachesCore k (vecR k f allow op) := by
  refine reachesCore_runInstr fun c s => ?_
  split
  · exact .iFault _
  · exact .ite (onlyCore.modCtx _ _) (.iFault _)

theorem execVfma_reachesCore (f : FieldsR) : reachesCore k (execVfma k f) := by
  refine reachesCore_runInstr fun c s => ?_
  split
  · exact .iFault _
  · exact .ite (onlyCore.modCtx _ _) (.iFault _)

theorem vecBits_reachesCore (f : FieldsR) (op : VReg → VReg → VReg) : reachesCore k (vecBits k f op) :=
  reachesCore_runInstr fun _ _ => .ite (onlyCore.modCtx _ _) (.iFault _)

theorem execVcvt_reachesCore (f : FieldsR) : reachesCore k (execVcvt k f) := by
  refine reachesCore_runInstr fun c s => ?_
  dsimp only
  split
  · exact .ite (onlyCore.modCtx _ _) (.iFault _)
  · exact .iFault _

theorem vecTree_reachesCore (f : FieldsR) (op : Lane → Nat → Nat → Nat) : reachesCore k (vecTree k f op) := by
  refine reachesCore_runInstr fun c s => ?_
  split
  · exact .iFault _
  · exact .ite (onlyCore.modCtx _ _) (.iFault _)

theorem execVbcast_reachesCore (f : FieldsR) : reachesCore k (execVbcast k f) := by
  refine reachesCore_runInstr fun c s => ?_
  split
  · exact .iFault _
  · exact .ite (onlyCore.modCtx _ _) (.iFault _)

theorem execVext_reachesCore (f : FieldsR) : reachesCore k (execVext k f) := by
  refine reachesCore_runInstr fun c s => ?_
  split
  · exact .iFault _
  · exact .ite (onlyCore.setG _ _ _) (.iFault _)

/-! ### Tensor instructions at issue (Table 3.11, R65) -/

theorem IRes.onlyCore.enqueue (kind : TKind) : (Machine.enqueue s k c kind).onlyCore k s := by
  unfold Machine.enqueue
  refine .ite (.waitSame _) ?_
  split
  · exact .doneSame
  · exact ((Machine.onlyCore.taskOpBegin _).trans (Machine.onlyCore.modCore _)).trans (Machine.onlyCore.modCtx _ _)

theorem execAccz_reachesCore (f : FieldsT) : reachesCore k (execAccz k f) :=
  reachesCore_runInstr fun _ _ => .checked (.enqueue _)

theorem execMma_reachesCore (f : FieldsT) : reachesCore k (execMma k f) :=
  reachesCore_runInstr fun _ _ => .checked (.enqueue _)

theorem execEpi_reachesCore (f : FieldsT) : reachesCore k (execEpi k f) := by
  refine reachesCore_runInstr fun c s => ?_
  dsimp only
  split
  · refine .after (t := if opbufIn _ 64 then s else modEpi s k _) ?_ (.iFault _)
    split
    · exact onlyCore.refl k s
    · exact onlyCore.modCore _
  · exact .iFault _
  · exact .enqueue _

theorem execTwait_reachesCore (f : FieldsT) : reachesCore k (execTwait k f) :=
  reachesCore_runInstr fun _ _ => .ite (.iFault _) (.ite (.iFault _) (.ite (.waitSame _) .doneSame))

theorem accImage_reachesCore (f : FieldsT) (kind : Nat → Nat → TKind) : reachesCore k (accImage k f kind) :=
  reachesCore_runInstr fun _ _ => .checked (.enqueue _)

theorem execAttn_reachesCore (f : FieldsT) : reachesCore k (execAttn k f) := by
  refine reachesCore_runInstr fun c s => .checked ?_
  split
  next t hr => exact .after (.of_readLocal hr) (.faultSame _ _ _)
  next t b hr =>
    refine .after (.of_readLocal hr) (.ite (.iFault _) ?_)
    split
    next u hs => exact .after (.of_readRanges hs) (.faultSame _ _ _)
    next u _ hs => exact .after (.of_readRanges hs) (.checked (.enqueue _))

/-! ### Streams (R128 to R149) -/

theorem execStrmSet_reachesCore (f : FieldsS) : reachesCore k (execStrmSet k f) := by
  refine reachesCore_runInstr fun c s => .checked ?_
  split
  next t bs hr => exact .after (.of_readLocal hr) (onlyCore.modCtx _ _)
  next t hr => exact .after (.of_readLocal hr) (.faultSame _ _ _)

theorem onlyCore.putXfer (x : Xfer) : onlyCore k s (putXfer s k x) := onlyCore.modCore _

theorem onlyCore.noteDone (task : Option Nat) (d : Desc) : onlyCore k s (noteDone s k task d) := by
  unfold Machine.noteDone
  repeat' split
  · exact onlyCore.refl k s
  · exact onlyCore.modTask _ _
  · exact onlyCore.refl k s

theorem onlyCore.dlTrigger (c : CtxId) (slot : Nat) : onlyCore k s (dlTrigger s k c slot).1 := by
  unfold Machine.dlTrigger
  split
  · exact onlyCore.refl k s
  · dsimp only
    exact onlyCore.modCore _

theorem onlyCore.startXfer (c : CtxId) (slot : Nat) (d : Desc) (fill : Option W64) (task : Option Nat) :
    onlyCore k s (startXfer s k c slot d fill task) := by
  have hdue : ∀ u, onlyCore k u (if d.buffered && d.out then (u, none) else Machine.dlTrigger u k c slot).1 := by
    intro u
    split
    · exact onlyCore.refl k u
    · exact onlyCore.dlTrigger c slot
  have hput : ∀ (u : State) (x : Xfer), onlyCore k u (Machine.putXfer (Machine.taskOpBegin u k task) k x) := fun u x =>
    (onlyCore.taskOpBegin task).trans (onlyCore.putXfer x)
  exact .ite
    ((((((onlyCore.modCore _).trans (.noteDone _ _)).trans (hdue _)).trans (hput _ _)).trans (.dlTrigger _ _)).trans (hput _ _))
    ((((onlyCore.modCore _).trans (.noteDone _ _)).trans (hdue _)).trans (hput _ _))

theorem IRes.onlyCore.strmGo (slot : Nat) (fill : Option W64) : (Machine.strmGo s k c slot fill).onlyCore k s := by
  refine .checked (.ite (.waitSame _) ?_)
  split
  · exact ((Machine.onlyCore.modCore _).trans (.putXfer _)).trans (.modStrm _)
  · split
    · exact (((Machine.onlyCore.modCore _).trans (.noteDone _ _)).trans (.putXfer _)).trans (.modStrm _)
    · exact .ite (.waitSame _) (Machine.onlyCore.startXfer _ _ _ _ _)

theorem execStrmGo_reachesCore (f : FieldsS) : reachesCore k (execStrmGo k f) :=
  reachesCore_runInstr fun _ _ => .ite (.iFault _) (.strmGo _ _)

theorem execStrmFill_reachesCore (f : FieldsS) : reachesCore k (execStrmFill k f) :=
  reachesCore_runInstr fun _ _ => .ite (.iFault _) (.strmGo _ _)

theorem execStrmWait_reachesCore (f : FieldsS) : reachesCore k (execStrmWait k f) := by
  refine reachesCore_runInstr fun c s => .ite (.iFault _) ?_
  split
  · exact onlyCore.setG _ _ _
  · exact .ite (.waitSame _) ((onlyCore.modCore _).trans (onlyCore.setG _ _ _))

/-- DONE_SYNC is told only where the descriptor names an object. -/
theorem onlyCore.tellSync (c : CtxId) (h : W32) (f : Nat → FBody) :
    onlyCore k s (if h = 0xFFFFFFFF then s else Machine.sendSyncTo s k c h f) :=
  .ite (onlyCore.refl k s) (.sendSyncTo c h f)

theorem onlyCore.xferDone (x : Xfer) : onlyCore k s (xferDone s k x) :=
  ((onlyCore.modXfer _ _).trans (onlyCore.tellSync _ _ _)).trans (onlyCore.taskOpEnd _)

theorem onlyCore.swapXfer (x : Xfer) : onlyCore k s (swapXfer s k x) := by
  unfold Machine.swapXfer
  dsimp only
  split
  · exact (onlyCore.dlTrigger _ _).trans (onlyCore.modXfer _ _)
  · exact (onlyCore.modXfer _ _).trans (onlyCore.xferDone _)

theorem execStrmSwap_reachesCore (f : FieldsS) : reachesCore k (execStrmSwap k f) := by
  refine reachesCore_runInstr fun c s => .ite (.iFault _) (.ite (.waitSame _) ?_)
  split
  · exact .doneSame
  · exact .ite (onlyCore.swapXfer _) .doneSame

theorem onlyCore.cancelXfer (x : Xfer) : onlyCore k s (cancelXfer s k x) := by
  have htask : ∀ u, onlyCore k u
      (match x.taskObj with | some (r, o) => Machine.sendSync u k x.ctx r (.syncCancel o) | none => u) := by
    intro u
    split
    · exact onlyCore.sendSync _ _ _
    · exact onlyCore.refl k u
  have hsync := (onlyCore.tellSync (k := k) (s := s) x.ctx x.desc.doneSync (fun o => .syncCancel o)).trans (htask _)
  exact .ite (.refl k s) (.ite (.refl k s) (.ite
    (.ite (hsync.trans (.modXfer _ _)) (((hsync.trans (.modXfer _ _)).trans (.modXfer _ _)).trans (.modStrm _)))
    (hsync.trans (.stopXfer _ _ _ _))))

theorem execStrmCancel_reachesCore (f : FieldsS) : reachesCore k (execStrmCancel k f) := by
  refine reachesCore_runInstr fun c s => .ite (.iFault _) ?_
  split
  · exact .doneSame
  · dsimp only
    split
    · exact (onlyCore.cancelXfer _).trans (onlyCore.cancelXfer _)
    · exact onlyCore.cancelXfer _

/-! ### Sprout commands (R190, R204) -/

theorem IRes.onlyCore.sprSend (b : List Byte) : (Machine.sprSend s k c b).onlyCore k s := by
  unfold Machine.sprSend
  split
  · dsimp only
    split
    · exact ⟨Machine.onlyCore.taskOpBegin _, fun _ => (Machine.onlyCore.opTaskFault _ _ _ _ _).trans (Machine.onlyCore.taskOpEnd _)⟩
    · exact (((Machine.onlyCore.taskOpBegin _).trans (.modCore _)).trans (.modCtx _ _)).trans (.meshSend _ _ _ _)
  · exact .doneSame

theorem execSprIssue_reachesCore (f : FieldsS) : reachesCore k (execSprIssue k f) := by
  refine reachesCore_runInstr fun c s => .checked ?_
  split
  next t hr => exact .after (.of_readLocal hr) (.faultSame _ _ _)
  next t b hr => exact .after (.of_readLocal hr) (.checked (.ite (.waitSame _) (.sprSend _)))

/-- A fence drops segments of the stacks' read buffers and nothing else of the stacks (R204). -/
theorem onlyCore.bufDropPart (p : PartId) : onlyCore k s (bufDropPart s p) :=
  ⟨fun _ _ => rfl, fun _ _ => rfl, fun _ _ => rfl, rfl, fun _ _ => rfl, fun _ _ => rfl,
   fun n => by simp [Machine.bufDropPart, vget],
   ⟨[], by simp [Machine.bufDropPart], by simp⟩, ⟨[], by simp [Machine.bufDropPart]⟩, rfl⟩

theorem execSprFence_reachesCore (f : FieldsS) : reachesCore k (execSprFence k f) := by
  refine reachesCore_runInstr fun c s => .ite (.iFault _) (.ite (.waitSame _) ?_)
  split
  · exact onlyCore.bufDropPart _
  · exact .doneSame

/-! ### Collectives (R281, R283) -/

theorem onlyCore.colEnd (m : ColCmd) (failed : Bool) : onlyCore k s (colEnd s k m failed) :=
  .ite (((onlyCore.modCore _).trans (.opTaskFault _ _ _ _ _)).trans (.taskOpEnd _))
    (((onlyCore.modCore _).trans (.tellSync _ _ _)).trans (.taskOpEnd _))

theorem onlyCore.coreResult (x : RedChunk) : onlyCore k s (coreResult s k x) := by
  unfold Machine.coreResult
  split
  · exact .ite (.colEnd _ _) (.ite ((onlyCore.writeLocal _ _ _).trans (.colEnd _ _)) ((onlyCore.writeLocal _ _ _).trans (.modCore _)))
  · exact .refl k s

theorem onlyCore.takeEarly (tree op : Nat) : onlyCore k s (takeEarly s k tree op) :=
  (onlyCore.modCore _).trans (onlyCore.foldl _ _ fun _ x => onlyCore.coreResult x)

/-- A context's frame enters the mesh and is metered for the partition of its core (R259). -/
theorem onlyCore.meterSend {p : PartId} (h : onlyCore k s t) (hp : partOfCore s k = some p) (c : CtxId) (d : End) (cls : Nat) (b : FBody)
    (m : Fin 12) (n : Nat) : onlyCore k s (Machine.addMeter (Machine.meshSend t ⟨.ctx k c, d, cls, b⟩) p m n) :=
  have hsend := h.trans (.meshSend c d cls b)
  hsend.trans (.addMeter (hsend.owner.trans hp) m n)

theorem onlyCore.sendChunks {p : PartId} (h : onlyCore k s t) (hp : partOfCore s k = some p) (c : CtxId) (cs : List RedChunk) :
    onlyCore k s (cs.foldl (fun a x =>
      Machine.addMeter (Machine.meshSend a ⟨.ctx k c, .red (regionOf k), 2, .red x⟩) p 9 x.data.length) t) := by
  induction cs generalizing t with
  | nil => exact h
  | cons x xs ih => exact ih (h.meterSend hp c _ _ _ _ _)

theorem IRes.onlyCore.colSend {p : PartId} (hp : partOfCore s k = some p) (b : List Byte) (r : TreeRec) (task : Option Nat) :
    (Machine.colSend s k c b p r task).onlyCore k s := by
  have hread : ∀ (u : State) (sp : Space) (a n : Nat),
      Machine.onlyCore k u (if n = 0 then (u, some []) else readLocal u k sp a n).1 := by
    intro u sp a n
    split
    · exact .refl k u
    · exact .readLocal sp a n
  exact ⟨.sendChunks (((Machine.onlyCore.taskOpBegin _).trans (hread _ _ _ _)).trans (.modCore _)) hp _ _,
    fun _ => .takeEarly _ _⟩

theorem execColIssue_reachesCore (f : FieldsS) : reachesCore k (execColIssue k f) := by
  refine reachesCore_runInstr fun c s => .checked ?_
  split
  next t hr => exact .after (.of_readLocal hr) (.faultSame _ _ _)
  next t b p hr hp =>
    have hread := onlyCore.of_readLocal hr
    refine .after hread (.checked (.ite (.waitSame _) ?_))
    split
    · exact .colSend (hread.owner.trans hp) _ _ _
    · exact .doneSame
  next t b hr _ => exact .after (.of_readLocal hr) .doneSame

/-! ### Sync and message instructions (Table 3.13, R72 to R75) -/

theorem onObject_reachesCore (f : FieldsS) (legal : Bool) (pre : CtxId → State → Bool) {run : CtxId → RegionId → Nat → State → IRes}
    (h : ∀ c r o s, (run c r o s).onlyCore k s) : reachesCore k (onObject k f legal pre run) := by
  refine reachesCore_runInstr fun c s => .checked ?_
  split
  · exact .iFault _
  · exact h c _ _ s

theorem execSyncAdd_reachesCore (f : FieldsS) : reachesCore k (execSyncAdd k f) :=
  onObject_reachesCore f _ _ fun _ _ _ _ => onlyCore.sendSync _ _ _

theorem execSyncArm_reachesCore (f : FieldsS) : reachesCore k (execSyncArm k f) :=
  onObject_reachesCore f _ _ fun _ _ _ _ => onlyCore.sendSync _ _ _

theorem execSyncAbort_reachesCore (f : FieldsS) : reachesCore k (execSyncAbort k f) :=
  onObject_reachesCore f _ _ fun _ _ _ _ => onlyCore.sendSync _ _ _

theorem execSyncCancel_reachesCore (f : FieldsS) : reachesCore k (execSyncCancel k f) :=
  onObject_reachesCore f _ _ fun _ _ _ _ => onlyCore.sendSync _ _ _

theorem execSyncWait_reachesCore (f : FieldsS) : reachesCore k (execSyncWait k f) := by
  refine onObject_reachesCore f _ _ fun c r o s => ?_
  split
  · exact (onlyCore.modCtx _ _).trans (onlyCore.setG _ _ _)
  · dsimp only
    split
    · exact onlyCore.setG _ _ _
    · exact (onlyCore.modCtx _ _).trans (onlyCore.sendSync _ _ _)

theorem onlyCore.reqEntered (req : Option Nat) : onlyCore k s (reqEntered s k req) := by
  unfold Machine.reqEntered
  split
  · exact .refl k s
  · exact .modCore _

theorem onlyCore.injectMsg (m : OutMsg) : onlyCore k s (injectMsg s k m) := by
  refine .ite (.refl k s) ?_
  split
  · exact .refl k s
  next p hp =>
    split
    · exact .refl k s
    · exact (onlyCore.reqEntered m.req).meterSend hp _ _ _ _ _ _

theorem onlyCore.sendMsg (c : CtxId) (dst tag : BitVec 16) (cls : Nat) (payload : List Byte) :
    onlyCore k s (sendMsg s k c dst tag cls payload) :=
  (onlyCore.modCore _).trans (onlyCore.injectMsg _)

theorem execSend_reachesCore (f : FieldsS) : reachesCore k (execSend k f) := by
  refine reachesCore_runInstr fun c s => .checked (.ite (.waitSame _) ?_)
  split
  next t bs hr => exact .after (.of_readLocal hr) (onlyCore.sendMsg _ _ _ _ _)
  next t hr => exact .after (.of_readLocal hr) (.faultSame _ _ _)

theorem execRecv_reachesCore (f : FieldsS) : reachesCore k (execRecv k f) := by
  refine reachesCore_runInstr fun c s => .checked ?_
  split
  · exact .waitSame _
  · refine .checked ?_
    split
    next t hr => exact .after (.of_touchSofts hr) (.faultSame _ _ _)
    next t hr =>
      exact .after (.of_touchSofts hr) (((onlyCore.writeLocal _ _ _).trans (onlyCore.modCore _)).trans (onlyCore.setG _ _ _))

theorem onlyCore.holdEntry {p : PartId} (hp : partOfCore s k = some p) (ch : Nat) (e : HeldEntry) : onlyCore k s (holdEntry s p ch e) :=
  onlyCore.modPst hp _

theorem execHpost_reachesCore (f : FieldsS) : reachesCore k (execHpost k f) := by
  refine reachesCore_runInstr fun c s => .checked (.ite (.waitSame _) ?_)
  split
  next t bs p hr hp =>
    have hread := onlyCore.of_readLocal hr
    exact .after hread ((onlyCore.holdEntry (hread.owner.trans hp) _ _).trans (onlyCore.modCtx _ _))
  next t _ hr _ => exact .after (.of_readLocal hr) (.faultSame _ _ _)

/-! ### System instructions (Table 3.13, R64, R78, R80) -/

theorem onlyCore.leaveSlot (c : CtxId) (st : CtxState) (w : Wait) : onlyCore k s (leaveSlot s k c st w) :=
  (onlyCore.modCtx _ _).trans (onlyCore.modCore _)

theorem execHalt_reachesCore (f : FieldsS) : reachesCore k (execHalt k f) :=
  reachesCore_runInstr fun _ _ => .checked (onlyCore.leaveSlot _ _ _)

theorem execCtxStart_reachesCore (f : FieldsS) : reachesCore k (execCtxStart k f) :=
  reachesCore_runInstr fun _ _ => .checked (onlyCore.modCtx _ _)

theorem execTaskBegin_reachesCore (f : FieldsS) : reachesCore k (execTaskBegin k f) := by
  refine reachesCore_runInstr fun c s => .checked (.ite (.waitSame _) ?_)
  split
  · exact .iFault _
  · exact (onlyCore.modCore _).trans (onlyCore.modCtx _ _)

theorem execTaskEnd_reachesCore (f : FieldsS) : reachesCore k (execTaskEnd k f) := by
  refine reachesCore_runInstr fun c s => .ite (.iFault _) ?_
  split
  · exact .iFault _
  · exact ((onlyCore.modCtx _ _).trans (onlyCore.modTask _ _)).trans (onlyCore.taskCheck _)

theorem execFence_reachesCore (f : FieldsS) : reachesCore k (execFence k f) :=
  reachesCore_runInstr fun _ _ => .ite (.iFault _) (.ite (.waitSame _) .doneSame)

theorem execFexit_reachesCore (f : FieldsS) : reachesCore k (execFexit k f) :=
  reachesCore_runInstr fun _ _ => .ite (.iFault _) (.checked (onlyCore.modCtx _ _))

theorem execYield_reachesCore (f : FieldsS) : reachesCore k (execYield k f) :=
  reachesCore_runInstr fun _ _ => .ite (.iFault _) (onlyCore.leaveSlot _ _ _)

theorem execBrk_reachesCore (f : FieldsS) : reachesCore k (execBrk k f) :=
  reachesCore_runInstr fun _ _ => .checked (onlyCore.leaveSlot _ _ _)

/-! ### Every instruction of a program (R22, R34) -/

theorem exec_reachesCore {i : Instr} (h : programCore i = some k) : reachesCore k (exec i) := by
  cases i with
  | nop j w => cases h; exact execNop_reachesCore w
  | add j f | sub j f | mul j f | mulhu j f | andR j f | orR j f | xor j f | shl j f | shr j f | sra j f
  | slt j f | sltu j f | minR j f | maxR j f => cases h; exact aluR_reachesCore f _
  | addi j f | andi j f | ori j f | xori j f | shli j f | shri j f | srai j f | slti j f | sltui j f =>
    cases h; exact aluI_reachesCore f _
  | tset j f => cases h; exact execTset_reachesCore f
  | tget j f => cases h; exact execTget_reachesCore f
  | rdid j f => cases h; exact execRdid_reachesCore f
  | li j f => cases h; exact execLi_reachesCore f
  | lih j f => cases h; exact execLih_reachesCore f
  | ld j f => cases h; exact execLd_reachesCore f
  | ldw j f => cases h; exact execLdw_reachesCore f
  | vld j f => cases h; exact execVld_reachesCore f
  | st j f => cases h; exact execSt_reachesCore f
  | stw j f => cases h; exact execStw_reachesCore f
  | vst j f => cases h; exact execVst_reachesCore f
  | beq j f | bne j f | blt j f | bltu j f => cases h; exact branchIf_reachesCore f _
  | bge j f => cases h; exact branchIf_reachesCore f (fun a b => !a.slt b)
  | bgeu j f => cases h; exact branchIf_reachesCore f (fun a b => !a.ult b)
  | jal j f => cases h; exact execJal_reachesCore f
  | jr j f => cases h; exact execJr_reachesCore f
  | vadd j f | vsub j f | vmul j f | vmax j f | vmin j f | vshl j f | vsra j f => cases h; exact vecR_reachesCore f _ _
  | vand j f | vor j f | vxor j f => cases h; exact vecBits_reachesCore f _
  | vrsum j f | vrmax j f => cases h; exact vecTree_reachesCore f _
  | vfma j f => cases h; exact execVfma_reachesCore f
  | vcvt j f => cases h; exact execVcvt_reachesCore f
  | vbcast j f => cases h; exact execVbcast_reachesCore f
  | vext j f => cases h; exact execVext_reachesCore f
  | accz j f => cases h; exact execAccz_reachesCore f
  | mma j f => cases h; exact execMma_reachesCore f
  | epi j f => cases h; exact execEpi_reachesCore f
  | attn j f => cases h; exact execAttn_reachesCore f
  | twait j f => cases h; exact execTwait_reachesCore f
  | accrd j f | accwr j f => cases h; exact accImage_reachesCore f _
  | strmSet j f => cases h; exact execStrmSet_reachesCore f
  | strmGo j f => cases h; exact execStrmGo_reachesCore f
  | strmWait j f => cases h; exact execStrmWait_reachesCore f
  | strmSwap j f => cases h; exact execStrmSwap_reachesCore f
  | strmCancel j f => cases h; exact execStrmCancel_reachesCore f
  | strmFill j f => cases h; exact execStrmFill_reachesCore f
  | sprIssue j f => cases h; exact execSprIssue_reachesCore f
  | sprFence j f => cases h; exact execSprFence_reachesCore f
  | colIssue j f => cases h; exact execColIssue_reachesCore f
  | syncAdd j f => cases h; exact execSyncAdd_reachesCore f
  | syncWait j f => cases h; exact execSyncWait_reachesCore f
  | syncArm j f => cases h; exact execSyncArm_reachesCore f
  | syncAbort j f => cases h; exact execSyncAbort_reachesCore f
  | syncCancel j f => cases h; exact execSyncCancel_reachesCore f
  | send j f => cases h; exact execSend_reachesCore f
  | recv j f => cases h; exact execRecv_reachesCore f
  | hpost j f => cases h; exact execHpost_reachesCore f
  | halt j f => cases h; exact execHalt_reachesCore f
  | ctxStart j f => cases h; exact execCtxStart_reachesCore f
  | taskBegin j f => cases h; exact execTaskBegin_reachesCore f
  | taskEnd j f => cases h; exact execTaskEnd_reachesCore f
  | fence j f => cases h; exact execFence_reachesCore f
  | fexit j f => cases h; exact execFexit_reachesCore f
  | yield j f => cases h; exact execYield_reachesCore f
  | brk j f => cases h; exact execBrk_reachesCore f
  | _ => cases h

end

/-- Settles O20: the body of every instruction reaches only its core, and so does how the instruction ends. -/
theorem instructionsStayLocal : Obligations.InstructionsStayLocal :=
  fun _ _ s t hi h => exec_reachesCore hi s t h

/-! ### A queue of program instructions (R22, R25) -/

section
variable {k : CoreId} {s t : State}

theorem onlyCore.deviceView_eq (h : onlyCore k s t) : deviceView t = deviceView s := by
  have hview := congrArg deviceView h.rest
  exact hview

theorem onlyCore.pending_eq (h : onlyCore k s t) : t.pending = s.pending := by
  have hpending := congrArg State.pending h.rest
  exact hpending

theorem onlyCore.owner_eq (h : onlyCore k s t) (r : RegionId) : (getRegion t r).owner = (getRegion s r).owner := by
  by_cases hr : r = regionOf k
  · subst hr
    have howner := congrArg Region.owner h.own
    exact howner
  · rw [h.region r hr]

/-- What reaches only one core keeps the invariant, whatever it says of the device and of the owners. -/
theorem onlyCore.programInv {v : State → Prop} {w : RegionId → Option PartId} (h : onlyCore k s t) (hv : v s → v t)
    (hs : programInv v w s) : programInv v w t := by
  obtain ⟨hdev, howner, hprog⟩ := hs
  exact ⟨hv hdev, fun r => (h.owner_eq r).trans (howner r), h.pending_eq ▸ hprog⟩

theorem programInv_tail {v : State → Prop} {w : RegionId → Option PartId} {i : Instr} {is : List Instr}
    (hq : s.pending = i :: is) (hv : v s → v { s with pending := is }) (hs : programInv v w s) :
    programInv v w { s with pending := is } := by
  obtain ⟨hdev, howner, hprog⟩ := hs
  exact ⟨hv hdev, howner, fun x hx => hprog x (hq ▸ List.mem_cons_of_mem i hx)⟩
end

/-- Settles O21: an empty queue idles, and the instruction at the front reaches only its core (`exec_reachesCore`), to which nothing of
the device's view belongs. -/
theorem programsLeaveDevice : Obligations.ProgramsLeaveDevice := by
  unfold Obligations.ProgramsLeaveDevice
  intro s0 s t w hs hstep
  unfold step at hstep
  split at hstep
  case h_1 => cases hstep; exact hs
  case h_2 i is hq =>
    have ⟨_, _, hprog⟩ := hs
    obtain ⟨k, hk⟩ := Option.isSome_iff_exists.1 (hprog i (hq ▸ List.mem_cons_self))
    have hcore : onlyCore k { s with pending := is } t := exec_reachesCore hk _ t hstep
    exact hcore.programInv hcore.deviceView_eq.trans (programInv_tail hq id hs)

end Sys2Proof.Machine

namespace Sys2Proof.Machine

/-! ### What the loss of a die leaves alone (R389)

The end of a die reaches cores, stacks, trees, the mesh and the fault log, and leaves the clocks, the configuration stream and the set of
SEVERED dies as they are: that it severs no second die is what the failure of a clock turns on (R344). -/

/-- The clocks, the configuration stream and the SEVERED dies are as they were. -/
structure sameDies (s t : State) : Prop where
  clk : t.clk = s.clk
  cfg : t.cfg = s.cfg
  severed : t.flt.severed = s.flt.severed

section
variable {s t u : State}

theorem sameDies.refl (s : State) : sameDies s s := ⟨rfl, rfl, rfl⟩

theorem sameDies.trans (h : sameDies s t) (g : sameDies t u) : sameDies s u :=
  ⟨g.clk.trans h.clk, g.cfg.trans h.cfg, g.severed.trans h.severed⟩

theorem sameDies.ite {p : Prop} {_ : Decidable p} (ht : sameDies s t) (hu : sameDies s u) : sameDies s (if p then t else u) := by
  split
  · exact ht
  · exact hu

theorem sameDies.foldl {α : Type} {f : State → α → State} (h : sameDies s t) (hf : ∀ a x, sameDies a (f a x)) (l : List α) :
    sameDies s (l.foldl f t) := by
  induction l generalizing t with
  | nil => exact h
  | cons x xs ih => exact ih (h.trans (hf t x))

/-- What belongs to a core is none of the three. -/
theorem sameDies.ofCore {k : CoreId} (h : sameDies s t) (g : onlyCore k t u) : sameDies s u := by
  obtain ⟨new, hflt⟩ := g.flt
  have hclk := congrArg State.clk g.rest
  have hcfg := congrArg State.cfg g.rest
  have hsev := congrArg Flt.severed hflt
  exact h.trans ⟨hclk, hcfg, hsev⟩

/-! ### Updates of other fields -/

theorem sameDies.modCore (h : sameDies s t) (k : CoreId) (f : Core → Core) : sameDies s (modCore t k f) := h.trans ⟨rfl, rfl, rfl⟩
theorem sameDies.modHst (h : sameDies s t) (f : Hst → Hst) : sameDies s (modHst t f) := h.trans ⟨rfl, rfl, rfl⟩
theorem sameDies.modGuest (h : sameDies s t) (g : Nat) (f : Guest → Guest) : sameDies s (modGuest t g f) := h.trans ⟨rfl, rfl, rfl⟩
theorem sameDies.modStack (h : sameDies s t) (n : Nat) (f : Stack → Stack) : sameDies s (modStack t n f) := h.trans ⟨rfl, rfl, rfl⟩
theorem sameDies.modPort (h : sameDies s t) (q : Nat) (f : LinkPort → LinkPort) : sameDies s (modPort t q f) := h.trans ⟨rfl, rfl, rfl⟩
theorem sameDies.modLink (h : sameDies s t) (d : Nat) (f : LinkDie → LinkDie) : sameDies s (modLink t d f) := h.trans ⟨rfl, rfl, rfl⟩
theorem sameDies.modRed (h : sameDies s t) (r : RegionId) (f : RedNode → RedNode) : sameDies s (modRed t r f) := h.trans ⟨rfl, rfl, rfl⟩
theorem sameDies.modTree (h : sameDies s t) (p : PartId) (n : Nat) (f : Tree → Tree) : sameDies s (modTree t p n f) :=
  h.trans ⟨rfl, rfl, rfl⟩
theorem sameDies.modFront (h : sameDies s t) (p : PartId) (f : KvReq → KvReq) : sameDies s (modFront t p f) := h.trans ⟨rfl, rfl, rfl⟩
theorem sameDies.meshSend (h : sameDies s t) (f : Frame) : sameDies s (meshSend t f) := h.trans ⟨rfl, rfl, rfl⟩
theorem sameDies.setMesh (h : sameDies s t) (m : List Frame) : sameDies s { t with mesh := m } := h.trans ⟨rfl, rfl, rfl⟩
theorem sameDies.respond (h : sameDies s t) (r : Resp) : sameDies s (respond t r) := h.trans ⟨rfl, rfl, rfl⟩
theorem sameDies.addMeter (h : sameDies s t) (p : PartId) (m : Fin 12) (n : Nat) : sameDies s (addMeter t p m n) := h.trans ⟨rfl, rfl, rfl⟩
theorem sameDies.raiseRec (h : sameDies s t) (r : FaultRec) : sameDies s (raiseRec t r) := h.trans ⟨rfl, rfl, rfl⟩

theorem sameDies.modFlt (h : sameDies s t) {f : Flt → Flt} (hf : (f t.flt).severed = t.flt.severed) : sameDies s (modFlt t f) :=
  h.trans ⟨rfl, rfl, hf⟩

/-! ### Events and answers (R304, R389) -/

theorem sameDies.irq (h : sameDies s t) (f : Fn) (v : Nat) : sameDies s (irq t f v) :=
  .ite (h.modHst _) (h.trans ⟨rfl, rfl, rfl⟩)

theorem sameDies.hstEvent (h : sameDies s t) (e : HstEv) : sameDies s (hstEvent t e) :=
  .ite h (.irq (h.modHst _) _ _)

theorem sameDies.fltEvent (h : sameDies s t) (e : FltEv) : sameDies s (fltEvent t e) :=
  .ite h (.irq (h.modFlt (by cases e <;> rfl)) _ _)

theorem sameDies.faultPart (h : sameDies s t) (p : PartId) (r : FaultRec) : sameDies s (faultPart t p r) :=
  .fltEvent (.raiseRec (h.modFlt rfl) _) _

theorem sameDies.answerUnit (h : sameDies s t) (x : StackUnit) (d : Option (List Byte)) (refused : Bool) :
    sameDies s (answerUnit t x d refused) := by
  unfold Machine.answerUnit
  split
  · exact h.modCore _ _
  · exact h.modCore _ _
  · split
    · refine .ite (.modHst ?_ _) ?_ <;> exact .ite (.raiseRec (.hstEvent (h.modHst _) _) _) h
    · dsimp only
      split
      · exact .respond (.modHst (.ite (h.modHst _) (.raiseRec (.hstEvent (h.modHst _) _) _)) _) _
      · exact .ite (h.modHst _) (.raiseRec (.hstEvent (h.modHst _) _) _)
  · dsimp only
    split
    · exact h.modGuest _ _
    · exact .modGuest (.modGuest (h.modGuest _ _) _ _) _ _
  · exact .modFront (h.modFront _ _) _ _
  · exact h

theorem sameDies.failUnit (h : sameDies s t) (x : StackUnit) : sameDies s (failUnit t x) := by
  unfold Machine.failUnit
  split
  · exact h.modCore _ _
  · exact h.modCore _ _
  · exact h.answerUnit _ _ _
  · exact h.answerUnit _ _ _

/-! ### Stacks, link dies and tiles (R389, Table 16.7) -/

theorem sameDies.severStack (h : sameDies s t) (n : Nat) : sameDies s (severStack t n) :=
  .foldl (.foldl (h.modStack _ _) (fun a x => (sameDies.refl a).failUnit x) _) (fun a _ => (sameDies.refl a).meshSend _) _

theorem sameDies.pump (h : sameDies s t) (q : Nat) : sameDies s (pump t q) := by
  refine .ite h ?_
  unfold meterFlits
  split
  · exact .addMeter (h.modPort _ _) _ _ _
  · exact h.modPort _ _

theorem sameDies.edgeTx (h : sameDies s t) (r : TreeRec) (x : Tree) (e : Nat) (f : LinkFrame) : sameDies s (edgeTx t r x e f) :=
  .pump (.modPort (.ite h (h.modLink _ _)) _ _) _

theorem sameDies.edgeFill (h : sameDies s t) (p : PartId) (n e fuel : Nat) : sameDies s (edgeFill t p n e fuel) := by
  induction fuel generalizing t with
  | zero => exact h
  | succ fuel ih =>
    unfold Machine.edgeFill
    split
    · dsimp only
      split
      · exact h
      · exact .ite (ih (.edgeTx (h.modTree _ _ _) _ _ _ _))
          (.ite h (ih (.edgeTx (.modPort (h.modTree _ _ _) _ _) _ _ _ _)))
    · exact h

theorem sameDies.edgeSend (h : sameDies s t) (p : PartId) (n e : Nat) (f : LinkFrame) : sameDies s (edgeSend t p n e f) := by
  unfold Machine.edgeSend
  split
  · exact .ite (.edgeFill (h.modTree _ _ _) _ _ _ _) (h.edgeTx _ _ _ _)
  · exact h

theorem sameDies.nodeDown (h : sameDies s t) (r : RegionId) (p : PartId) (c : RedChunk) : sameDies s (nodeDown t r p c) := by
  have hnode : ∀ (a : State) (x : Nat), sameDies a
      (match regionOfRank (maskOf t p) x with | some q => Machine.meshSend a ⟨.red r, .red q, 3, .red c⟩ | none => a) := by
    intro a x
    split
    · exact (sameDies.refl a).meshSend _
    · exact .refl a
  refine .ite (.ite (h.meshSend _) ?_) ?_
  · split
    · exact h.trans (hnode _ _)
    · exact h
  · exact .foldl (.foldl (.ite (h.modRed _ _) h) (fun a _ => (sameDies.refl a).meshSend _) _) hnode _

theorem sameDies.toRoot (h : sameDies s t) (p : PartId) (n : Nat) (c : RedChunk) : sameDies s (toRoot t p n c) := by
  unfold Machine.toRoot
  split
  · exact h.meshSend _
  · exact h.nodeDown _ _ _

theorem sameDies.opFailHere (h : sameDies s t) (p : PartId) (n op : Nat) : sameDies s (opFailHere t p n op) := by
  refine .toRoot (.raiseRec ?_ _) _ _ _
  split
  · exact .modLink (h.modTree _ _ _) _ _
  · exact h.modTree _ _ _

theorem sameDies.engFail (h : sameDies s t) (p : PartId) (n op : Nat) (source : Option Nat) : sameDies s (engFail t p n op source) := by
  unfold Machine.engFail
  split
  · exact h
  · exact .ite h (.foldl (h.opFailHere _ _ _) (fun a _ => .ite (.refl a) ((sameDies.refl a).edgeSend _ _ _ _)) _)

theorem sameDies.treeBreak (h : sameDies s t) (p : PartId) (n cause : Nat) : sameDies s (treeBreak t p n cause) := by
  unfold Machine.treeBreak
  split
  · refine .ite h (.foldl (.foldl ?_ (fun a _ => (sameDies.refl a).opFailHere _ _ _) _)
      (fun a _ => .ite (.edgeSend ((sameDies.refl a).edgeSend _ _ _ _) _ _ _ _) (.refl a)) _)
    split
    · exact .modLink (h.modTree _ _ _) _ _
    · exact h.modTree _ _ _
  · exact h

theorem sameDies.severLink (h : sameDies s t) (d : Nat) : sameDies s (severLink t d) :=
  .foldl (.foldl h (fun a _ => (sameDies.refl a).treeBreak _ _ _) _) (fun a _ => (sameDies.refl a).modPort _ _) _

theorem sameDies.colsSevered (h : sameDies s t) (ps : List PartId) : sameDies s (colsSevered t ps) :=
  have hcore : ∀ (k : CoreId) (a : State) (x : ColCmd), sameDies a (colEnd a k x true) := fun _ a _ =>
    (sameDies.refl a).ofCore (.colEnd _ _)
  .foldl (.foldl h (fun a _ => .foldl (.refl a) (fun b _ => (sameDies.refl b).engFail _ _ _ _) _) _)
    (fun a k => .foldl (.refl a) (fun b _ => .foldl (.refl b) (hcore k) _) _) _

theorem sameDies.waitFail (h : sameDies s t) (f : Frame) : sameDies s (waitFail t f) := by
  unfold Machine.waitFail
  split
  · exact h.meshSend _
  · exact h

theorem sameDies.noteTaskAdd (h : sameDies s t) (f : Frame) : sameDies s (noteTaskAdd t f) := by
  unfold Machine.noteTaskAdd
  split
  · exact h.modCore _ _
  · exact h

theorem sameDies.severTile (h : sameDies s t) (n : Nat) : sameDies s (severTile t n) := by
  refine .severStack (.severStack (.colsSevered (.foldl (.foldl (h.setMesh _) ?into _) ?out _) _) _) _
  case into =>
    intro a f
    split
    · exact (sameDies.refl a).meshSend _
    · exact .noteTaskAdd ((sameDies.refl a).waitFail f) f
  case out =>
    intro a f
    split
    · exact (sameDies.refl a).meshSend _
    · exact (sameDies.refl a).noteTaskAdd f

/-- The requests into a die end, and the partitions that depend on it are FAULTED. -/
theorem sameDies.dieEnds (h : sameDies s t) (d : Nat) (ps : List PartId) (r : PartId → FaultRec) :
    sameDies s (ps.foldl (fun a p => Machine.faultPart a p (r p))
      (if d < 4 then Machine.severTile t d else if d < 16 then Machine.severStack t (d - 8)
       else if d < 24 then Machine.severLink t (d - 16) else t)) :=
  .foldl (.ite (h.severTile _) (.ite (h.severStack _) (.ite (h.severLink _) h))) (fun a p => (sameDies.refl a).faultPart p _) _

/-- A die that is not SEVERED becomes so, and with no stream in progress that is all that changes of the clocks and the dies. -/
theorem severDie_sameDies {d : Nat} (hup : s.flt.severed.getLsbD d = false) (hrun : s.cfg.run = none) (cls detail org : Nat) :
    sameDies (Machine.modFlt s (fun f => { f with severed := setBit32 f.severed d true })) (severDie s d cls detail org) := by
  have hsever := (sameDies.refl (Machine.modFlt s (fun f => { f with severed := setBit32 f.severed d true }))).fltEvent .severed
  have hends := hsever.dieEnds d ((liveParts s).filter (fun p => dependsOn s p d)) (fun p => recDie org cls detail (some p))
  unfold severDie
  rw [if_neg (by simp [hup])]
  dsimp only
  split
  next r hr => cases hr.symm.trans ((congrArg Cfg.run hends.cfg).trans hrun)
  next => exact hends

end

/-! ### A window of a clock monitor (R343, R344) -/

theorem exec_clockMonitorWindow {s : State} (hrun : hubRuns s = true) (die : Nat) (x : MonClk × Nat) :
    exec (.clockMonitorWindow die [x]) s = .next (clkJudge s die x) := by
  have hexec : exec (.clockMonitorWindow die [x]) s = execClockMonitorWindow die [x] s := rfl
  simp [hexec, execClockMonitorWindow, hrun]

/-- The clocks whose windows are judged until their die goes to the backup oscillator. -/
theorem clkJudged_die (s : State) (die : Nat) {c : MonClk} (hc : ∀ r, c ≠ .aclk r) : clkJudged s die c = !s.clk.backup.getLsbD die := by
  cases c with
  | aclk r => exact absurd rfl (hc r)
  | _ => rfl

theorem clkOff_of_countGood {mhz n : Nat} (h : countGood mhz n) : clkOff mhz n = false := by
  obtain ⟨hlow, hhigh⟩ := h
  simp only [clkOff, Bool.or_eq_false_iff, decide_eq_false_iff_not]
  omega

/-- A window that is not judged, or whose count is good, only ends the row of bad windows. -/
theorem clkJudge_good {s : State} {die : Nat} {c : MonClk} {n : Nat} (hc : ∀ r, c ≠ .aclk r)
    (h : s.clk.backup.getLsbD die = true ∨ (0 < n ∧ countGood (clkMhz s c) n)) :
    clkJudge s die (c, n) = modClk s (fun x => { x with bad := x.bad.filter (· != (die, c)) }) := by
  unfold clkJudge
  rcases h with hback | ⟨hpos, hgood⟩
  · simp only [clkJudged_die s die hc, hback]
    cases c with
    | aclk r => exact absurd rfl (hc r)
    | _ => rfl
  · cases hback : s.clk.backup.getLsbD die
    · simp [clkJudged_die s die hc, hback, clkOff_of_countGood hgood, Nat.pos_iff_ne_zero.1 hpos]
    · simp only [clkJudged_die s die hc, hback]
      cases c with
      | aclk r => exact absurd rfl (hc r)
      | _ => rfl

/-- A judged window that counts nothing fails its clock, with the memory of bad windows brought up to date. -/
theorem clkJudge_zero {s : State} {die : Nat} {c : MonClk} (h : clkJudged s die c = true) :
    ∃ bad, clkJudge s die (c, 0) = clkFail (modClk s (fun x => { x with bad := bad })) die c :=
  ⟨(if clkOff (clkMhz s c) 0 then [(die, c)] else []) ++ s.clk.bad.filter (· != (die, c)), by
    unfold clkJudge
    simp only [h, Bool.not_true, Bool.false_eq_true, if_false, decide_true, Bool.true_or, if_true]
    rfl⟩

/-! ### Each clock that fails (R344, R345) -/

theorem regionOf_coreOf : ∀ r : RegionId, regionOf (coreOf r.val 0) = r := by decide

/-- An Awake region whose level did not change has its ACLK judged. -/
theorem clkJudged_aclk {s : State} {r : RegionId} (die : Nat) (hclk : coreClocked s (coreOf r.val 0) = true)
    (hmoved : (getRegion s r).moved = false) : clkJudged s die (.aclk r) = true := by
  simp only [coreClocked, regionOf_coreOf, Bool.and_eq_true, Bool.not_eq_true'] at hclk
  obtain ⟨⟨⟨⟨hpower, -⟩, hback⟩, -⟩, -⟩ := hclk
  simp [clkJudged, hpower, hback, hmoved]

theorem coreClocked_onBackup {s : State} {r : RegionId} (h : (getRegion s r).onBackup = true) : coreClocked s (coreOf r.val 0) = false := by
  simp [coreClocked, regionOf_coreOf, h]

/-- The region of a failed ACLK goes to the backup oscillator. -/
theorem clkFail_aclk_region (s : State) (die : Nat) (r : RegionId) :
    getRegion (clkFail s die (.aclk r)) r = { getRegion s r with onBackup := true } :=
  modRegion_region s r (fun g => { g with onBackup := true })

/-- What CLK holds once a clock of a die has failed (R344). -/
def Clk.dieFailed (die code : Nat) (x : Clk) : Clk :=
  { x with evDie := true, failDie := die, failRegion := 0, failClock := code, failIsRegion := false,
           backup := setBit32 x.backup die true, nmis := x.nmis + 1 }

theorem clkFail_die {s : State} {die : Nat} {c : MonClk} (hc : c = .fclk ∨ c = .mclk ∨ (∃ l, c = .lane l) ∨ c = .dieLink)
    (hd : die ≠ dieHub) :
    clkFail s die c = severDie (raiseRec (modClk s (Clk.dieFailed die (clkCode c))) (recDie die 0x34 (clkCode c) none)) die 0x34
      (clkCode c) := by
  rcases hc with rfl | rfl | ⟨l, rfl⟩ | rfl <;> exact if_neg hd

theorem getLsbD_setBit32 {d : Nat} (hd : d < 32) (m : BitVec 32) : (setBit32 m d true).getLsbD d = true := by
  simp only [setBit32, if_true, bit32, BitVec.getLsbD_or, BitVec.getLsbD_ofNat, Nat.testBit_two_pow_self, hd, decide_true, Bool.and_self,
    Bool.or_true]

theorem hubRuns_iff {s : State} : hubRuns s = true ↔
    s.hub.powered = true ∧ s.hub.phase ≠ .noVaux ∧ s.hub.phase ≠ .noVin ∧ s.hub.phase ≠ .perst ∧ s.hub.phase ≠ .sysref := by
  unfold hubRuns
  cases s.hub.phase <;> simp

/-- A chip reset of a device that runs happens, and notes its cause (R386). -/
theorem chipReset_of_hubRuns {s : State} (hrun : hubRuns s = true) {cause : Nat} (hcause : cause ≠ 9) :
    ∃ f, chipReset s cause = modFlt (chipKept s (if cause = 5 then .sysref else .start)) f ∧ ∀ x, (f x).chipCause = cause := by
  obtain ⟨hpowered, hvaux, hvin, hperst, hsysref⟩ := hubRuns_iff.1 hrun
  unfold chipReset
  dsimp only
  split
  next h => exact absurd h hvaux
  next h => exact absurd h hvin
  next h => exact absurd h hperst
  next =>
    rw [if_neg (by simp [hpowered])]
    have hphase : (if cause = 9 then Phase.perst else if cause = 5 || s.hub.phase == .sysref then .sysref else .start)
        = (if cause = 5 then .sysref else .start) := by simp [hcause, hsysref]
    rw [hphase]
    refine ⟨_, rfl, fun x => ?_⟩
    split <;> rfl

/-! ### The Tuber trim (R346) -/

theorem trimStep_lt {code : Nat} (h : code < 1024) (n : Nat) : trimStep code n < 1024 := by
  unfold trimStep
  dsimp only
  split <;> split <;> omega

theorem trimStep_near {code : Nat} (h : code < 1024) (n : Nat) : trimStep code n ≤ code + 1 ∧ code ≤ trimStep code n + 1 := by
  unfold trimStep
  dsimp only
  split <;> split <;> omega

/-- How far a window's count lies from the expected one. -/
theorem trimOff_lt (n m : Nat) : m < (if n < 102400 then 102400 - n else n - 102400) ↔ n + m < 102400 ∨ 102400 + m < n := by
  split <;> omega

/-! ### The clauses of O49 -/

theorem clkFail_sysref {s : State} (hrun : hubRuns s = true) (die : Nat) :
    (clkFail s die .sysref).flt.chipCause = 5 ∧ (clkFail s die .sysref).hub.phase = .sysref ∧
      (clkFail s die .sysref).clk.evSysref = true ∧ (clkFail s die .sysref).clk.sysref = false := by
  obtain ⟨f, hreset, hcause⟩ := chipReset_of_hubRuns hrun (cause := 5) (by decide)
  simp only [clkFail, hreset]
  exact ⟨hcause _, rfl, rfl, rfl⟩

theorem clkFail_hclk {s : State} (hrun : hubRuns s = true) : (clkFail s dieHub .hclk).flt.chipCause = 6 := by
  obtain ⟨f, hreset, hcause⟩ := chipReset_of_hubRuns hrun (cause := 6) (by decide)
  simp only [clkFail, hreset, if_true]
  exact hcause _

/-- R344: the failure of a die's clock severs the die and is a non-maskable event of Taproot. -/
theorem clkFail_die_severs {s : State} {d : Nat} {c : MonClk} (hc : c = .fclk ∨ c = .mclk ∨ (∃ l, c = .lane l) ∨ c = .dieLink) (hd : d < 24)
    (hup : s.flt.severed.getLsbD d = false) (hrun : s.cfg.run = none) :
    (clkFail s d c).flt.severed.getLsbD d = true ∧ (clkFail s d c).clk.evDie = true ∧ (clkFail s d c).clk.failDie = d ∧
      (clkFail s d c).clk.backup.getLsbD d = true ∧ (clkFail s d c).clk.nmis = s.clk.nmis + 1 := by
  rw [clkFail_die hc (Nat.ne_of_lt hd)]
  obtain ⟨hclk, -, hsev⟩ := severDie_sameDies
    (s := raiseRec (modClk s (Clk.dieFailed d (clkCode c))) (recDie d 0x34 (clkCode c) none)) hup hrun 0x34 (clkCode c) d
  rw [hclk, hsev]
  exact ⟨getLsbD_setBit32 (by omega) _, rfl, rfl, getLsbD_setBit32 (by omega) _, rfl⟩

theorem clocks : Claims.Clocks := by
  intro s
  refine ⟨?good, ?aclk, ?sysref, ?hclk, ?die, ?rail, ?restored⟩
  case good =>
    intro die c n hrun hc h
    rw [exec_clockMonitorWindow hrun, clkJudge_good hc h]
    rfl
  case aclk =>
    intro die r hrun hclk hmoved
    obtain ⟨bad, hfail⟩ := clkJudge_zero (clkJudged_aclk die hclk hmoved)
    rw [exec_clockMonitorWindow hrun, hfail]
    have hback := congrArg Region.onBackup (clkFail_aclk_region (modClk s (fun x => { x with bad := bad })) die r)
    exact ⟨_, _, rfl, hback, coreClocked_onBackup hback, rfl, rfl, rfl, rfl, rfl, rfl⟩
  case sysref =>
    intro die hrun hback
    obtain ⟨bad, hfail⟩ := clkJudge_zero (s := s) (die := die) (c := .sysref) (by simp [clkJudged_die, hback])
    rw [exec_clockMonitorWindow hrun, hfail]
    exact ⟨_, rfl, clkFail_sysref (s := modClk s _) hrun die⟩
  case hclk =>
    intro hrun hback
    obtain ⟨bad, hfail⟩ := clkJudge_zero (s := s) (die := dieHub) (c := .hclk) (by simp [clkJudged_die, hback])
    rw [exec_clockMonitorWindow hrun, hfail]
    exact ⟨_, rfl, clkFail_hclk (s := modClk s _) hrun⟩
  case die =>
    intro d c hrun hd hc hback hup hcfg
    have haclk : ∀ r, c ≠ .aclk r := by rcases hc with rfl | rfl | ⟨l, rfl⟩ | rfl <;> simp
    obtain ⟨bad, hfail⟩ := clkJudge_zero (s := s) (die := d) (c := c) (by simp [clkJudged_die s d haclk, hback])
    rw [exec_clockMonitorWindow hrun, hfail]
    exact ⟨_, rfl, clkFail_die_severs hc hd hup hcfg⟩
  case rail =>
    intro r hrail
    have hexec : exec (.regionRailFault r) s = .next (raiseRec (modRegion s r (fun g => { g with railOk := false }))
        (recRegion s r 0x25 2 3)) := if_neg (by simp [hrail])
    exact ⟨_, _, hexec, modRegion_region s r _, rfl, rfl, rfl, rfl⟩
  case restored =>
    intro hphase
    exact if_pos hphase

theorem tuberTrim : Claims.TuberTrim := by
  intro s n
  refine ⟨fun hoff => if_pos (by simp [hoff]), fun hon hwins hcode => ⟨_, if_neg (by simp [hon]), rfl, ?_⟩⟩
  obtain ⟨hup, hdown⟩ := trimStep_near hcode n
  have hlt := trimStep_lt hcode n
  simp only [modClk_clk, trimOff_lt, ← Nat.not_lt]
  refine ⟨?below, ?rises, ?falls, fun _ _ => if_neg (by omega), fun hlow hhigh => ?inside, fun hout => ?outside⟩
  case below => split <;> omega
  case rises => split <;> omega
  case falls => split <;> omega
  case inside =>
    rw [if_pos (by omega)]
    refine ⟨fun hthree => ?_, fun hfew => ?_⟩
    · have hfour : min 4 (s.clk.wins + 1) = 4 := by omega
      simp [hfour]
    · have hfour : min 4 (s.clk.wins + 1) ≠ 4 := by omega
      simp [hfour]
  case outside =>
    rw [if_neg (by omega)]
    simp

/-- Settles O49: one lemma for each clock that fails (`clkFail_…`), of which the loss of a die rests on `severDie_sameDies`. -/
theorem clockFailures : Obligations.ClockFailures := ⟨clocks, tuberTrim⟩

end Sys2Proof.Machine

/-!
PROOFS of family 04_cube_array.md: the residue checks of the cube array (R95 to R97), and what a replay that fails does to other tiles
(R99, R109, R148).
-/

namespace Sys2Proof.Machine

/-! ### Residues as numbers modulo 4095 (R95) -/

/-- Two numbers have the same residue. -/
def sameRes (x y : Int) : Prop := x % 4095 = y % 4095

namespace sameRes

theorem refl (x : Int) : sameRes x x := rfl

theorem symm {x y : Int} (h : sameRes x y) : sameRes y x := Eq.symm h

theorem trans {x y z : Int} (h : sameRes x y) (g : sameRes y z) : sameRes x z := Eq.trans h g

theorem of_eq {x y : Int} (h : x = y) : sameRes x y := h ▸ refl x

theorem emod (x : Int) : sameRes (x % 4095) x := by
  unfold sameRes
  omega

theorem add {x y u v : Int} (h : sameRes x y) (g : sameRes u v) : sameRes (x + u) (y + v) := by
  unfold sameRes at *
  omega

theorem sub {x y u v : Int} (h : sameRes x y) (g : sameRes u v) : sameRes (x - u) (y - v) := by
  unfold sameRes at *
  omega

theorem mul {x y u v : Int} (h : sameRes x y) (g : sameRes u v) : sameRes (x * u) (y * v) := by
  unfold sameRes at *
  rw [Int.mul_emod, h, g, ← Int.mul_emod]

end sameRes

theorem two_pow_sameRes (n : Nat) : sameRes (2 ^ n) (2 ^ (n % 12)) := by
  induction n using Nat.strongRecOn with
  | _ n ih =>
    by_cases h : n < 12
    · rw [Nat.mod_eq_of_lt h]
      exact .refl _
    · obtain ⟨m, rfl⟩ := Nat.exists_eq_add_of_le (Nat.le_of_not_lt h)
      have hone : sameRes (2 ^ 12) 1 := (by decide : (2 ^ 12 : Int) % 4095 = 1 % 4095)
      have hstep := hone.mul (ih m (by omega))
      rw [← Int.pow_add, Int.one_mul] at hstep
      rwa [Nat.add_mod_left]

/-- What 2^e is modulo 4095, for any integer e: 2^12 is 1. -/
def powMod (e : Int) : Int := 2 ^ (e % 12).toNat

theorem powMod_toNat {d : Int} (hd : 0 ≤ d) : sameRes (2 ^ d.toNat) (powMod d) := by
  have hexp : d.toNat % 12 = (d % 12).toNat := by omega
  have hpow := two_pow_sameRes d.toNat
  rwa [hexp] at hpow

theorem powMod_add (d e : Int) : sameRes (powMod (d + e)) (powMod d * powMod e) := by
  have hexp : ((d % 12).toNat + (e % 12).toNat) % 12 = ((d + e) % 12).toNat := by omega
  have hpow := two_pow_sameRes ((d % 12).toNat + (e % 12).toNat)
  rw [hexp, Int.pow_add] at hpow
  exact hpow.symm

theorem powMod_emod_ne_zero (e : Int) : powMod e % 4095 ≠ 0 := by
  have hall : ∀ r < 12, (2 ^ r : Int) % 4095 ≠ 0 := by decide
  exact hall _ (by omega)

theorem sameRes_toNat_emod (x : Int) : sameRes ((x % 4095).toNat : Int) x := by
  rw [Int.toNat_of_nonneg (Int.emod_nonneg x (by decide))]
  exact .emod x

/-- The residue of n × 2^e is that of n times that of 2^e. -/
theorem sameRes_res (n e : Int) : sameRes (res n e : Int) (n * powMod e) :=
  (sameRes_toNat_emod _).trans ((sameRes.emod n).mul (.refl _))

theorem res_ne_zero {n e : Int} (h : n * powMod e % 4095 ≠ 0) : res n e ≠ 0 := by
  intro hzero
  have hres := sameRes_res n e
  rw [hzero] at hres
  exact h hres.symm

/-- No power of 2 is a multiple of 4095 (R97). -/
theorem two_pow_mul_powMod_ne_zero (n : Nat) (e : Int) : 2 ^ n * powMod e % 4095 ≠ 0 := by
  have hpow : sameRes (2 ^ n * powMod e) (powMod (n + e)) :=
    ((powMod_toNat (Int.natCast_nonneg n)).mul (.refl _)).trans (powMod_add n e).symm
  rw [hpow]
  exact powMod_emod_ne_zero _

/-- Settles O12: 2^12 has residue 1, so that 2^n × 2^e has the residue of one of twelve powers of 2, of which none is 0. -/
theorem oneBitErrorsSeen : Obligations.OneBitErrorsSeen := by
  unfold Obligations.OneBitErrorsSeen
  intro n e
  have hpow := two_pow_mul_powMod_ne_zero n e
  refine ⟨res_ne_zero hpow, res_ne_zero ?_⟩
  rw [Int.neg_mul]
  omega

/-! ### Sums and products of residue rows (R96) -/

theorem dotRes_nil_left (bs : List Nat) : dotRes [] bs = 0 := rfl

theorem dotRes_nil_right (as : List Nat) : dotRes as [] = 0 := by
  cases as <;> rfl

theorem sameRes_dotRes_cons (a b : Nat) (as bs : List Nat) :
    sameRes (dotRes (a :: as) (b :: bs)) (a * b + dotRes as bs) := by
  rw [dotRes, Int.natCast_emod, Int.natCast_add, Int.natCast_mul]
  exact .emod _

theorem dotRes_comm (as bs : List Nat) : dotRes as bs = dotRes bs as := by
  induction as generalizing bs with
  | nil => rw [dotRes_nil_left, dotRes_nil_right]
  | cons a as ih =>
    cases bs with
    | nil => rfl
    | cons b bs => rw [dotRes, dotRes, ih, Nat.mul_comm]

theorem sameRes_dotRes_addRes (as bs cs : List Nat) :
    sameRes (dotRes (addRes as bs) cs) (dotRes as cs + dotRes bs cs) := by
  induction as, bs using addRes.induct generalizing cs with
  | case1 a as b bs ih =>
    cases cs with
    | nil =>
      simp only [dotRes_nil_right]
      exact .refl _
    | cons c cs =>
      have hhead : sameRes ((((a + b) % 4095 : Nat) : Int) * c) (a * c + b * c) := by
        rw [← Int.add_mul, Int.natCast_emod, Int.natCast_add]
        exact (sameRes.emod _).mul (.refl _)
      rw [addRes]
      refine (sameRes_dotRes_cons _ _ _ _).trans ((hhead.add (ih cs)).trans ?_)
      refine (sameRes.of_eq ?_).trans ((sameRes_dotRes_cons a c as cs).add (sameRes_dotRes_cons b c bs cs)).symm
      omega
  | case2 bs =>
    rw [addRes, dotRes_nil_left]
    exact .of_eq (Int.zero_add _).symm
  | case3 as h =>
    have hadd : addRes as [] = as := by cases as <;> rfl
    rw [hadd, dotRes_nil_left]
    exact .of_eq (Int.add_zero _).symm

/-- A sum over a list of rows or columns. -/
def sumOver (l : List Nat) (f : Nat → Int) : Int := (l.map f).sum

theorem sumOver_cons (i : Nat) (l : List Nat) (f : Nat → Int) : sumOver (i :: l) f = f i + sumOver l f := List.sum_cons

theorem sumOver_congr {l : List Nat} {f g : Nat → Int} (h : ∀ i ∈ l, sameRes (f i) (g i)) : sameRes (sumOver l f) (sumOver l g) := by
  induction l with
  | nil => exact .refl _
  | cons i l ih =>
    rw [sumOver_cons, sumOver_cons]
    exact (h i List.mem_cons_self).add (ih fun j hj => h j (List.mem_cons_of_mem i hj))

theorem sameRes_dotRes_foldl (f : Nat → List Nat) (l : List Nat) (acc cs : List Nat) :
    sameRes (dotRes (l.foldl (fun t i => addRes t (f i)) acc) cs) (dotRes acc cs + sumOver l (fun i => dotRes (f i) cs)) := by
  induction l generalizing acc with
  | nil => exact .of_eq (Int.add_zero _).symm
  | cons i l ih =>
    rw [List.foldl_cons, sumOver_cons, ← Int.add_assoc]
    exact (ih _).trans ((sameRes_dotRes_addRes acc (f i) cs).add (.refl _))

/-- A sum over the rows or columns of a block. -/
def sumBlock (f : Nat → Int) : Int := sumOver (List.range 8) f

theorem sumBlock_congr {f g : Nat → Int} (h : ∀ i < 8, sameRes (f i) (g i)) : sameRes (sumBlock f) (sumBlock g) :=
  sumOver_congr fun i hi => h i (List.mem_range.1 hi)

theorem sameRes_dotRes_sumRows_left (v : List (List OpVal)) (r : Nat) (cs : List Nat) :
    sameRes (dotRes (sumRows v r) cs) (sumBlock (fun i => dotRes (opRow v (8 * i + r)) cs)) := by
  have hfold := sameRes_dotRes_foldl (fun i => opRow v (8 * i + r)) (List.range 8) [] cs
  rwa [dotRes_nil_left, Int.natCast_zero, Int.zero_add] at hfold

theorem sameRes_dotRes_sumRows_right (v : List (List OpVal)) (r : Nat) (cs : List Nat) :
    sameRes (dotRes cs (sumRows v r)) (sumBlock (fun i => dotRes cs (opRow v (8 * i + r)))) := by
  simp only [dotRes_comm cs]
  exact sameRes_dotRes_sumRows_left v r cs

/-- The running sum of a comparison (R97). -/
def sumMod (f : Nat → Nat) : Nat := (List.range 8).foldl (fun t i => (t + f i) % 4095) 0

theorem sameRes_foldl_mod (f : Nat → Nat) (l : List Nat) (t : Nat) :
    sameRes (l.foldl (fun t i => (t + f i) % 4095) t) (t + sumOver l (fun i => f i)) := by
  induction l generalizing t with
  | nil => exact .of_eq (Int.add_zero _).symm
  | cons i l ih =>
    rw [List.foldl_cons, sumOver_cons, ← Int.add_assoc]
    refine (ih _).trans (.add ?_ (.refl _))
    rw [Int.natCast_emod, Int.natCast_add]
    exact .emod _

theorem foldl_mod_lt (f : Nat → Nat) (l : List Nat) {t : Nat} (ht : t < 4095) :
    l.foldl (fun t i => (t + f i) % 4095) t < 4095 := by
  induction l generalizing t with
  | nil => exact ht
  | cons i l ih => exact ih (Nat.mod_lt _ (by decide))

theorem sameRes_sumMod (f : Nat → Nat) : sameRes (sumMod f) (sumBlock (fun i => f i)) := by
  have hfold := sameRes_foldl_mod f (List.range 8) 0
  rwa [Int.natCast_zero, Int.zero_add] at hfold

theorem upsetAt_nil (row col r c : Nat) : upsetAt [] row col r c = 0 := rfl

theorem modRes_zero (x : Nat) : modRes x 0 = x % 4095 := by
  rw [modRes, Int.add_zero]
  omega

theorem sameRes_modRes (x : Nat) : sameRes (modRes x 0) x := by
  rw [modRes_zero, Int.natCast_emod]
  exact .emod _

/-- A check cube of a pass without a fault compares equal where its residue is the sum that it stands for. -/
theorem modRes_eq_sumMod {x : Nat} {f : Nat → Nat} (h : sameRes x (sumBlock (fun i => f i))) : modRes x 0 = sumMod f := by
  have hres : sameRes x (sumMod f) := h.trans (sameRes_sumMod f).symm
  have hlt : sumMod f < 4095 := foldl_mod_lt f _ (by decide)
  rw [modRes_zero]
  unfold sameRes at hres
  omega

/-! ### The comparisons of a block (R97) -/

theorem getD_map_range {α : Type} (f : Nat → α) (d : α) {n j : Nat} (h : j < n) : ((List.range n).map f).getD j d = f j := by
  rw [List.getD_eq_getElem?_getD, List.getElem?_map, List.getElem?_range h]
  rfl

/-- No comparison of a list fails. -/
theorem filter_range_eq_nil {p : Nat → Bool} {n : Nat} (h : ∀ i < n, p i = false) : (List.range n).filter p = [] :=
  List.filter_eq_nil_iff.2 (fun i hi => by rw [h i (List.mem_range.1 hi)]; decide)

/-- Where every pass residue is the product of its operand rows' residues, every comparison at (r, c) is equal. -/
theorem checkAt_clean {a b : List (List OpVal)} {pres : Nat → Nat → Nat} {r c : Nat}
    (h : ∀ i < 8, ∀ j < 8, sameRes (pres i j) (dotRes (opRow a (8 * i + r)) (opRow b (8 * j + c)))) :
    checkAt a b [] pres r c = ⟨[], [], false, false⟩ := by
  have hrow : ∀ j < 8, modRes (dotRes (sumRows a r) (opRow b (8 * j + c))) 0 = sumMod (fun i => pres i j) := fun j hj =>
    modRes_eq_sumMod ((sameRes_dotRes_sumRows_left a r _).trans (sumBlock_congr fun i hi => (h i hi j hj).symm))
  have hcol : ∀ i < 8, modRes (dotRes (opRow a (8 * i + r)) (sumRows b c)) 0 = sumMod (fun j => pres i j) := fun i hi =>
    modRes_eq_sumMod ((sameRes_dotRes_sumRows_right b c _).trans (sumBlock_congr fun j hj => (h i hi j hj).symm))
  have hk1 : modRes (dotRes (sumRows a r) (sumRows b c)) 0 =
      sumMod (fun j => modRes (dotRes (sumRows a r) (opRow b (8 * j + c))) 0) :=
    modRes_eq_sumMod ((sameRes_dotRes_sumRows_right b c _).trans (sumBlock_congr fun _ _ => (sameRes_modRes _).symm))
  have hk2 : modRes (dotRes (sumRows a r) (sumRows b c)) 0 =
      sumMod (fun i => modRes (dotRes (opRow a (8 * i + r)) (sumRows b c)) 0) :=
    modRes_eq_sumMod ((sameRes_dotRes_sumRows_left a r _).trans (sumBlock_congr fun _ _ => (sameRes_modRes _).symm))
  simp only [checkAt, upsetAt_nil, List.foldl_map, CheckFail.mk.injEq]
  refine ⟨filter_range_eq_nil fun j hj => ?rows, filter_range_eq_nil fun i hi => ?cols, ?k1, ?k2⟩
  case rows => rw [getD_map_range _ _ hj, hrow j hj]; exact bne_self_eq_false _
  case cols => rw [getD_map_range _ _ hi, hcol i hi]; exact bne_self_eq_false _
  case k1 => rw [hk1]; exact bne_self_eq_false _
  case k2 => rw [hk2]; exact bne_self_eq_false _

/-! ### The residue of a placed product (R95, R96, R106) -/

/-- What an element's placed products come to: their sum on the anchor and the residue of what the placement dropped. -/
def placedRes (A : Int) (q : PlaceSum) : Int := q.sum * powMod A + q.dropRes

theorem xClamp_eq_of_not_sat {v : Int} (h : (xClamp v).2 = false) : (xClamp v).1 = v ∧ xMin ≤ v ∧ v ≤ xMax := by
  simp only [xClamp, Bool.or_eq_false_iff, decide_eq_false_iff_not, Int.not_lt] at h
  obtain ⟨hhigh, hlow⟩ := h
  refine ⟨?_, hlow, hhigh⟩
  simp only [xClamp, clampInt]
  omega

theorem placeOne_sat {A : Int} {acc : PlaceSum} (a b : OpVal) (h : acc.sat = true) : (placeOne A acc a b).sat = true := by
  unfold placeOne
  split
  split
  · exact Bool.or_eq_true_iff.2 (.inl h)
  · exact h

theorem placeRow_sat {A : Int} {acc : PlaceSum} (as bs : List OpVal) (h : acc.sat = true) : (placeRow A as bs acc).sat = true := by
  induction as generalizing bs acc with
  | nil => exact h
  | cons a as ih =>
    cases bs with
    | nil => exact h
    | cons b bs => exact ih bs (placeOne_sat a b h)

/-- The part of a product p × 2^x that lies on the grid of 2^A, and the part that R106 drops. -/
def onGrid (A p x : Int) : Int := if A ≤ x then p * 2 ^ (x - A).toNat else Int.fdiv p (2 ^ (A - x).toNat)
def offGrid (A p x : Int) : Int := if A ≤ x then 0 else p - onGrid A p x * 2 ^ (A - x).toNat

theorem placeOne_fin (A : Int) (acc : PlaceSum) (n m e g : Int) :
    placeOne A acc (.fin n e) (.fin m g) =
      { sum := acc.sum + (xClamp (onGrid A (n * m) (e + g))).1, cls := acc.cls, dropped := acc.dropped || offGrid A (n * m) (e + g) != 0,
        sat := acc.sat || (xClamp (onGrid A (n * m) (e + g))).2,
        dropRes := (acc.dropRes + res (offGrid A (n * m) (e + g)) (e + g)) % 4095 } := rfl

theorem onGrid_offGrid (A p x : Int) : sameRes (onGrid A p x * powMod A + offGrid A p x * powMod x) (p * powMod x) := by
  by_cases h : A ≤ x
  · have hx : sameRes (2 ^ (x - A).toNat * powMod A) (powMod x) := by
      have hadd := (powMod_add (x - A) A).symm
      rw [Int.sub_add_cancel] at hadd
      exact ((powMod_toNat (by omega)).mul (.refl _)).trans hadd
    rw [onGrid, offGrid, if_pos h, if_pos h, Int.zero_mul, Int.add_zero, Int.mul_assoc]
    exact (sameRes.refl p).mul hx
  · have hA : sameRes (powMod A) (2 ^ (A - x).toNat * powMod x) := by
      have hadd := powMod_add (A - x) x
      rw [Int.sub_add_cancel] at hadd
      exact hadd.trans ((powMod_toNat (by omega)).symm.mul (.refl _))
    rw [offGrid, if_neg h, Int.sub_mul, Int.mul_assoc]
    refine (((sameRes.refl _).mul hA).add (.refl _)).trans (.of_eq ?_)
    omega

/-- A product placed without a clamp adds the product of its operands' residues. -/
theorem placedRes_placeOne {A : Int} {acc : PlaceSum} {n m e g : Int} (h : (placeOne A acc (.fin n e) (.fin m g)).sat = false) :
    sameRes (placedRes A (placeOne A acc (.fin n e) (.fin m g))) (placedRes A acc + opRes (.fin n e) * opRes (.fin m g)) := by
  rw [placeOne_fin] at h ⊢
  obtain ⟨-, hclamp⟩ := Bool.or_eq_false_iff.1 h
  obtain ⟨hval, -⟩ := xClamp_eq_of_not_sat hclamp
  have hdrop : sameRes (((acc.dropRes + res (offGrid A (n * m) (e + g)) (e + g)) % 4095 : Nat) : Int)
      (acc.dropRes + offGrid A (n * m) (e + g) * powMod (e + g)) := by
    rw [Int.natCast_emod, Int.natCast_add]
    exact (sameRes.emod _).trans ((sameRes.refl _).add (sameRes_res _ _))
  have hprod : sameRes (n * m * powMod (e + g)) (opRes (.fin n e) * opRes (.fin m g)) :=
    (((sameRes.refl (n * m)).mul (powMod_add e g)).trans (.of_eq (by ac_rfl))).trans ((sameRes_res n e).mul (sameRes_res m g)).symm
  have hgrid := (onGrid_offGrid A (n * m) (e + g)).trans hprod
  simp only [placedRes, hval, Int.add_mul]
  refine ((sameRes.refl _).add hdrop).trans ((sameRes.of_eq ?_).trans ((sameRes.refl _).add hgrid))
  omega

/-- The operands of the row are finite. -/
def finRow (as : List OpVal) : Prop := ∀ v ∈ as, ∃ n e, v = .fin n e

/-- What an element's placed products come to is the product of the residue rows (R96). -/
theorem placedRes_placeRow {A : Int} {acc : PlaceSum} {as bs : List OpVal} (ha : finRow as) (hb : finRow bs)
    (h : (placeRow A as bs acc).sat = false) :
    sameRes (placedRes A (placeRow A as bs acc)) (placedRes A acc + dotRes (as.map opRes) (bs.map opRes)) := by
  induction as generalizing bs acc with
  | nil => exact .of_eq (Int.add_zero _).symm
  | cons a as ih =>
    cases bs with
    | nil => exact .of_eq (Int.add_zero _).symm
    | cons b bs =>
      obtain ⟨n, e, rfl⟩ := ha _ List.mem_cons_self
      obtain ⟨m, g, rfl⟩ := hb _ List.mem_cons_self
      rw [placeRow] at h ⊢
      have hone : (placeOne A acc (.fin n e) (.fin m g)).sat = false :=
        Bool.eq_false_iff.2 fun hsat => Bool.false_ne_true (h.symm.trans (placeRow_sat as bs hsat))
      have hrest := ih (fun v hv => ha v (List.mem_cons_of_mem _ hv)) (fun v hv => hb v (List.mem_cons_of_mem _ hv)) h
      refine hrest.trans (((placedRes_placeOne hone).add (.refl _)).trans ?_)
      rw [Int.add_assoc]
      exact (sameRes.refl _).add (sameRes_dotRes_cons _ _ _ _).symm

/-- The element after a pass that does not saturate is the sum (R107). -/
theorem xelVal_passEl {A : Int} {old : XEl} {as bs : List OpVal} (h : (passEl A old as bs 0).2.sat = false) :
    (placeRow A as bs placeZero).sat = false ∧
      xelVal (passEl A old as bs 0).1 = xelVal old + (placeRow A as bs placeZero).sum := by
  simp only [passEl, Int.add_zero, Bool.or_eq_false_iff] at h ⊢
  obtain ⟨hplace, hsum⟩ := h
  obtain ⟨hval, hlow, hhigh⟩ := xClamp_eq_of_not_sat hsum
  refine ⟨hplace, ?_⟩
  simp only [xMin, xMax] at hlow hhigh
  rw [hval, xelVal, BitVec.toInt_ofInt, Int.bmod_eq_of_le] <;> omega

theorem sameRes_passRes (A : Int) (old new : XEl) (q : PlaceSum) :
    sameRes (passRes A old new (some q)) ((xelVal new - xelVal old) * powMod A + q.dropRes) := by
  rw [Int.sub_mul]
  exact (sameRes_toNat_emod _).trans (((sameRes_res _ _).sub (sameRes_res _ _)).add (.refl _))

/-- Without a fault the pass residue of an element is the product of its operand rows' residues (R96). -/
theorem passRes_passEl {A : Int} {old : XEl} {as bs : List OpVal} (ha : finRow as) (hb : finRow bs)
    (h : (passEl A old as bs 0).2.sat = false) :
    sameRes (passRes A old (passEl A old as bs 0).1 (some (passEl A old as bs 0).2)) (dotRes (as.map opRes) (bs.map opRes)) := by
  obtain ⟨hplace, hval⟩ := xelVal_passEl h
  have hpass := sameRes_passRes A old (passEl A old as bs 0).1 (passEl A old as bs 0).2
  have hdrop : (passEl A old as bs 0).2.dropRes = (placeRow A as bs placeZero).dropRes := rfl
  have hdiff : xelVal (passEl A old as bs 0).1 - xelVal old = (placeRow A as bs placeZero).sum := by omega
  rw [hdiff, hdrop] at hpass
  have hrow := placedRes_placeRow (acc := placeZero) ha hb hplace
  have hzero : placedRes A placeZero = 0 := (Int.add_zero _).trans (Int.zero_mul _)
  rw [hzero, Int.zero_add] at hrow
  exact hpass.trans hrow

/-! ### Every comparison of a pass (R97) -/

/-- An element of a pass without a fault: of the output rows and columns, and beside them. -/
theorem passTile_getD (p : Pass) (A : Int) (t : AccTile) {m n : Nat} (hm : m < 64) (hn : n < 64) :
    (passTile p A t []).getD (m * 64 + n) (xelZero, none) =
      if m < p.rowsA ∧ n < p.rowsB then
        ((passEl A (t.els.getD (m * 64 + n) xelZero) (p.aVals.getD m []) (p.bVals.getD n []) 0).1,
         some (passEl A (t.els.getD (m * 64 + n) xelZero) (p.aVals.getD m []) (p.bVals.getD n []) 0).2)
      else (t.els.getD (m * 64 + n) xelZero, none) := by
  have hrow : (m * 64 + n) / 64 = m := by omega
  have hcol : (m * 64 + n) % 64 = n := by omega
  rw [passTile, getD_map_range _ _ (by omega : m * 64 + n < 4096)]
  simp only [hrow, hcol, upsetAt_nil]

theorem opRow_of_length_le {v : List (List OpVal)} {m : Nat} (h : v.length ≤ m) : opRow v m = [] := by
  rw [opRow, List.getD_eq_getElem?_getD, List.getElem?_eq_none h]
  rfl

/-- Where no position fails, nothing is left of joining them. -/
theorem foldl_joinFail_clean {f : Nat → CheckFail} {l : List Nat} (h : ∀ x ∈ l, f x = ⟨[], [], false, false⟩) :
    l.foldl (fun acc x => joinFail acc (f x)) ⟨[], [], false, false⟩ = ⟨[], [], false, false⟩ := by
  induction l with
  | nil => rfl
  | cons x l ih =>
    rw [List.foldl_cons, h x List.mem_cons_self]
    exact ih fun y hy => h y (List.mem_cons_of_mem x hy)

theorem getD_mem {α : Type} {l : List α} {i : Nat} (d : α) (h : i < l.length) : l.getD i d ∈ l := by
  rw [List.getD_eq_getElem?_getD, List.getElem?_eq_getElem h]
  exact List.getElem_mem h

section
variable {p : Pass} {A : Int} {t : AccTile} (hshape : passShape p)
  (hsat : ∀ x ∈ passTile p A t [], ∀ q, x.2 = some q → q.sat = false)
include hshape

theorem finRow_of_passShape {r : List OpVal} (h : r ∈ p.aVals ++ p.bVals) : finRow r := by
  obtain ⟨-, -, -, -, hfin⟩ := hshape
  exact (hfin r h).2

include hsat

/-- The pass residue of every element of the tile, inside the output rows and columns and outside them. -/
theorem passRes_passTile {m n : Nat} (hm : m < 64) (hn : n < 64) :
    sameRes (passRes A (t.els.getD (m * 64 + n) xelZero) ((passTile p A t []).getD (m * 64 + n) (xelZero, none)).1
      ((passTile p A t []).getD (m * 64 + n) (xelZero, none)).2) (dotRes (opRow p.aVals m) (opRow p.bVals n)) := by
  have ⟨_, _, hlenA, hlenB, _⟩ := hshape
  have hget := passTile_getD p A t hm hn
  by_cases hin : m < p.rowsA ∧ n < p.rowsB
  · obtain ⟨hmA, hnB⟩ := hin
    have hmem : (passTile p A t []).getD (m * 64 + n) (xelZero, none) ∈ passTile p A t [] :=
      getD_mem _ (by simp only [passTile, List.length_map, List.length_range]; omega)
    rw [if_pos ⟨hmA, hnB⟩] at hget
    rw [hget] at hmem ⊢
    exact passRes_passEl (finRow_of_passShape hshape (List.mem_append_left _ (getD_mem _ (by omega))))
      (finRow_of_passShape hshape (List.mem_append_right _ (getD_mem _ (by omega)))) (hsat _ hmem _ rfl)
  · have hnil : dotRes (opRow p.aVals m) (opRow p.bVals n) = 0 := by
      rcases Decidable.not_and_iff_or_not.1 hin with h | h
      · rw [opRow_of_length_le (by omega), dotRes_nil_left]
      · rw [opRow_of_length_le (v := p.bVals) (by omega), dotRes_nil_right]
    rw [hget, if_neg hin, hnil]
    exact .refl 0

/-- No position's comparison fails. -/
theorem passChecks_clean : passChecks p A t (passTile p A t []) [] = ⟨[], [], false, false⟩ := by
  refine foldl_joinFail_clean fun rc hrc => checkAt_clean fun i hi j hj => ?_
  rw [List.mem_range] at hrc
  rw [Nat.add_assoc]
  exact passRes_passTile hshape hsat (by omega) (by omega)

end

/-- Settles O11: modulo 4095 (`sameRes`) each pass residue is the product of its operand rows (`passRes_passTile`), and each comparison is of two
sums of these products (`checkAt_clean`). -/
theorem cleanPassPasses : Obligations.CleanPassPasses := by
  unfold Obligations.CleanPassPasses
  exact fun _ _ _ hshape hsat => passChecks_clean hshape hsat

/-! ### A replay that fails aborts a task (R99, R109, R148) -/

/-- The device in service: context 0 of core 0 runs for partition 0 and owns tiles 0 and 1 (R59), its t0 names an INT8 tile of one row
with K = 32, and tile 1 is pending, as ACCZ with −512 leaves it. -/
def tilePending : State :=
  { State.reset with
    regions := vmod State.reset.regions 0 (fun g => { g with owner := some 0, power := .awake })
    parts := vset State.reset.parts 0 { PartCfg.none with live := true, regions := 1, syncs := [⟨0, 0, 1, 0xFFFF⟩] }
    cores := vmod State.reset.cores 0 (fun m =>
      { m with
        ctx := vmod m.ctx 0 (fun x => { x with st := .running, pc := 64, t := vset x.t 0 (32 * 2 ^ 64) })
        imem := ⟨[(0, 3)], []⟩
        tiles := vset m.tiles 1 (zeroTile none) }) }

/-- A task issues an MMA on tile 0 and one on tile 1, which resolves the pending anchor at its issue (R109). The first one starts, a cell
reports a parity error at its last step, and its replay enters. -/
def replayOfTask : List Instr :=
  [.taskBegin 0 ⟨0, 0, 0, 0, 0, 0⟩, .mma 0 ⟨0, 0, 0, 0, 0, 0, 0, 0⟩, .mma 0 ⟨1, 0, 0, 0, 0, 0, 0, 0⟩, .mmaPassStart 0,
   .passCommit 0 [] [(0, 0)], .replayStart 0]

noncomputable def replaying : State := replayOfTask.foldl (fun s i => ran s (exec i s)) tilePending

theorem replaying_passes : ∃ p, (getCore replaying 0).passes = [p] ∧ p.acc = 0 :=
  List.map_eq_singleton_iff.1 (by decide +kernel : (getCore replaying 0).passes.map (fun p => p.acc) = [0])

theorem replaying_tiles : coreClocked replaying 0 = true ∧ (getTile replaying 0 0).anchor = some 0 ∧
    tileSofts (getCore replaying 0) 0 = [] ∧ (getTile replaying 0 1).anchor = none := by
  decide +kernel

/-- The replay fails too, its task is aborted, and the MMA that leaves the queue leaves its anchor behind in tile 1. -/
theorem replaying_fails : (getTile (ran replaying (exec (.passCommit 0 [] [(0, 0)]) replaying)) 0 1).anchor = some 0 := by
  decide +kernel

/-- Refutes O10: `Claims.PassCommit` says that PASS_COMMIT leaves every tile but the pass's own, whatever the outcome. A replay that
fails takes ABFT_PERSIST, which aborts the open task of its context (R80, R148). An MMA of that task that is still queued, and that had
resolved the pending anchor of another tile at its issue (R109), then gives this tile its anchor (the model's reading, log 75). -/
theorem not_tensorPasses : ¬ Obligations.TensorPasses := by
  unfold Obligations.TensorPasses Claims.PassCommit
  rintro ⟨-, -, -, hcommit, -, -⟩
  obtain ⟨p, hp, hacc⟩ := replaying_passes
  obtain ⟨hclock, hanchor, hsoft, hpending⟩ := replaying_tiles
  obtain ⟨t, ht, -, hothers, -⟩ :=
    hcommit replaying 0 p [] [] [(0, 0)] 0 hclock hp (by omega) (by rw [hacc]; exact hanchor) (by rw [hacc]; exact hsoft)
  have hset := replaying_fails
  rw [ht, ran, hothers 1 (by decide) (by omega), hpending] at hset
  exact absurd hset (by decide)

end Sys2Proof.Machine

/-!
PROOFS of family 05_accumulation.md: the combine rule (Table 5.1, R105), the placement of a product (R106), the order of a pass (R107)
and the default anchors (R108, R110).
-/

namespace Sys2Proof.Machine

/-! ### The combine rule (Table 5.1) -/

@[simp] theorem clsCombine_finite_left (a : XCls) : clsCombine .finite a = a := rfl

@[simp] theorem clsCombine_nan_left (a : XCls) : clsCombine .nan a = .nan := by cases a <;> rfl

theorem clsCombine_self (a : XCls) : clsCombine a a = a := by cases a <;> rfl

theorem clsCombine_comm (a b : XCls) : clsCombine a b = clsCombine b a := by
  cases a <;> cases b <;> rfl

theorem clsCombine_assoc (a b c : XCls) : clsCombine (clsCombine a b) c = clsCombine a (clsCombine b c) := by
  cases a with
  | finite => rfl
  | nan => simp only [clsCombine_nan_left]
  | posInf => cases b <;> cases c <;> rfl
  | negInf => cases b <;> cases c <;> rfl

theorem clsCombine_right_comm (a b c : XCls) : clsCombine (clsCombine a b) c = clsCombine (clsCombine a c) b := by
  rw [clsCombine_assoc, clsCombine_comm b c, clsCombine_assoc]

/-- The combine rule is that of Table 5.1 (R105). -/
theorem classCombine : Claims.ClassCombine :=
  ⟨clsCombine_finite_left, rfl, clsCombine_nan_left, clsCombine_self, clsCombine_comm, clsCombine_assoc⟩

/-! ### The placement of a finite product (R106) -/

/-- The part on the grid is the floor of the product in units of 2^A. -/
theorem onGrid_eq_floor (A p x : Int) :
    if A ≤ x then onGrid A p x = p * 2 ^ (x - A).toNat
    else onGrid A p x * 2 ^ (A - x).toNat ≤ p ∧ p < (onGrid A p x + 1) * 2 ^ (A - x).toNat := by
  unfold onGrid
  split
  case isTrue => rfl
  case isFalse =>
    have hpos : (0 : Int) < 2 ^ (A - x).toNat := Int.pow_pos (by decide)
    exact ⟨Int.mul_comm _ _ ▸ Int.mul_fdiv_self_le hpos, Int.lt_fdiv_add_one_mul_self p hpos⟩

theorem offGrid_ne_zero_iff (A p x : Int) : offGrid A p x ≠ 0 ↔ x < A ∧ onGrid A p x * 2 ^ (A - x).toNat ≠ p := by
  unfold offGrid
  split <;> omega

theorem xClamp_sat_iff (v : Int) : (xClamp v).2 = true ↔ 2 ^ 127 - 1 < v ∨ v < -(2 ^ 127) := by
  simp only [xClamp, Bool.or_eq_true, decide_eq_true_eq]
  exact .rfl

theorem placeProduct : Claims.PlaceProduct := by
  intro A acc n m e g
  refine ⟨onGrid A (n * m) (e + g), onGrid_eq_floor A _ _, ?_⟩
  rw [placeOne_fin]
  refine ⟨rfl, rfl, ?_, ?_⟩
  · rw [Bool.or_eq_true, bne_iff_ne, offGrid_ne_zero_iff]
  · rw [Bool.or_eq_true, xClamp_sat_iff]

/-! ### The order of a pass (R107) -/

theorem infClass_ne_finite (p : Prop) {_ : Decidable p} : (if p then XCls.posInf else .negInf) ≠ .finite := by
  split <;> decide

theorem finTimesInf_ne_finite (n : Int) (p : Prop) {_ : Decidable p} :
    (if n = 0 then ((.nan, 0, 0) : XCls × Int × Int) else (if p then .posInf else .negInf, 0, 0)).1 ≠ .finite := by
  split
  · decide
  · exact infClass_ne_finite p

/-- Only two finite operands have a finite product. -/
theorem prodOf_finite {a b : OpVal} (h : (prodOf a b).1 = .finite) : ∃ n e m g, a = .fin n e ∧ b = .fin m g := by
  cases a with
  | nan => cases h
  | inf s =>
    cases b with
    | nan => cases h
    | inf t => exact absurd h (infClass_ne_finite _)
    | fin m g => exact absurd h (finTimesInf_ne_finite m _)
  | fin n e =>
    cases b with
    | nan => cases h
    | inf t => exact absurd h (finTimesInf_ne_finite n _)
    | fin m g => exact ⟨n, e, m, g, rfl, rfl⟩

/-- A product of a non-finite class changes the class of the sum alone. -/
theorem placeOne_not_finite {a b : OpVal} (h : (prodOf a b).1 ≠ .finite) (A : Int) (acc : PlaceSum) :
    placeOne A acc a b = { acc with cls := clsCombine acc.cls (prodOf a b).1 } := by
  unfold placeOne
  revert h
  obtain ⟨c, p, e⟩ := prodOf a b
  cases c with
  | finite => exact fun h => absurd rfl h
  | _ => exact fun _ => rfl

theorem placeOne_right_comm (A : Int) (acc : PlaceSum) (a b c d : OpVal) :
    placeOne A (placeOne A acc a b) c d = placeOne A (placeOne A acc c d) a b := by
  by_cases hab : (prodOf a b).1 = .finite <;> by_cases hcd : (prodOf c d).1 = .finite
  · obtain ⟨n, e, m, g, rfl, rfl⟩ := prodOf_finite hab
    obtain ⟨n', e', m', g', rfl, rfl⟩ := prodOf_finite hcd
    simp only [placeOne_fin, PlaceSum.mk.injEq, Nat.mod_add_mod]
    exact ⟨Int.add_right_comm _ _ _, trivial, Bool.or_right_comm _ _ _, Bool.or_right_comm _ _ _, by rw [Nat.add_right_comm]⟩
  · obtain ⟨n, e, m, g, rfl, rfl⟩ := prodOf_finite hab
    simp only [placeOne_not_finite hcd, placeOne_fin]
  · obtain ⟨n, e, m, g, rfl, rfl⟩ := prodOf_finite hcd
    simp only [placeOne_not_finite hab, placeOne_fin]
  · simp only [placeOne_not_finite hab, placeOne_not_finite hcd, clsCombine_right_comm acc.cls]

theorem placeRow_map (A : Int) (ps : List (OpVal × OpVal)) (acc : PlaceSum) :
    placeRow A (ps.map Prod.fst) (ps.map Prod.snd) acc = ps.foldl (fun t p => placeOne A t p.1 p.2) acc := by
  induction ps generalizing acc with
  | nil => rfl
  | cons p ps ih => exact ih _

theorem placeRow_perm (A : Int) (acc : PlaceSum) {ps qs : List (OpVal × OpVal)} (h : ps.Perm qs) :
    placeRow A (ps.map Prod.fst) (ps.map Prod.snd) acc = placeRow A (qs.map Prod.fst) (qs.map Prod.snd) acc := by
  rw [placeRow_map, placeRow_map]
  exact h.foldl_eq' (fun p _ q _ t => placeOne_right_comm A t p.1 p.2 q.1 q.2) acc

theorem passOrderFree : Claims.PassOrderFree := by
  intro A old ps qs u h
  simp only [passEl, placeRow_perm A placeZero h]

/-! ### The default anchor (R108 to R110) -/

/-- A finite operand value n × 2^e is a multiple of 2^q, and at most 2^(q + 38) in magnitude: a generous bound for the formats of
Table 5.2 that have a default anchor. -/
def withinPlaces (q : Int) (v : OpVal) : Prop := ∀ n e, v = .fin n e → n.natAbs ≤ 2 ^ 7 ∧ q ≤ e ∧ e < q + 32

theorem two_pow_le_two_pow {m n : Nat} (h : m ≤ n) : (2 : Int) ^ m ≤ 2 ^ n := by
  exact_mod_cast Nat.pow_le_pow_right Nat.two_pos h

theorem toInt_natAbs_le {w : Nat} (x : BitVec w) (hw : w ≤ 8) : x.toInt.natAbs ≤ 2 ^ 7 := by
  have hlt : x.toInt < 2 ^ (w - 1) := x.toInt_lt
  have hle : -2 ^ (w - 1) ≤ x.toInt := x.le_toInt
  have hpow : (2 : Int) ^ (w - 1) ≤ 2 ^ 7 := two_pow_le_two_pow (by omega)
  omega

/-- An integer element is an integer of at most 8 bits, without an exponent (Table 4.2). -/
theorem decodeEl_int {f x : Nat} {n e : Int} (hf : f ≤ 1) (h : decodeEl f x = .fin n e) : n.natAbs ≤ 2 ^ 7 ∧ e = 0 := by
  obtain rfl | rfl : f = 0 ∨ f = 1 := by omega
  all_goals
    obtain ⟨rfl, rfl⟩ := OpVal.fin.inj h
    exact ⟨toInt_natAbs_le _ (by decide), rfl⟩

/-- A finite value of a floating-point format is a multiple of the format's finest quantum (Table 4.2). -/
theorem decodeEl_float {f x : Nat} {n e : Int} (hf : 2 ≤ f) (h : decodeEl f x = .fin n e) :
    n.natAbs < 2 ^ ((fmtFloat f).mb + 1) ∧ fmtEmin (fmtFloat f) ≤ e ∧ e < fmtEmin (fmtFloat f) + 2 ^ (fmtFloat f).eb := by
  have hm : x % 2 ^ (fmtFloat f).mb < 2 ^ (fmtFloat f).mb := Nat.mod_lt _ (Nat.two_pow_pos _)
  have he : (x / 2 ^ (fmtFloat f).mb) % 2 ^ (fmtFloat f).eb < 2 ^ (fmtFloat f).eb := Nat.mod_lt _ (Nat.two_pow_pos _)
  rw [decodeEl, if_neg (by omega), if_neg (by omega)] at h
  dsimp only at h
  generalize x % 2 ^ (fmtFloat f).mb = m at h hm
  generalize x / 2 ^ (fmtFloat f).mb % 2 ^ (fmtFloat f).eb = y at h he
  split at h
  · cases h
  split at h
  · split at h <;> cases h
  obtain ⟨rfl, rfl⟩ := OpVal.fin.inj h
  have hy : (y : Int) < 2 ^ (fmtFloat f).eb := by exact_mod_cast he
  have hpow : ((2 ^ (fmtFloat f).mb : Nat) : Int) = 2 ^ (fmtFloat f).mb := Int.natCast_pow 2 _
  rw [Nat.pow_succ]
  refine ⟨?_, ?_, ?_⟩
  · split <;> split <;> omega
  · split <;> omega
  · split <;> omega

theorem fmtFloat_narrow {f : Nat} (h : fmtIsNarrow f = true) : (fmtFloat f).eb ≤ 5 ∧ (fmtFloat f).mb ≤ 3 := by
  simp only [fmtIsNarrow, Bool.and_eq_true, decide_eq_true_eq] at h
  obtain ⟨hlow, hhigh⟩ := h
  obtain rfl | rfl | rfl | rfl | rfl : f = 2 ∨ f = 3 ∨ f = 4 ∨ f = 5 ∨ f = 6 := by omega
  all_goals decide

theorem decodeEl_withinPlaces {f : Nat} {q : Int} (h : leastPlace f = some q) (x : Nat) : withinPlaces q (decodeEl f x) := by
  intro n e hv
  unfold leastPlace at h
  split at h
  case isTrue hint =>
    obtain ⟨hn, rfl⟩ := decodeEl_int hint hv
    obtain rfl := Option.some.inj h
    exact ⟨hn, Int.le_refl 0, by decide⟩
  case isFalse hint =>
    split at h
    case isTrue hnarrow =>
      obtain ⟨hn, hlow, hhigh⟩ := decodeEl_float (by omega) hv
      obtain ⟨heb, hmb⟩ := fmtFloat_narrow hnarrow
      obtain rfl := Option.some.inj h
      have hmag : 2 ^ ((fmtFloat f).mb + 1) ≤ 2 ^ 4 := Nat.pow_le_pow_right (by decide) (by omega)
      have hexp : (2 : Int) ^ (fmtFloat f).eb ≤ 2 ^ 5 := two_pow_le_two_pow heb
      exact ⟨by omega, hlow, by omega⟩
    case isFalse => cases h

theorem placeOne_withinPlaces {A q r : Int} {a b : OpVal} (ha : withinPlaces q a) (hb : withinPlaces r b) (hA : A = q + r)
    (acc : PlaceSum) : (placeOne A acc a b).dropped = acc.dropped ∧ (placeOne A acc a b).sat = acc.sat := by
  by_cases hfin : (prodOf a b).1 = .finite
  · obtain ⟨n, e, m, g, rfl, rfl⟩ := prodOf_finite hfin
    obtain ⟨hn, hlowa, hhigha⟩ := ha n e rfl
    obtain ⟨hm, hlowb, hhighb⟩ := hb m g rfl
    have hgrid : A ≤ e + g := by omega
    have hmag : (n * m * 2 ^ (e + g - A).toNat).natAbs ≤ 2 ^ 7 * 2 ^ 7 * 2 ^ 62 := by
      rw [Int.natAbs_mul, Int.natAbs_mul, Int.natAbs_pow]
      exact Nat.mul_le_mul (Nat.mul_le_mul hn hm) (Nat.pow_le_pow_right (by decide) (by omega))
    have hclamp : (xClamp (n * m * 2 ^ (e + g - A).toNat)).2 = false := by
      rw [Bool.eq_false_iff, ne_eq, xClamp_sat_iff]
      omega
    rw [placeOne_fin, onGrid, offGrid, if_pos hgrid, if_pos hgrid, hclamp]
    exact ⟨Bool.or_false _, Bool.or_false _⟩
  · rw [placeOne_not_finite hfin]
    exact ⟨rfl, rfl⟩

theorem defaultAnchorExact : Claims.DefaultAnchorExact := by
  intro fa fb A ha hb x y acc
  obtain ⟨r, hr⟩ := Option.isSome_iff_exists.1 hb
  rw [hr, Option.getD_some] at ha
  exact placeOne_withinPlaces (decodeEl_withinPlaces ha x) (decodeEl_withinPlaces hr y) (by omega) acc

/-- Settles O9: Table 5.1 is a commutative and associative rule, so that the placements of two products commute
(`placeOne_right_comm`); a placement is a floor (`onGrid_eq_floor`), and on the default anchor an exact one
(`placeOne_withinPlaces`). -/
theorem accumulatorArithmetic : Obligations.AccumulatorArithmetic :=
  ⟨classCombine, placeProduct, passOrderFree, defaultAnchorExact⟩

end Sys2Proof.Machine

/-!
PROOFS of family 06_streams.md: the stream instructions (R128 to R149), and the return of a request whose die is SEVERED (R143).
-/

namespace Sys2Proof.Machine

/-! ### The words of Table 3.12 that name a slot -/

section
variable (k : CoreId) (f : FieldsS) (s : State)

theorem exec_strmSet : exec (.strmSet k f) s = execStrmSet k f s := rfl
theorem exec_strmGo : exec (.strmGo k f) s = execStrmGo k f s := rfl
theorem exec_strmFill : exec (.strmFill k f) s = execStrmFill k f s := rfl
theorem exec_strmWait : exec (.strmWait k f) s = execStrmWait k f s := rfl
theorem exec_strmSwap : exec (.strmSwap k f) s = execStrmSwap k f s := rfl
theorem exec_strmCancel : exec (.strmCancel k f) s = execStrmCancel k f s := rfl
end

/-- Of the 16 bits of IMM16, a slot number uses the lowest three. -/
theorem and_not_seven_of_lt {x : BitVec 16} (h : x.toNat < 8) : x &&& ~~~7 = 0 := by
  have hslots : ∀ n : Fin 8, BitVec.ofNat 16 n.val &&& ~~~7 = 0 := by decide
  simpa using hslots ⟨x.toNat, h⟩

theorem okS_slot {f : FieldsS} {a b c : Bool} (ha : a = true ∨ f.a = 0) (hb : b = true ∨ f.b = 0) (hc : c = true ∨ f.c = 0)
    (htag : f.tag = 0) (hrsv : f.rsv = 0) (himm : f.imm.toNat < 8) : okS f a b c false 7 = true := by
  simp only [okS, and_not_seven_of_lt himm, htag, hrsv, ha, hb, hc, Bool.and_eq_true, Bool.or_eq_true, decide_eq_true_eq, or_true,
    and_self]

/-! ### What leaves the transfers of a core alone -/

/-- Core `k` has in `t` the transfers, the requests in flight and the contexts that it has in `s`. -/
structure sameXfers (k : CoreId) (s t : State) : Prop where
  xfers : (getCore t k).xfers = (getCore s k).xfers
  reqs : (getCore t k).reqs = (getCore s k).reqs
  ctx : (getCore t k).ctx = (getCore s k).ctx

section
variable {k : CoreId} {s t u : State}

theorem sameXfers.refl (k : CoreId) (s : State) : sameXfers k s s := ⟨rfl, rfl, rfl⟩

theorem sameXfers.trans (h : sameXfers k s t) (g : sameXfers k t u) : sameXfers k s u :=
  ⟨g.xfers.trans h.xfers, g.reqs.trans h.reqs, g.ctx.trans h.ctx⟩

theorem sameXfers.currentXfer_eq (h : sameXfers k s t) (c : CtxId) (n : Nat) : currentXfer t k c n = currentXfer s k c n := by
  unfold currentXfer
  rw [h.xfers]

theorem sameXfers.findXfer_eq (h : sameXfers k s t) (id : Nat) : findXfer t k id = findXfer s k id := by
  unfold findXfer
  rw [h.xfers]

theorem sameXfers.getCtx_eq (h : sameXfers k s t) (c : CtxId) : getCtx t k c = getCtx s k c := by
  unfold getCtx
  rw [h.ctx]

theorem sameXfers.modCore {f : Core → Core} (hx : (f (getCore s k)).xfers = (getCore s k).xfers)
    (hr : (f (getCore s k)).reqs = (getCore s k).reqs) (hc : (f (getCore s k)).ctx = (getCore s k).ctx) :
    sameXfers k s (modCore s k f) := by
  constructor <;> rw [modCore_core] <;> assumption

theorem sameXfers.modTask (id : Nat) (f : Task → Task) : sameXfers k s (modTask s k id f) := .modCore rfl rfl rfl

theorem sameXfers.modStrm (f : StrmRegs → StrmRegs) : sameXfers k s (modStrm s k f) := .modCore rfl rfl rfl

theorem sameXfers.sendSync (c : CtxId) (r : RegionId) (b : FBody) : sameXfers k s (sendSync s k c r b) := ⟨rfl, rfl, rfl⟩

theorem sameXfers.sendSyncTo (c : CtxId) (h : W32) (f : Nat → FBody) : sameXfers k s (sendSyncTo s k c h f) := by
  unfold Machine.sendSyncTo
  repeat' split
  · exact .refl k s
  · exact .refl k s
  · exact .sendSync _ _ _

theorem sameXfers.taskCheck (id : Nat) : sameXfers k s (taskCheck s k id) := by
  unfold Machine.taskCheck
  repeat' split
  · exact .refl k s
  · exact (sameXfers.sendSync _ _ _).trans (.modTask _ _)
  · exact .refl k s

theorem sameXfers.taskOpBegin (task : Option Nat) : sameXfers k s (taskOpBegin s k task) := by
  cases task with
  | none => exact .refl k s
  | some id => exact .modTask _ _

theorem sameXfers.taskOpEnd (task : Option Nat) : sameXfers k s (taskOpEnd s k task) := by
  cases task with
  | none => exact .refl k s
  | some id => exact (sameXfers.modTask _ _).trans (.taskCheck _)

theorem sameXfers.noteDone (task : Option Nat) (d : Desc) : sameXfers k s (noteDone s k task d) := by
  unfold Machine.noteDone
  repeat' split
  · exact .refl k s
  · exact .modTask _ _
  · exact .refl k s

theorem sameXfers.dlTrigger (c : CtxId) (slot : Nat) : sameXfers k s (dlTrigger s k c slot).1 := by
  unfold Machine.dlTrigger
  split
  · exact .refl k s
  · dsimp only
    exact .modCore rfl rfl rfl
end

section
variable (old s : State) (k : CoreId) (c : CtxId)

@[simp] theorem getCore_retireNext_xfers : (getCore (retireNext old s k c) k).xfers = (getCore s k).xfers := by
  simp [retireNext, retire, modCtx]

@[simp] theorem getCore_retireNext_strm : (getCore (retireNext old s k c) k).strm = (getCore s k).strm := by
  simp [retireNext, retire, modCtx]

@[simp] theorem currentXfer_retireNext (d : CtxId) (n : Nat) : currentXfer (retireNext old s k c) k d n = currentXfer s k d n := by
  simp [currentXfer]

@[simp] theorem findXfer_retireNext (id : Nat) : findXfer (retireNext old s k c) k id = findXfer s k id := by
  simp [findXfer]

@[simp] theorem pcOf_retireNext : pcOf (retireNext old s k c) k c = pcOf old k c + 8 := by
  simp [retireNext, retire, pcOf]
end

/-! ### Transfers by slot and by number -/

section
variable {α : Type} {p q : α → Bool} {g : α → α}

/-- An update and a filter that spare what a search looks for spare its result. -/
theorem find?_filter_map (hq : ∀ y, q (g y) = q y) (hg : ∀ y, q y = true → g y = y) (hp : ∀ y, q y = true → p y = true) (l : List α) :
    ((l.map g).filter p).find? q = l.find? q := by
  have hpq : (fun a => decide (p a = true ∧ q a = true)) ∘ g = q := by
    funext y
    cases hy : q y with
    | false => simp [hq, hy]
    | true => simp [hy, hg y hy, hp y hy]
  rw [List.find?_filter, List.find?_map, hpq]
  cases hfind : l.find? q with
  | none => rfl
  | some y => rw [Option.map_some, hg y (List.find?_some hfind)]
end

/-- A new transfer is its slot's current one. -/
theorem currentXfer_putXfer (s : State) (k : CoreId) {x : Xfer} (h : x.current = true) :
    currentXfer (putXfer s k x) k x.ctx x.slot = some x := by
  unfold currentXfer putXfer
  rw [modCore_core, List.find?_append, List.find?_eq_none.2, Option.none_or, List.find?_singleton]
  · simp [h]
  · intro y hy
    obtain ⟨z, -, rfl⟩ := List.mem_map.1 (List.mem_filter.1 hy).1
    split <;> simp_all

/-- A new transfer leaves the current ones of the other slots. -/
theorem currentXfer_putXfer_other (s : State) (k : CoreId) (x : Xfer) {c : CtxId} {n : Nat} (h : n ≠ x.slot) :
    currentXfer (putXfer s k x) k c n = currentXfer s k c n := by
  unfold currentXfer putXfer
  rw [modCore_core, List.find?_append, updIf, find?_filter_map]
  · simp [Ne.symm h]
  · intro y
    split
    · grind
    · rfl
  · intro y hy
    rw [if_neg]
    grind
  · intro y hy
    simp_all

/-- A transfer that is updated keeps its place. -/
theorem currentXfer_modXfer (s : State) (k : CoreId) (c : CtxId) (n id : Nat) {f : Xfer → Xfer}
    (hf : ∀ y, (f y).ctx = y.ctx ∧ (f y).slot = y.slot ∧ (f y).current = y.current) :
    currentXfer (modXfer s k id f) k c n = (currentXfer s k c n).map (fun y => if y.id = id then f y else y) := by
  unfold currentXfer modXfer
  rw [modCore_core, updIf, List.find?_map]
  have hkeep : (fun x : Xfer => x.ctx = c && x.slot = n && x.current) ∘ (fun x => if decide (x.id = id) = true then f x else x)
      = fun x => x.ctx = c && x.slot = n && x.current := by
    funext y
    obtain ⟨hctx, hslot, hcurrent⟩ := hf y
    simp only [Function.comp_apply]
    split <;> simp only [hctx, hslot, hcurrent]
  rw [hkeep]
  simp only [decide_eq_true_eq]

theorem findXfer_modXfer (s : State) (k : CoreId) (j id : Nat) {f : Xfer → Xfer} (hf : ∀ y, (f y).id = y.id) :
    findXfer (modXfer s k id f) k j = (findXfer s k j).map (fun y => if y.id = id then f y else y) := by
  unfold findXfer modXfer
  rw [modCore_core, updIf, List.find?_map]
  have hkeep : (fun x : Xfer => decide (x.id = j)) ∘ (fun x => if decide (x.id = id) = true then f x else x) = fun x => decide (x.id = j) := by
    funext y
    simp only [Function.comp_apply]
    split <;> simp only [hf]
  rw [hkeep]
  simp only [decide_eq_true_eq]

theorem findXfer_id {s : State} {k : CoreId} {id : Nat} {x : Xfer} (h : findXfer s k id = some x) : x.id = id := by
  simpa using List.find?_some h

/-- A transfer that ends as it starts, with its event, is its slot's current one. -/
theorem currentXfer_modStrm_putXfer (s : State) (k : CoreId) {x : Xfer} (h : x.current = true) (f : StrmRegs → StrmRegs) :
    currentXfer (modStrm (putXfer s k x) k f) k x.ctx x.slot = some x :=
  ((sameXfers.modStrm f).currentXfer_eq _ _).trans (currentXfer_putXfer s k h)

/-! ### STRM_SET (R128) -/

theorem streamSet : Claims.StreamSet := by
  intro s k c f a hi hb hc htag hrsv himm ha halign hrange hown hclean
  have hok : okS f true false false false 7 = true := okS_slot (.inl rfl) (.inr hb) (.inr hc) htag hrsv himm
  have hread := readLocal_clean s k .opbuf a 64 (fun b hb => by
    obtain ⟨hfirst, hlast⟩ := (mem_blocksOf a 64 b (by decide)).1 hb
    exact hclean b hfirst hlast)
  simp only [exec_strmSet, execStrmSet, runInstr_issues hi, hok, Bool.not_true]
  simp [← ha, halign, opbufIn, hrange, hown, firstFault, hread, finish, memReadNat, getSpace]

/-! ### STRM_GO and STRM_FILL (R129, R140) -/

/-- The start of a transfer: it is its slot's current one, as it was made in a state with the transfers and contexts of this one. -/
theorem startXfer_current (s : State) (k : CoreId) (c : CtxId) (slot : Nat) (d : Desc) (fill : Option W64) (task : Option Nat)
    (hdriver : d.indexed = true → d.driver ≠ slot) :
    ∃ u id partner due, sameXfers k s u ∧
      currentXfer (startXfer s k c slot d fill task) k c slot = some (newXfer u k c slot d fill id task partner due) := by
  unfold startXfer
  extract_lets id s1 s2
  have hs2 : sameXfers k s s2 := (sameXfers.modCore rfl rfl rfl).trans (.noteDone _ _)
  have hdue : sameXfers k s2 (if d.buffered && d.out then (s2, none) else dlTrigger s2 k c slot).1 := by
    split
    · exact .refl k s2
    · exact .dlTrigger c slot
  refine ⟨_, id, if d.indexed then some (id + 1) else none, (if d.buffered && d.out then (s2, none) else dlTrigger s2 k c slot).2,
    hs2.trans hdue, ?_⟩
  dsimp only
  split
  next hindexed =>
    rw [currentXfer_putXfer_other _ _ _ (hdriver hindexed).symm, (sameXfers.taskOpBegin _).currentXfer_eq,
      (sameXfers.dlTrigger _ _).currentXfer_eq]
    exact currentXfer_putXfer _ _ rfl
  next => exact currentXfer_putXfer _ _ rfl

theorem badCauses_nil_driver {s : State} {k : CoreId} {c : CtxId} {slot : Nat} {d : Desc} {fill : Bool}
    (h : badCauses s k c slot d fill = []) (hindexed : d.indexed = true) : d.driver ≠ slot := by
  rintro rfl
  simp [badCauses, hindexed] at h

/-- What STRM_GO and STRM_FILL do on a slot without an active transfer, once steps 1 to 4 of R140 have passed. -/
theorem strmGo_idle {s : State} {k : CoreId} {c : CtxId} {n : Nat} {d : Desc} (fill : Option W64)
    (hd : d = descOf (vget (getCtx s k c).slots (Fin.ofNat 8 n))) (hgo : goFault s k c n d = none)
    (hidle : ∀ x, currentXfer s k c n = some x → xferActive x = false) :
    (∀ r, (openTask s k c).bind (fun t => t.aborted) = some r → ∃ u, strmGo s k c n fill =
      .done (modStrm (putXfer u k (endedXfer s k c n d (getCore s k).nextId 2 9 r)) k (fun m => { m with evAbort := true }))) ∧
    ((openTask s k c).bind (fun t => t.aborted) = none → ∀ e es, badCauses s k c n d fill.isSome = e :: es → ∃ u, strmGo s k c n fill =
      .done (modStrm (putXfer u k (endedXfer s k c n d (getCore s k).nextId 4 e 0)) k (fun m => { m with evBadDesc := true }))) ∧
    ((openTask s k c).bind (fun t => t.aborted) = none → badCauses s k c n d fill.isSome = [] → strmGo s k c n fill =
      if strmGoBlocked s k c n then .wait s (.strmGo n) else .done (startXfer s k c n d fill (getCtx s k c).task)) := by
  subst hd
  refine ⟨fun r hr => ⟨modCore s k (fun m => { m with nextId := (getCore s k).nextId + 1 }), ?_⟩,
    fun hr e es hbad => ⟨noteDone (modCore s k (fun m => { m with nextId := (getCore s k).nextId + 1 })) k (getCtx s k c).task
      (descOf (vget (getCtx s k c).slots (Fin.ofNat 8 n))), ?_⟩,
    fun hr hbad => ?_⟩
  all_goals
    unfold strmGo
    cases hcur : currentXfer s k c n with
    | none => simp only [*] <;> rfl
    | some x => simp only [hidle x hcur, *] <;> rfl

theorem strmGo_active {s : State} {k : CoreId} {c : CtxId} {n : Nat} {x : Xfer} (fill : Option W64)
    (hgo : goFault s k c n (descOf (vget (getCtx s k c).slots (Fin.ofNat 8 n))) = none) (hcur : currentXfer s k c n = some x)
    (hactive : xferActive x = true) : strmGo s k c n fill = .wait s (.strmGo n) := by
  simp only [strmGo, hgo, hcur, hactive, if_true]

/-- Both instructions start what `strmGo` says. -/
theorem exec_strmGo_issues {s : State} {k : CoreId} {c : CtxId} {f : FieldsS} {p : Instr × Option W64} (hi : issues s k c) (ha : f.a = 0)
    (hc : f.c = 0) (htag : f.tag = 0) (hrsv : f.rsv = 0) (himm : f.imm.toNat < 8)
    (hp : p ∈ [(Instr.strmGo k f, (none : Option W64)), (Instr.strmFill k f, some (gOf s k c f.b))]) (hb : p.2 = none → f.b = 0) :
    exec p.1 s = .next (finish s k c (strmGo s k c f.imm.toNat p.2)) := by
  simp only [List.mem_cons, List.not_mem_nil, or_false] at hp
  rcases hp with rfl | rfl
  · have hok : okS f false false false false 7 = true := okS_slot (.inr ha) (.inr (hb rfl)) (.inr hc) htag hrsv himm
    simp only [exec_strmGo, execStrmGo, runInstr_issues hi, hok, Bool.not_true, Bool.false_eq_true, if_false]
  · have hok : okS f false true false false 7 = true := okS_slot (.inr ha) (.inl rfl) (.inr hc) htag hrsv himm
    simp only [exec_strmFill, execStrmFill, runInstr_issues hi, hok, Bool.not_true, Bool.false_eq_true, if_false]

theorem streamStart : Claims.StreamStart := by
  intro s k c f d n hi ha hc htag hrsv hn hn8 hd hgo hidle p hp hb
  subst hn
  rw [exec_strmGo_issues hi ha hc htag hrsv hn8 hp hb]
  obtain ⟨haborted, hbad, hstart⟩ := strmGo_idle p.2 hd hgo hidle
  refine ⟨fun hr hnil hroom => ?start, fun hr e es hcauses => ?bad, fun r hr => ?aborted⟩
  case start =>
    obtain ⟨u, id, partner, due, hsame, hcur⟩ :=
      startXfer_current s k c f.imm.toNat d p.2 (getCtx s k c).task (badCauses_nil_driver hnil)
    rw [hstart hr hnil, if_neg (by simp [hroom])]
    exact ⟨_, _, rfl, by simp [finish], by simpa [finish] using hcur, rfl, rfl, rfl, rfl, rfl,
      congrArg Ctx.pc (hsame.getCtx_eq c), rfl, rfl⟩
  case bad =>
    obtain ⟨u, hres⟩ := hbad hr e es hcauses
    rw [hres]
    exact ⟨_, endedXfer s k c f.imm.toNat d (getCore s k).nextId 4 e 0, rfl, by simp [finish],
      (currentXfer_retireNext _ _ _ _ _ _).trans (currentXfer_modStrm_putXfer u k rfl _), rfl, rfl, rfl, by simp [finish, modStrm]⟩
  case aborted =>
    obtain ⟨u, hres⟩ := haborted r hr
    rw [hres]
    exact ⟨_, endedXfer s k c f.imm.toNat d (getCore s k).nextId 2 9 r, rfl, by simp [finish],
      (currentXfer_retireNext _ _ _ _ _ _).trans (currentXfer_modStrm_putXfer u k rfl _), rfl, rfl, rfl, rfl⟩

/-- Bit 6 of FLAGS (Table 6.1). -/
theorem slotIndexed_eq (s : State) (k : CoreId) (c : CtxId) (n : Nat) :
    slotIndexed s k c n = (descOf (vget (getCtx s k c).slots (Fin.ofNat 8 n))).indexed := by
  simp only [slotIndexed, descOf, BitVec.getLsbD, Nat.testBit_eq_decide_div_mod_eq]
  generalize (vget (getCtx s k c).slots (Fin.ofNat 8 n)).toNat = w
  have hflags : w / 2 ^ (18 * 8 + 6) = w / 2 ^ (8 * 18) / 64 := (Nat.div_div_eq_div_mul w (2 ^ (8 * 18)) 64).symm
  rw [hflags]
  congr 2
  omega

theorem streamBlocked : Claims.StreamBlocked := by
  intro s k c f d n hi ha hc htag hrsv hn hn8 hd hgo p hp hb
  subst hn
  rw [exec_strmGo_issues hi ha hc htag hrsv hn8 hp hb]
  refine ⟨fun x hcur hactive => ?_, fun hidle hr hnil hfull => ?_⟩
  · rw [strmGo_active p.2 (hd ▸ hgo) hcur hactive]
    rfl
  · have hblocked : strmGoBlocked s k c f.imm.toNat = true := by
      simp only [strmGoBlocked, slotIndexed_eq, ← hd, activeCount, Bool.or_eq_true, decide_eq_true_eq]
      exact .inr hfull
    obtain ⟨-, -, hstart⟩ := strmGo_idle p.2 hd hgo hidle
    rw [hstart hr hnil, if_pos hblocked]
    rfl

/-! ### STRM_WAIT and STRM_SWAP (R130, R138) -/

/-- Table 6.6. -/
theorem statusWord_eq (x : Xfer) : statusWord x = statusOf x := by
  unfold statusWord statusOf
  congr 1
  rw [Nat.mul_comm x.record.toNat]
  omega

theorem streamWait : Claims.StreamWait := by
  intro s k c f hi ha hb htag hrsv himm
  have hwait : okS f false false true false 7 = true := okS_slot (.inr ha) (.inr hb) (.inl rfl) htag hrsv himm
  simp only [exec_strmWait, execStrmWait, runInstr_issues hi, hwait, Bool.not_true, Bool.false_eq_true, if_false]
  refine ⟨fun hcur => ?_, fun x hcur => ⟨fun hactive => ?_, fun hended => ?_⟩, fun hc => ?_⟩
  · simp [hcur, finish]
  · simp [hcur, hactive, finish]
  · simp [hcur, hended, finish, statusWord_eq]
  · have hswap : okS f false false false false 7 = true := okS_slot (.inr ha) (.inr hb) (.inr hc) htag hrsv himm
    simp only [exec_strmSwap, execStrmSwap, runInstr_issues hi, hswap, Bool.not_true, Bool.false_eq_true, if_false]
    refine ⟨fun hcur => ?_, fun x hcur => ⟨fun hbuf hst => ?_, fun h => ?_⟩⟩
    · simp [strmSwapBlocked, hcur, finish]
    · rcases hst with hst | hst <;> simp [strmSwapBlocked, hcur, hbuf, hst, finish]
    · rcases h with h | h <;> simp [strmSwapBlocked, hcur, h, finish]

section
variable (x : Xfer) (v : Side)
@[simp] theorem setEngineSide_ctx : (setEngineSide x v).ctx = x.ctx := by unfold setEngineSide; split <;> rfl
@[simp] theorem setEngineSide_slot : (setEngineSide x v).slot = x.slot := by unfold setEngineSide; split <;> rfl
@[simp] theorem setEngineSide_current : (setEngineSide x v).current = x.current := by unfold setEngineSide; split <;> rfl
@[simp] theorem setEngineSide_rbit : (setEngineSide x v).rbit = x.rbit := by unfold setEngineSide; split <;> rfl
@[simp] theorem setEngineSide_state : (setEngineSide x v).state = x.state := by unfold setEngineSide; split <;> rfl
@[simp] theorem setEngineSide_phase : (setEngineSide x v).phase = x.phase := by unfold setEngineSide; split <;> rfl
end

/-- A transfer whose next phase a swap has started (Table 6.7). -/
def swapped (x : Xfer) (due : Option Nat) : Xfer :=
  setEngineSide { x with rbit := !x.rbit, state := .run, phase := x.phase + 1, dlDue := due, dlMissed := false } .busy

theorem swapped_sides (x : Xfer) (due : Option Nat) :
    (if !x.rbit then (swapped x due).side0 else (swapped x due).side1) = .busy ∧
      (if !x.rbit then (swapped x due).side1 else (swapped x due).side0) = if !x.rbit then x.side1 else x.side0 := by
  unfold swapped setEngineSide
  cases x.rbit <;> exact ⟨rfl, rfl⟩

theorem currentXfer_swapXfer {s : State} {k : CoreId} {c : CtxId} {n : Nat} {x : Xfer} (hcur : currentXfer s k c n = some x)
    (hphase : x.phase < dimCount x.desc 4) : ∃ due, currentXfer (swapXfer s k x) k c n = some (swapped x due) := by
  refine ⟨(dlTrigger s k x.ctx x.slot).2, ?_⟩
  rw [swapXfer, if_pos hphase]
  dsimp only
  rw [currentXfer_modXfer _ _ _ _ _ (by intro y; simp), (sameXfers.dlTrigger _ _).currentXfer_eq, hcur, Option.map_some, if_pos rfl]
  rfl

theorem streamSwap : Claims.StreamSwap := by
  intro s k c f x hi ha hb hc htag hrsv himm hcur hbuf hst hphase
  have hok : okS f false false false false 7 = true := okS_slot (.inr ha) (.inr hb) (.inr hc) htag hrsv himm
  have hexec : exec (.strmSwap k f) s = .next (retireNext s (swapXfer s k x) k c) := by
    simp only [exec_strmSwap, execStrmSwap, runInstr_issues hi, hok, Bool.not_true, Bool.false_eq_true, if_false]
    simp [strmSwapBlocked, hcur, hbuf, hst, finish]
  obtain ⟨due, hnext⟩ := currentXfer_swapXfer hcur hphase
  refine ⟨_, _, hexec, by simp, by simpa using hnext, ?_⟩
  have hr : (swapped x due).rbit = !x.rbit := setEngineSide_rbit _ _
  rw [hr]
  exact ⟨rfl, setEngineSide_state _ _, setEngineSide_phase _ _, swapped_sides x due⟩

/-! ### STRM_CANCEL (R147, R149) -/

@[simp] theorem stoppedSides_id (x : Xfer) : (stoppedSides x).id = x.id := by
  simp only [stoppedSides, apply_ite Xfer.id, ite_self]
@[simp] theorem stoppedSides_code (x : Xfer) : (stoppedSides x).code = x.code := by
  simp only [stoppedSides, apply_ite Xfer.code, ite_self]
@[simp] theorem stoppedSides_state (x : Xfer) : (stoppedSides x).state = x.state := by
  simp only [stoppedSides, apply_ite Xfer.state, ite_self]

/-- A transfer in STOPPING ends once none of its requests is in flight. -/
theorem findXfer_stopCheck {s : State} {k : CoreId} {id : Nat} {x : Xfer} (hx : findXfer s k id = some x) (hst : x.state = .stopping) :
    findXfer (stopCheck s k id) k id =
      some (if (getCore s k).reqs.any (fun r => r.xfer = id) then x else stoppedSides { x with state := .ended }) := by
  unfold stopCheck
  cases hany : (getCore s k).reqs.any (fun r => r.xfer = id) with
  | true => simp [hx]
  | false =>
    simp only [hx, hst, decide_true, Bool.not_false, Bool.and_self, if_true, Bool.false_eq_true, if_false]
    rw [(sameXfers.taskOpEnd _).findXfer_eq, (sameXfers.modStrm _).findXfer_eq, findXfer_modXfer _ _ _ _ (by intro y; simp), hx,
      Option.map_some, if_pos (findXfer_id hx)]

/-- A transfer as it enters STOPPING with its code, cause and record. -/
def stopped (code cause : Nat) (record : W32) (x : Xfer) : Xfer :=
  { x with state := .stopping, code := code, cause := cause, record := record, dlDue := none }

theorem findXfer_stopXfer {s : State} {k : CoreId} {id : Nat} {x : Xfer} (hx : findXfer s k id = some x)
    (hst : x.state = .run ∨ x.state = .hold) (code cause : Nat) (record : W32) :
    ∃ y, findXfer (stopXfer s k id code cause record) k id = some y ∧ y.code = code ∧
      y.state = if (getCore s k).reqs.any (fun r => r.xfer = id) then .stopping else .ended := by
  have hstopped : findXfer (modXfer s k id (stopped code cause record)) k id = some (stopped code cause record x) := by
    rw [findXfer_modXfer _ _ _ _ (by intro y; rfl), hx, Option.map_some, if_pos (findXfer_id hx)]
  have hstop : stopXfer s k id code cause record = stopCheck (modXfer s k id (stopped code cause record)) k id := by
    simp only [stopXfer, hx]
    exact if_pos (by simpa using hst)
  have hreqs : (getCore (modXfer s k id (stopped code cause record)) k).reqs = (getCore s k).reqs := by simp [modXfer]
  refine ⟨_, hstop ▸ findXfer_stopCheck hstopped rfl, ?_, ?_⟩ <;> rw [hreqs] <;> split <;> simp [stopped]

/-- The cancellation of a transfer that runs or is held: its sync objects are told, and it stops. -/
theorem cancelXfer_running {s : State} {k : CoreId} {x : Xfer} (hst : x.state = .run ∨ x.state = .hold) :
    ∃ u, sameXfers k s u ∧ cancelXfer s k x = stopXfer u k x.id 3 0 0 := by
  have hdone : sameXfers k s (if x.desc.doneSync = 0xFFFFFFFF then s else sendSyncTo s k x.ctx x.desc.doneSync (fun o => .syncCancel o)) := by
    split
    · exact .refl k s
    · exact .sendSyncTo _ _ _
  have hstopping : x.state ≠ .stopping := by rcases hst with h | h <;> simp [h]
  have hended : x.state ≠ .ended := by rcases hst with h | h <;> simp [h]
  unfold cancelXfer
  simp only [hstopping, hended, decide_false, Bool.false_and, Bool.false_eq_true, if_false]
  cases x.taskObj with
  | none => exact ⟨_, hdone, rfl⟩
  | some o => exact ⟨_, hdone.trans (.sendSync _ _ _), rfl⟩

theorem streamCancel : Claims.StreamCancel := by
  intro s k c f hi ha hb hc htag hrsv himm
  have hok : okS f false false false false 7 = true := okS_slot (.inr ha) (.inr hb) (.inr hc) htag hrsv himm
  simp only [exec_strmCancel, execStrmCancel, runInstr_issues hi, hok, Bool.not_true, Bool.false_eq_true, if_false]
  refine ⟨fun hcur => by simp [hcur, finish], fun x hcur hx hst hpartner => ?_⟩
  obtain ⟨u, hsame, hcancel⟩ := cancelXfer_running (s := s) (k := k) hst
  obtain ⟨y, hy, hcode, hstate⟩ := findXfer_stopXfer ((hsame.findXfer_eq x.id).trans hx) hst 3 0 0
  refine ⟨retireNext s (cancelXfer s k x) k c, y, by simp [hcur, hpartner, finish], by simp, by simpa [hcancel] using hy, hcode, ?_⟩
  rw [hstate, hsame.reqs]

/-- Settles O13: STRM_GO and STRM_FILL by `strmGo_idle`, with the new transfer found by `startXfer_current`; the other instructions by what
they leave of the slot's current transfer (`currentXfer_swapXfer`, `findXfer_stopXfer`). -/
theorem streamInstructions : Obligations.StreamInstructions :=
  ⟨streamSet, streamStart, streamBlocked, streamWait, streamSwap, streamCancel⟩

/-! ### A request whose die is SEVERED (R143) -/

/-- The device in service: context 0 of core 0 runs for partition 0, and its operand buffer begins with a descriptor of one outward
element of 64 bytes for HOST (Table 6.1). -/
def hostDescribed : State :=
  { State.reset with
    regions := vmod State.reset.regions 0 (fun g => { g with owner := some 0, power := .awake })
    parts := vset State.reset.parts 0 { PartCfg.none with live := true, regions := 1 }
    hub := { Hub.reset with phase := .g }
    cores := vmod State.reset.cores 0 (fun m =>
      { m with
        ctx := vmod m.ctx 0 (fun x => { x with st := .running, pc := 64 })
        opbuf := ⟨[(12, 255), (13, 255), (14, 255), (15, 255), (18, 9), (19, 6), (24, 1), (32, 1), (40, 1), (48, 1), (56, 1)], []⟩ }) }

/-- The program starts the transfer, its request goes out, and then a clock of the core's die fails, which severs the die (R344). -/
def writeThenSevered : List Instr :=
  [.strmSet 0 ⟨0, 0, 0, 0, 0, 0⟩, .strmGo 0 ⟨0, 0, 0, 0, 0, 0⟩, .streamRequestIssue 0 false, .clockMonitorWindow 0 [(.fclk, 0)]]

noncomputable def writeSevered : State := writeThenSevered.foldl (fun s i => ran s (exec i s)) hostDescribed

theorem writeSevered_request : (getCore writeSevered 0).reqs = [⟨2, 0, 0, 64, 0, [], 0, 0⟩] := by
  decide +kernel

theorem writeSevered_transfer :
    (findXfer writeSevered 0 0).map (fun x => (x.state, x.desc.out, x.landed)) = some (.run, true, 0) := by
  decide +kernel

/-- The request returns with PEER_ERROR: its transfer ends ABORTED, and none of its bytes has landed. -/
theorem writeSevered_fails :
    (findXfer (ran writeSevered (exec (.streamRequestReturn 0 0 [] false) writeSevered)) 0 0).map
      (fun x => (x.state, x.code, x.landed)) = some (.ended, 2, 0) := by
  decide +kernel

/-- Refutes O14: the first clause of `Claims.StreamReturns` says that a request of a running outward transfer that returns without an error
counts its bytes as landed. It leaves out a HOST request of a core whose die has become SEVERED while the request was in flight: the
model ends this one with PEER_ERROR, as R143 asks, and its bytes do not count. -/
theorem not_streamTransfers : ¬ Obligations.StreamTransfers := by
  unfold Obligations.StreamTransfers Claims.StreamReturns
  rintro ⟨-, hreturns⟩
  obtain ⟨x, hx, hfields⟩ := Option.map_eq_some_iff.1 writeSevered_transfer
  obtain ⟨hstate, hout, hlanded⟩ : x.state = .run ∧ x.desc.out = true ∧ x.landed = 0 := by simpa only [Prod.mk.injEq] using hfields
  obtain ⟨hlands, -, -⟩ := hreturns writeSevered 0
  obtain ⟨t, ht, -, hcounts⟩ := hlands 0 _ x [] (congrArg (·[0]?) writeSevered_request) rfl rfl hx hstate hout
  have hnone := congrArg (Option.map (fun q => q.2.2)) writeSevered_fails
  rw [ht, ran, Option.map_map] at hnone
  have hsame : some (x.landed + 64) = some 0 := hcounts.symm.trans hnone
  rw [hlanded] at hsame
  exact absurd hsame (by decide)

end Sys2Proof.Machine

/-!
PROOFS of family 07_near_slices.md: the parity code (R158 to R160), stores and scrubs (R161 to R164), refresh (R170), the
correctable-error tables and row repairs (R165 to R169, R375), and the checker test mode (R173).
-/

namespace Sys2Proof.Machine

/-! ### Counting the set bits of a syndrome -/

theorem popc_eq_countP {w : Nat} (x : BitVec w) : popc x = (List.range w).countP (fun i => x.getLsbD i) :=
  List.countP_eq_length_filter.symm

theorem popc_zero (w : Nat) : popc (0#w) = 0 := by
  rw [popc_eq_countP, List.countP_eq_zero]
  exact fun i _ => by rw [BitVec.getLsbD_zero]; exact Bool.false_ne_true

/-- Of the numbers below `n`, those that are one of two given ones. -/
theorem countP_range_pair {i j : Nat} (hne : i ≠ j) (n : Nat) :
    (List.range n).countP (fun m => decide (i = m) ^^ decide (j = m)) = (if i < n then 1 else 0) + (if j < n then 1 else 0) := by
  induction n with
  | zero => rfl
  | succ n ih =>
    rw [List.range_succ, List.countP_append, ih, List.countP_singleton]
    grind

theorem countP_range_eq (i n : Nat) : (List.range n).countP (fun m => decide (i = m)) = if i < n then 1 else 0 := by
  induction n with
  | zero => rfl
  | succ n ih =>
    rw [List.range_succ, List.countP_append, ih, List.countP_singleton]
    grind

theorem getLsbD_twoPow_of_lt {w i : Nat} (hi : i < w) (m : Nat) : (BitVec.twoPow w i).getLsbD m = decide (i = m) := by
  rw [BitVec.getLsbD_twoPow, decide_eq_true hi, Bool.true_and]

theorem popc_twoPow {w i : Nat} (hi : i < w) : popc (BitVec.twoPow w i) = 1 := by
  simp only [popc_eq_countP, getLsbD_twoPow_of_lt hi, countP_range_eq, if_pos hi]

theorem popc_twoPow_xor {w i j : Nat} (hi : i < w) (hj : j < w) (hne : i ≠ j) :
    popc (BitVec.twoPow w i ^^^ BitVec.twoPow w j) = 2 := by
  simp only [popc_eq_countP, BitVec.getLsbD_xor, getLsbD_twoPow_of_lt hi, getLsbD_twoPow_of_lt hj, countP_range_pair hne, if_pos hi,
    if_pos hj]

theorem lowBit_twoPow {w i : Nat} (hi : i < w) : lowBit (BitVec.twoPow w i) = i := by
  have hfind : (List.range w).find? (fun j => (BitVec.twoPow w i).getLsbD j) = some i := by
    rw [List.find?_range_eq_some]
    refine ⟨?_, List.mem_range.2 hi, fun j hj => ?_⟩
    · rw [getLsbD_twoPow_of_lt hi, decide_eq_true rfl]
    · rw [getLsbD_twoPow_of_lt hi, decide_eq_false (by omega), Bool.not_false]
  rw [lowBit, hfind, Option.getD_some]

/-! ### The syndromes of disturbed bits (R158) -/

@[simp] theorem synRow_xor (d e : BitVec 72) : synRow (d ^^^ e) = synRow d ^^^ synRow e := BitVec.extractLsb'_xor

@[simp] theorem synCol_xor (d e : BitVec 72) : synCol (d ^^^ e) = synCol d ^^^ synCol e := BitVec.extractLsb'_xor

section
variable {b : Nat}

theorem synRow_upsetDiff_data (hb : b < 512) : synRow (upsetDiff b) = BitVec.twoPow 8 (b / 64) := by
  apply BitVec.eq_of_toNat_eq
  simp only [synRow, upsetDiff, hb, if_true, BitVec.extractLsb'_toNat, BitVec.toNat_ofNat, BitVec.toNat_twoPow, Nat.shiftRight_zero]
  omega

theorem synCol_upsetDiff_data (hb : b < 512) : synCol (upsetDiff b) = BitVec.twoPow 64 (b % 64) := by
  have hrow : 2 ^ (b / 64) ≤ 2 ^ 7 := Nat.pow_le_pow_right (by decide) (by omega)
  have hcol : 2 ^ (b % 64) ≤ 2 ^ 63 := Nat.pow_le_pow_right (by decide) (by omega)
  apply BitVec.eq_of_toNat_eq
  simp only [synCol, upsetDiff, hb, if_true, BitVec.extractLsb'_toNat, BitVec.toNat_ofNat, BitVec.toNat_twoPow,
    Nat.shiftRight_eq_div_pow]
  generalize 2 ^ (b / 64) = r at *
  generalize 2 ^ (b % 64) = c at *
  omega

theorem synRow_upsetDiff_check (hb : 512 ≤ b) : synRow (upsetDiff b) = BitVec.twoPow 8 (b - 512) := by
  apply BitVec.eq_of_toNat_eq
  simp only [synRow, upsetDiff, Nat.not_lt.2 hb, if_false, BitVec.extractLsb'_toNat, BitVec.toNat_ofNat, BitVec.toNat_twoPow,
    Nat.shiftRight_zero]
  omega

theorem synRow_upsetDiff_colCheck (hb : 520 ≤ b) : synRow (upsetDiff b) = 0#8 := by
  rw [synRow_upsetDiff_check (by omega)]
  exact BitVec.eq_of_toNat_eq (BitVec.toNat_twoPow_of_le (by omega))

theorem synCol_upsetDiff_rowCheck (hb : 512 ≤ b) (hb' : b < 520) : synCol (upsetDiff b) = 0#64 := by
  have hpow : 2 ^ (b - 512) ≤ 2 ^ 7 := Nat.pow_le_pow_right (by decide) (by omega)
  apply BitVec.eq_of_toNat_eq
  simp only [synCol, upsetDiff, Nat.not_lt.2 hb, if_false, BitVec.extractLsb'_toNat, BitVec.toNat_ofNat, Nat.shiftRight_eq_div_pow]
  generalize 2 ^ (b - 512) = r at *
  omega

theorem synCol_upsetDiff_colCheck (hb : 520 ≤ b) : synCol (upsetDiff b) = BitVec.twoPow 64 (b - 520) := by
  have hdata : ¬ b < 512 := by omega
  obtain ⟨j, rfl⟩ := Nat.exists_eq_add_of_le hb
  apply BitVec.eq_of_toNat_eq
  have hpow : 2 ^ (520 + j - 512) = 256 * 2 ^ j := by rw [show 520 + j - 512 = 8 + j by omega, Nat.pow_add]
  simp only [synCol, upsetDiff, hdata, if_false, BitVec.extractLsb'_toNat, BitVec.toNat_ofNat, BitVec.toNat_twoPow,
    Nat.shiftRight_eq_div_pow, Nat.add_sub_cancel_left, hpow]
  omega
end

/-! ### Decoding disturbed bits (R159, R160) -/

section
variable {b c : Nat}

theorem decodeSyn_of_popc {d : BitVec 72} {r n : Nat} (hr : popc (synRow d) = r) (hc : popc (synCol d) = n) :
    decodeSyn d = if r = 0 ∧ n = 0 then .clean else if r = 1 ∧ n = 1 then .dataFixed
      else if (r = 1 ∧ n = 0) ∨ (r = 0 ∧ n = 1) then .checkFixed else if r = 8 ∧ n = 64 then .poison else .uncorrectable := by
  subst hr hc; rfl

theorem decodeSyn_data (hb : b < 512) : decodeSyn (upsetDiff b) = .dataFixed := by
  have hr : popc (synRow (upsetDiff b)) = 1 := by rw [synRow_upsetDiff_data hb, popc_twoPow (by omega)]
  have hc : popc (synCol (upsetDiff b)) = 1 := by rw [synCol_upsetDiff_data hb, popc_twoPow (by omega)]
  simp [decodeSyn_of_popc hr hc]

theorem decodeSyn_check (hb : 512 ≤ b) (hb' : b < 584) : decodeSyn (upsetDiff b) = .checkFixed := by
  rcases Nat.lt_or_ge b 520 with h | h
  · have hr : popc (synRow (upsetDiff b)) = 1 := by rw [synRow_upsetDiff_check hb, popc_twoPow (by omega)]
    have hc : popc (synCol (upsetDiff b)) = 0 := by rw [synCol_upsetDiff_rowCheck hb h, popc_zero]
    simp [decodeSyn_of_popc hr hc]
  · have hr : popc (synRow (upsetDiff b)) = 0 := by rw [synRow_upsetDiff_colCheck h, popc_zero]
    have hc : popc (synCol (upsetDiff b)) = 1 := by rw [synCol_upsetDiff_colCheck h, popc_twoPow (by omega)]
    simp [decodeSyn_of_popc hr hc]

/-- The two syndromes of one disturbed data bit name it (Table 7.2). -/
theorem syndromes_name_bit (hb : b < 512) : 64 * lowBit (synRow (upsetDiff b)) + lowBit (synCol (upsetDiff b)) = b := by
  rw [synRow_upsetDiff_data hb, synCol_upsetDiff_data hb, lowBit_twoPow (by omega), lowBit_twoPow (by omega)]
  omega

/-- Two places, or one place twice: an even number of the parities over them is wrong. -/
theorem popc_twoPow_xor_even {w i j : Nat} (hi : i < w) (hj : j < w) :
    popc (BitVec.twoPow w i ^^^ BitVec.twoPow w j) = if i = j then 0 else 2 := by
  split
  · next h => rw [h, BitVec.xor_self, popc_zero]
  · next h => exact popc_twoPow_xor hi hj h

theorem decodeSyn_two_data (hb : b < 512) (hc : c < 512) (hne : b ≠ c) : decodeSyn (upsetDiff b ^^^ upsetDiff c) = .uncorrectable := by
  have hrow : popc (synRow (upsetDiff b ^^^ upsetDiff c)) = if b / 64 = c / 64 then 0 else 2 := by
    rw [synRow_xor, synRow_upsetDiff_data hb, synRow_upsetDiff_data hc, popc_twoPow_xor_even (by omega) (by omega)]
  have hcol : popc (synCol (upsetDiff b ^^^ upsetDiff c)) = if b % 64 = c % 64 then 0 else 2 := by
    rw [synCol_xor, synCol_upsetDiff_data hb, synCol_upsetDiff_data hc, popc_twoPow_xor_even (by omega) (by omega)]
  have hplace : b / 64 = c / 64 → b % 64 ≠ c % 64 := by omega
  rw [decodeSyn_of_popc hrow hcol]
  by_cases hr : b / 64 = c / 64
  · simp [hr, hplace hr]
  · by_cases hm : b % 64 = c % 64 <;> simp [hr, hm]

theorem decodeSyn_data_rowCheck (hb : b < 512) : decodeSyn (upsetDiff b ^^^ upsetDiff (512 + b / 64)) = .checkFixed := by
  have hr : popc (synRow (upsetDiff b ^^^ upsetDiff (512 + b / 64))) = 0 := by
    rw [synRow_xor, synRow_upsetDiff_data hb, synRow_upsetDiff_check (by omega), Nat.add_sub_cancel_left, BitVec.xor_self, popc_zero]
  have hc : popc (synCol (upsetDiff b ^^^ upsetDiff (512 + b / 64))) = 1 := by
    rw [synCol_xor, synCol_upsetDiff_data hb, synCol_upsetDiff_rowCheck (by omega) (by omega), BitVec.xor_zero, popc_twoPow (by omega)]
  simp [decodeSyn_of_popc hr hc]

theorem decodeSyn_data_colCheck (hb : b < 512) : decodeSyn (upsetDiff b ^^^ upsetDiff (520 + b % 64)) = .checkFixed := by
  have hr : popc (synRow (upsetDiff b ^^^ upsetDiff (520 + b % 64))) = 1 := by
    rw [synRow_xor, synRow_upsetDiff_data hb, synRow_upsetDiff_colCheck (by omega), BitVec.xor_zero, popc_twoPow (by omega)]
  have hc : popc (synCol (upsetDiff b ^^^ upsetDiff (520 + b % 64))) = 0 := by
    rw [synCol_xor, synCol_upsetDiff_data hb, synCol_upsetDiff_colCheck (by omega), Nat.add_sub_cancel_left, BitVec.xor_self, popc_zero]
  simp [decodeSyn_of_popc hr hc]
end

/-! ### A disturbance and the read after it (R162, R163) -/

theorem blkDiff_setDiff_self (m : Mem) (l : Tbl (BitVec 72)) (blk : Nat) (d : BitVec 72) : blkDiff ⟨m, setDiff l blk d⟩ blk = d := by
  rw [blkDiff, tget_setDiff, if_pos rfl]

section
variable (m : PMem) (blk b : Nat)

theorem memRead_flipData (a : Nat) : memRead (flipData m blk b) a =
    if a = blk * 64 + b / 8 then memRead m.bytes a ^^^ BitVec.ofNat 8 (2 ^ (b % 8)) else memRead m.bytes a := by
  rw [flipData, memRead_memWrite]
  split
  · next h => rw [h]
  · rfl

theorem pmUpset_bytes_data (hb : b < 512) : (pmUpset m blk b).bytes = flipData m blk b := if_pos hb
theorem pmUpset_bytes_check (hb : 512 ≤ b) : (pmUpset m blk b).bytes = m.bytes := if_neg (Nat.not_lt.2 hb)

theorem blkDiff_pmUpset (x : Nat) : blkDiff (pmUpset m blk b) x = if x = blk then blkDiff m blk ^^^ upsetDiff b else blkDiff m x :=
  tget_setDiff ..

theorem blkDiff_pmUpset_self : blkDiff (pmUpset m blk b) blk = blkDiff m blk ^^^ upsetDiff b := by
  rw [blkDiff_pmUpset, if_pos rfl]
end

section
variable {m : PMem} {blk : Nat}

theorem pmTouch_snd : (pmTouch m blk).2 = decodeSyn (blkDiff m blk) := by
  simp only [pmTouch]
  split <;> next h => exact h.symm

theorem pmTouch_dataFixed (h : decodeSyn (blkDiff m blk) = .dataFixed) : (pmTouch m blk).1 =
    ⟨flipData m blk (64 * lowBit (synRow (blkDiff m blk)) + lowBit (synCol (blkDiff m blk))), setDiff m.diff blk 0⟩ := by
  simp only [pmTouch, h]

theorem pmTouch_checkFixed (h : decodeSyn (blkDiff m blk) = .checkFixed) : (pmTouch m blk).1 = ⟨m.bytes, setDiff m.diff blk 0⟩ := by
  simp only [pmTouch, h]

theorem pmTouch_uncorrectable (h : decodeSyn (blkDiff m blk) = .uncorrectable) :
    (pmTouch m blk).1 = ⟨m.bytes, setDiff m.diff blk poisonDiff⟩ := by
  simp only [pmTouch, h]

variable (m blk) in
/-- Flipping a bit twice gives its byte back. -/
theorem memRead_flipData_pmUpset {b : Nat} (hb : b < 512) (a : Nat) : memRead (flipData (pmUpset m blk b) blk b) a = memRead m.bytes a := by
  rw [memRead_flipData, pmUpset_bytes_data m blk b hb, memRead_flipData]
  split
  · rw [BitVec.xor_assoc, BitVec.xor_self, BitVec.xor_zero]
  · rfl

section
variable {b : Nat} (hclean : blkDiff m blk = 0) (hb : b < 584)
include hclean

theorem blkDiff_pmUpset_clean : blkDiff (pmUpset m blk b) blk = upsetDiff b := by
  rw [blkDiff_pmUpset_self, hclean]
  exact BitVec.zero_xor

include hb

/-- What a read of a block with one disturbed bit decodes. -/
theorem decodeSyn_pmUpset : decodeSyn (blkDiff (pmUpset m blk b) blk) = if b < 512 then .dataFixed else .checkFixed := by
  rw [blkDiff_pmUpset_clean hclean]
  split
  · next h => exact decodeSyn_data h
  · next h => exact decodeSyn_check (by omega) hb

/-- A read restores every byte of a block with one disturbed bit. -/
theorem memRead_pmTouch_pmUpset (a : Nat) : memRead (pmTouch (pmUpset m blk b) blk).1.bytes a = memRead m.bytes a := by
  have hdec := decodeSyn_pmUpset hclean hb
  rcases Nat.lt_or_ge b 512 with h | h
  · rw [if_pos h] at hdec
    rw [pmTouch_dataFixed hdec, blkDiff_pmUpset_clean hclean, syndromes_name_bit h]
    exact memRead_flipData_pmUpset m blk h a
  · rw [if_neg (by omega)] at hdec
    rw [pmTouch_checkFixed hdec, pmUpset_bytes_check m blk b h]

/-- The read leaves the check bits right. -/
theorem blkDiff_pmTouch_pmUpset (x : Nat) : blkDiff (pmTouch (pmUpset m blk b) blk).1 x = blkDiff m x := by
  have hdiff : (pmTouch (pmUpset m blk b) blk).1.diff = setDiff (pmUpset m blk b).diff blk 0 := by
    have hdec := decodeSyn_pmUpset hclean hb
    split at hdec
    · rw [pmTouch_dataFixed hdec]
    · rw [pmTouch_checkFixed hdec]
  rw [blkDiff, hdiff, tget_setDiff]
  split
  · next h => rw [h, hclean]
  · next h => exact (blkDiff_pmUpset m blk b x).trans (if_neg h)
end

variable {b c : Nat} (hclean : blkDiff m blk = 0)
include hclean

theorem blkDiff_pmUpset_pmUpset : blkDiff (pmUpset (pmUpset m blk b) blk c) blk = upsetDiff b ^^^ upsetDiff c := by
  rw [blkDiff_pmUpset_self, blkDiff_pmUpset_clean hclean]

/-- R160: two disturbed data bits poison the block. -/
theorem pmTouch_two_data (hb : b < 512) (hc : c < 512) (hne : b ≠ c) :
    (pmTouch (pmUpset (pmUpset m blk b) blk c) blk).2 = .uncorrectable ∧
      blkDiff (pmTouch (pmUpset (pmUpset m blk b) blk c) blk).1 blk = poisonDiff := by
  have hdec : decodeSyn (blkDiff (pmUpset (pmUpset m blk b) blk c) blk) = .uncorrectable := by
    rw [blkDiff_pmUpset_pmUpset hclean, decodeSyn_two_data hb hc hne]
  refine ⟨pmTouch_snd.trans hdec, ?_⟩
  rw [pmTouch_uncorrectable hdec, blkDiff_setDiff_self]

/-- R160: a data bit together with a parity of its own is taken for a wrong check bit, and its byte stays wrong. -/
theorem pmTouch_data_check (hb : b < 512) (hc : 512 ≤ c) (h : decodeSyn (upsetDiff b ^^^ upsetDiff c) = .checkFixed) :
    (pmTouch (pmUpset (pmUpset m blk b) blk c) blk).2 = .checkFixed ∧
      memRead (pmTouch (pmUpset (pmUpset m blk b) blk c) blk).1.bytes (blk * 64 + b / 8) ≠ memRead m.bytes (blk * 64 + b / 8) := by
  have hdec : decodeSyn (blkDiff (pmUpset (pmUpset m blk b) blk c) blk) = .checkFixed := by rw [blkDiff_pmUpset_pmUpset hclean, h]
  have hbit : BitVec.ofNat 8 (2 ^ (b % 8)) ≠ 0 := by
    have hall : ∀ n : Fin 8, BitVec.ofNat 8 (2 ^ n.val) ≠ 0 := by decide
    exact hall ⟨b % 8, Nat.mod_lt b (by decide)⟩
  refine ⟨pmTouch_snd.trans hdec, ?_⟩
  rw [pmTouch_checkFixed hdec, pmUpset_bytes_check _ _ _ hc, pmUpset_bytes_data _ _ _ hb, memRead_flipData, if_pos rfl]
  exact fun heq => hbit ((BitVec.xor_right_inj _).1 (heq.trans BitVec.xor_zero.symm))
end

/-- Settles O26: the syndromes of the disturbed bits, then Table 7.2. -/
theorem codeCorrectsOneBit : Obligations.CodeCorrectsOneBit := by
  unfold Obligations.CodeCorrectsOneBit
  intro m blk hclean
  refine ⟨fun b hb => ⟨?_, memRead_pmTouch_pmUpset hclean hb, blkDiff_pmTouch_pmUpset hclean hb⟩,
    fun b c hb hc hne => pmTouch_two_data hclean hb hc hne, fun b c hb hc => ?_⟩
  · rw [pmTouch_snd, decodeSyn_pmUpset hclean hb]
  · rcases hc with rfl | rfl
    · exact pmTouch_data_check hclean hb (by omega) (decodeSyn_data_rowCheck hb)
    · exact pmTouch_data_check hclean hb (by omega) (decodeSyn_data_colCheck hb)

/-! ### Stores (R161, R163) -/

theorem memRead_pmStore (m : PMem) (a : Nat) (bs : List Byte) (x : Nat) :
    memRead (pmStore m a bs).bytes x = if h : a ≤ x ∧ x - a < bs.length then bs[x - a] else memRead m.bytes x :=
  memRead_memWriteBytes bs m.bytes a x

/-- A block whose check bits a store renews: the store covers it. -/
theorem storedWhole_iff (a n blk : Nat) : (blk ∈ blocksOf a n ∧ blkWhole a n blk = true) ↔ a ≤ blk * 64 ∧ blk * 64 + 64 ≤ a + n := by
  have hwhole : blkWhole a n blk = true ↔ a ≤ blk * 64 ∧ blk * 64 + 64 ≤ a + n := by simp [blkWhole]
  rw [hwhole, and_iff_right_iff_imp]
  rintro ⟨hfrom, hto⟩
  exact (mem_blocksOf a n blk (by omega)).2 ⟨by omega, by omega⟩

theorem storesAndPoison : Claims.StoresAndPoison := by
  intro m a bs
  refine ⟨fun i hi => ?_, fun x hx => ?_, fun blk => ?_⟩
  · rw [memRead_pmStore, dif_pos ⟨by omega, by omega⟩]
    simp only [Nat.add_sub_cancel_left, List.getElem?_eq_getElem hi]
  · rw [memRead_pmStore, dif_neg (by omega)]
  · rw [blkDiff_pmStore]
    exact ite_congr (propext (storedWhole_iff a bs.length blk)) (fun _ => rfl) (fun _ => rfl)

/-! ### What the shared updates leave of a slice -/

section
variable (s : State) (k j : CoreId)

theorem nearIdx_modRegion {r : RegionId} {f : Region → Region} (h : ∀ g, (f g).fusePhys = g.fusePhys) :
    nearIdx (modRegion s r f) k = nearIdx s k := by
  simp only [nearIdx, getRegion_modRegion]
  split
  · next hr => rw [h, hr]
  · rfl

theorem getNear_modRegion {r : RegionId} {f : Region → Region} (h : ∀ g, (f g).fusePhys = g.fusePhys) :
    getNear (modRegion s r f) k = getNear s k :=
  congrArg (vget s.near) (nearIdx_modRegion s k h)

@[simp] theorem getNear_modNsl (f : NslRegs → NslRegs) : getNear (modNsl s j f) k = getNear s k := rfl
@[simp] theorem getNear_toTops (m : TopsMsg) : getNear (toTops s m) k = getNear s k := rfl
@[simp] theorem getNear_modNear_self (f : Near → Near) : getNear (modNear s k f) k = f (getNear s k) := by
  rw [getNear_modNear, if_pos rfl]

@[simp] theorem getNear_postCet (r : RegionId) (e : CetEv) : getNear (postCet s r e) k = getNear s k :=
  getNear_modRegion s k (fun g => by split <;> rfl)

@[simp] theorem getNear_modCet (r : RegionId) (i : Nat) (f : CetEntry → CetEntry) : getNear (modCet s r i f) k = getNear s k :=
  getNear_modRegion s k (fun _ => rfl)

@[simp] theorem getCore_modNear (f : Near → Near) : getCore (modNear s j f) k = getCore s k := rfl
@[simp] theorem getCore_modRegion (r : RegionId) (f : Region → Region) : getCore (modRegion s r f) k = getCore s k := rfl
@[simp] theorem getCore_postCet (r : RegionId) (e : CetEv) : getCore (postCet s r e) k = getCore s k := rfl
@[simp] theorem getCore_modCet (r : RegionId) (i : Nat) (f : CetEntry → CetEntry) : getCore (modCet s r i f) k = getCore s k := rfl
@[simp] theorem getCore_raiseRec (r : FaultRec) : getCore (raiseRec s r) k = getCore s k := rfl
@[simp] theorem getCore_toTops (m : TopsMsg) : getCore (toTops s m) k = getCore s k := rfl
@[simp] theorem modNsl_nsl (f : NslRegs → NslRegs) : (getCore (modNsl s k f) k).nsl = f (getCore s k).nsl := by
  simp [modNsl]

@[simp] theorem getRegion_modNear (r : RegionId) (f : Near → Near) : getRegion (modNear s k f) r = getRegion s r := rfl
@[simp] theorem getRegion_modNsl (r : RegionId) (f : NslRegs → NslRegs) : getRegion (modNsl s k f) r = getRegion s r := rfl
@[simp] theorem getRegion_raiseRec (r : RegionId) (x : FaultRec) : getRegion (raiseRec s x) r = getRegion s r := rfl

theorem postCet_cetWait {r : RegionId} (e : CetEv) (h : (getRegion s r).cetWait.length < 8) :
    (getRegion (postCet s r e) r).cetWait = (getRegion s r).cetWait ++ [e] := by
  simp [postCet, h]
end

/-! ### Scrub and refresh (R164, R170) -/

/-- The correctable event of a block of a slice (R162, R165). -/
def nearEvent (k : CoreId) (blk : Nat) (d : BitVec 72) : CetEv := ⟨0, localOf k, blk, synRow d, popc (synCol d), lowBit (synCol d), 0⟩

/-- The NSL registers after a read that corrected a block, met a poisoned one, or poisoned one (R174). -/
def notedCorr (n : NslRegs) : NslRegs := { n with evCorr := true, corr := n.corr + 1 }
def notedPoison (n : NslRegs) : NslRegs := { n with evUncorr := true, uncorr := n.uncorr + 1 }
def notedPoisoned (n : NslRegs) : NslRegs := { n with evUncorr := true, evPoisoned := true, uncorr := n.uncorr + 1 }

section
variable (s : State) (k : CoreId) (blk : Nat) (d : BitVec 72)

theorem noteDecode_near_dataFixed :
    noteDecode s k .near blk d .dataFixed = postCet (modNsl s k notedCorr) (regionOf k) (nearEvent k blk d) := rfl

theorem noteDecode_near_checkFixed :
    noteDecode s k .near blk d .checkFixed = postCet (modNsl s k notedCorr) (regionOf k) (nearEvent k blk d) := rfl

theorem noteDecode_near_poison : noteDecode s k .near blk d .poison = modNsl s k notedPoison := rfl

theorem noteDecode_near_uncorrectable : ∃ r, noteDecode s k .near blk d .uncorrectable = raiseRec (modNsl s k notedPoisoned) r := ⟨_, rfl⟩
end

/-- A read of a slice's block that corrects it (R162): the write back, the count, the event. -/
theorem touchBlock_corrected {s : State} {k : CoreId} {blk : Nat} (h : decodeSyn (blkDiff (getNear s k).mem blk) = .dataFixed ∨
    decodeSyn (blkDiff (getNear s k).mem blk) = .checkFixed) :
    (touchBlock s k .near blk).1 =
      postCet (modNsl (modNear s k (fun n => { n with mem := (pmTouch (getNear s k).mem blk).1 })) k notedCorr) (regionOf k)
        (nearEvent k blk (blkDiff (getNear s k).mem blk)) := by
  rw [← pmTouch_snd] at h
  simp only [touchBlock, getSpace]
  rcases h with h | h <;> rw [h] <;> rfl

section
variable (s : State) (k : CoreId)

theorem exec_scrubRead (ups : List Nat) : exec (.scrubRead k ups) s = execScrubRead k ups s := rfl

/-- The slice that a scrub reads after a disturbance of its block. -/
def scrubbed (u : Nat) : State :=
  modNear s k (fun n => { n with mem := pmUpset n.mem (getNear s k).scrub u, scrub := ((getNear s k).scrub + 1) % 2 ^ 24 })

theorem exec_scrubRead_one {u : Nat} (hu : u < 584)
    (hpower : (getRegion s (regionOf k)).power = .awake ∨ (getRegion s (regionOf k)).power = .dozing) :
    exec (.scrubRead k [u]) s = .next (touchBlock (scrubbed s k u) k .near (getNear s k).scrub).1 := by
  simp [exec_scrubRead, execScrubRead, scrubbed, hpower, Nat.mod_eq_of_lt hu]

theorem exec_scrubRead_asleep (ups : List Nat) (hawake : (getRegion s (regionOf k)).power ≠ .awake)
    (hdoze : (getRegion s (regionOf k)).power ≠ .dozing) : exec (.scrubRead k ups) s = .next s := by
  simp [exec_scrubRead, execScrubRead, hawake, hdoze]

theorem exec_nslRefresh (b : Fin 64) : exec (.nslRefresh k b) s = .next (modNear s k (fun n =>
    { n with refresh := tset n.refresh b.val ((tget 0 n.refresh b.val + 1) % 8257) })) := rfl
end

theorem sliceScrubAndRefresh : Claims.SliceScrubAndRefresh := by
  intro s k
  refine ⟨fun u hu hpower hclean hroom => ?_, exec_scrubRead_asleep s k, exec_nslRefresh s k⟩
  have hmem : (getNear (scrubbed s k u) k).mem = pmUpset (getNear s k).mem (getNear s k).scrub u := by simp [scrubbed]
  have hdec : decodeSyn (blkDiff (getNear (scrubbed s k u) k).mem (getNear s k).scrub) = .dataFixed ∨
      decodeSyn (blkDiff (getNear (scrubbed s k u) k).mem (getNear s k).scrub) = .checkFixed := by
    rw [hmem, decodeSyn_pmUpset hclean hu]
    split
    · exact .inl rfl
    · exact .inr rfl
  refine ⟨_, nearEvent k (getNear s k).scrub (blkDiff (getNear (scrubbed s k u) k).mem (getNear s k).scrub), exec_scrubRead_one s k hu hpower, ?_⟩
  rw [touchBlock_corrected hdec, hmem]
  refine ⟨by simp [scrubbed], fun a => ?_, fun x => ?_, ?_, rfl, rfl, rfl, by simp [scrubbed, notedCorr], by simp [notedCorr]⟩
  · simpa using memRead_pmTouch_pmUpset hclean hu a
  · simpa using blkDiff_pmTouch_pmUpset hclean hu x
  · exact postCet_cetWait _ _ hroom

/-- Settles O27: a store by its blocks, a scrub by the read of a block with one disturbed bit. -/
theorem localMemories : Obligations.LocalMemories := ⟨storesAndPoison, sliceScrubAndRefresh⟩

/-! ### The table of correctable errors (R165) -/

section
variable {t : Vector CetEntry 16} {e : CetEv} {i : Fin 16}

/-- The event names the location of the entry. -/
def namesEntry (e : CetEv) (x : CetEntry) : Prop := x.valid = true ∧ x.kind = e.kind ∧ x.loc = e.loc ∧ x.addr = e.addr

/-- The entry with the syndrome of its last event. -/
def withSyndrome (e : CetEv) (x : CetEntry) : CetEntry := { x with sr := e.sr, scW := e.scW, scF := e.scF }

/-- The only entry of a location is the one that the table finds. -/
theorem findIdx?_entry (hi : namesEntry e (vget t i)) (hother : ∀ j : Fin 16, j ≠ i → ¬ namesEntry e (vget t j)) :
    t.toList.findIdx? (fun x => x.valid && x.kind = e.kind && x.loc = e.loc && x.addr = e.addr) = some i.val := by
  rw [List.findIdx?_eq_some_iff_getElem]
  refine ⟨by simp, ?_, fun j hj => ?_⟩
  · simpa [namesEntry, vget, and_assoc] using hi
  · have hji : (⟨j, by omega⟩ : Fin 16) ≠ i := fun h => by simp [← h] at hj
    simpa [namesEntry, vget, and_assoc] using hother _ hji

theorem getD_toList (t : Vector CetEntry 16) (i : Fin 16) (d : CetEntry) : t.toList.getD i.val d = vget t i := by
  simp [vget]

/-- R165, steps 1 and 2: an event at a location whose entry is not LASTING. -/
theorem cetUpdate_entry (hi : namesEntry e (vget t i)) (hother : ∀ j : Fin 16, j ≠ i → ¬ namesEntry e (vget t j))
    (hlast : (vget t i).lasting = false) :
    cetUpdate t e =
      if (vget t i).age < 2 ^ 20 then
        some (vset t i (withSyndrome e { vget t i with
          count := min 255 ((vget t i).count + 1), lasting := decide (3 ≤ min 255 ((vget t i).count + 1)) }),
          if min 255 ((vget t i).count + 1) = 3 then some i.val else none)
      else some (vset t i (withSyndrome e { vget t i with count := 1, age := 0 }), none) := by
  simp only [cetUpdate, findIdx?_entry hi hother, getD_toList, hlast, Fin.ofNat_val_eq_self]
  rfl
end

theorem correctableTable : Claims.CorrectableTable := by
  intro t e i hvalid hkind hloc haddr hother hlast
  have hupd := cetUpdate_entry ⟨hvalid, hkind, hloc, haddr⟩ hother hlast
  by_cases hage : (vget t i).age < 2 ^ 20
  · rw [if_pos hage] at hupd
    have hthree : min 255 ((vget t i).count + 1) = 3 ↔ (vget t i).count = 2 := by omega
    have hfrom : 3 ≤ min 255 ((vget t i).count + 1) ↔ 2 ≤ (vget t i).count := by omega
    refine ⟨_, _, hupd, fun j hj => by rw [vget_vset, if_neg hj], ?_⟩
    rw [if_pos hage, vget_vset_self]
    simp [withSyndrome, hthree, hfrom]
  · rw [if_neg hage] at hupd
    refine ⟨_, _, hupd, fun j hj => by rw [vget_vset, if_neg hj], ?_⟩
    rw [if_neg hage, vget_vset_self]
    simp [withSyndrome, hlast]

/-! ### What a read of a slice leaves (R162, R163) -/

/-- What the reads of a slice's blocks reach: the core's own, and of the slice and its registers neither the repairs nor what they use. -/
structure readsSlice (k : CoreId) (s t : State) : Prop where
  own : onlyCore k s t
  moved : (getNear t k).moved = (getNear s k).moved
  used : (getNear t k).used = (getNear s k).used
  copies : (getNear t k).copies = (getNear s k).copies
  evRepaired : (getCore t k).nsl.evRepaired = (getCore s k).nsl.evRepaired
  repairs : (getCore t k).nsl.repairs = (getCore s k).nsl.repairs

section
variable {k : CoreId} {s t u : State}

theorem readsSlice.refl (k : CoreId) (s : State) : readsSlice k s s := ⟨.refl k s, rfl, rfl, rfl, rfl, rfl⟩

theorem readsSlice.trans (h : readsSlice k s t) (g : readsSlice k t u) : readsSlice k s u :=
  ⟨h.own.trans g.own, g.moved.trans h.moved, g.used.trans h.used, g.copies.trans h.copies, g.evRepaired.trans h.evRepaired,
    g.repairs.trans h.repairs⟩

theorem readsSlice.cet (h : readsSlice k s t) : (getRegion t (regionOf k)).cet = (getRegion s (regionOf k)).cet := by
  simpa using congrArg Region.cet h.own.own

theorem readsSlice.sec (h : readsSlice k s t) : t.sec = s.sec := by
  simpa using congrArg State.sec h.own.rest

theorem readsSlice.setMem (m : PMem) : readsSlice k s (setSpace s k .near m) := by
  refine ⟨.setSpace .near m, ?_, ?_, ?_, rfl, rfl⟩ <;> simp [setSpace]

theorem readsSlice.modNsl (f : NslRegs → NslRegs) (hev : ∀ n, (f n).evRepaired = n.evRepaired) (hrep : ∀ n, (f n).repairs = n.repairs) :
    readsSlice k s (modNsl s k f) :=
  ⟨.modNsl f, rfl, rfl, rfl, by rw [modNsl_nsl, hev], by rw [modNsl_nsl, hrep]⟩

theorem readsSlice.postCet (e : CetEv) : readsSlice k s (postCet s (regionOf k) e) := by
  refine ⟨.postCet e, ?_, ?_, ?_, rfl, rfl⟩ <;> rw [getNear_postCet]

theorem readsSlice.raiseRec (r : FaultRec) : readsSlice k s (raiseRec s r) := ⟨.raiseRec r, rfl, rfl, rfl, rfl, rfl⟩

theorem readsSlice.noteDecode (blk : Nat) (d : BitVec 72) (o : Decode) : readsSlice k s (noteDecode s k .near blk d o) := by
  cases o with
  | clean => exact .refl k s
  | dataFixed => rw [noteDecode_near_dataFixed]; exact .trans (.modNsl notedCorr (fun _ => rfl) (fun _ => rfl)) (.postCet _)
  | checkFixed => rw [noteDecode_near_checkFixed]; exact .trans (.modNsl notedCorr (fun _ => rfl) (fun _ => rfl)) (.postCet _)
  | poison => rw [noteDecode_near_poison]; exact .modNsl notedPoison (fun _ => rfl) (fun _ => rfl)
  | uncorrectable =>
    obtain ⟨r, hr⟩ := noteDecode_near_uncorrectable s k blk d
    rw [hr]
    exact .trans (.modNsl notedPoisoned (fun _ => rfl) (fun _ => rfl)) (.raiseRec r)

theorem readsSlice.touchBlock (blk : Nat) : readsSlice k s (touchBlock s k .near blk).1 := by
  simp only [Machine.touchBlock]
  split
  · exact .refl k s
  · exact .noteDecode _ _ _
  · exact .trans (.setMem _) (.noteDecode _ _ _)
  · exact .trans (.setMem _) (.noteDecode _ _ _)

theorem readsSlice.touchBlocks (bs : List Nat) : readsSlice k s (touchBlocks s k .near bs).1 := by
  suffices h : ∀ p : State × Bool, readsSlice k p.1
      (bs.foldl (fun (p : State × Bool) b => let r := Machine.touchBlock p.1 k .near b; (r.1, p.2 && r.2)) p).1 from h (s, true)
  induction bs with
  | nil => exact fun p => .refl k p.1
  | cons b bs ih =>
    intro p
    exact (readsSlice.touchBlock b).trans (ih ((Machine.touchBlock p.1 k .near b).1, p.2 && (Machine.touchBlock p.1 k .near b).2))
end

/-! ### Row repairs (R167, R168) -/

section
variable (s : State) (k : CoreId) (c : NearCopy)

theorem modCet_entry (r : RegionId) (i : Nat) (f : CetEntry → CetEntry) :
    vget (getRegion (modCet s r i f) r).cet (Fin.ofNat 16 i) = f (vget (getRegion s r).cet (Fin.ofNat 16 i)) := by
  simp [modCet, vget_vmod]

/-- The copy of a row before it reads its blocks (R167 step 2). -/
def copyMarked : State :=
  modNear (modCet s (regionOf k) c.entry (fun e => { e with action := 2 })) k
    (fun n => { n with copies := updIf (fun x => x.bank = c.bank && x.spare = c.spare) (fun x => { x with started := true }) n.copies })

/-- A copy reads its row, and no more. -/
theorem startRowCopy_reads : readsSlice k (copyMarked s k c) (startRowCopy s k c) := .touchBlocks _

theorem startRowCopy_moved : (getNear (startRowCopy s k c) k).moved = (getNear s k).moved := by
  simpa [copyMarked] using (startRowCopy_reads s k c).moved

theorem startRowCopy_used : (getNear (startRowCopy s k c) k).used = (getNear s k).used := by
  simpa [copyMarked] using (startRowCopy_reads s k c).used

theorem startRowCopy_copies_length : (getNear (startRowCopy s k c) k).copies.length = (getNear s k).copies.length := by
  simpa [copyMarked, updIf] using congrArg List.length (startRowCopy_reads s k c).copies

theorem startRowCopy_evRepaired : (getCore (startRowCopy s k c) k).nsl.evRepaired = (getCore s k).nsl.evRepaired := by
  simpa [copyMarked] using (startRowCopy_reads s k c).evRepaired

theorem startRowCopy_repairs : (getCore (startRowCopy s k c) k).nsl.repairs = (getCore s k).nsl.repairs := by
  simpa [copyMarked] using (startRowCopy_reads s k c).repairs

theorem startRowCopy_sec : (startRowCopy s k c).sec = s.sec := (startRowCopy_reads s k c).sec

/-- The copy's entry is IN_PROGRESS. -/
theorem startRowCopy_entry : vget (getRegion (startRowCopy s k c) (regionOf k)).cet (Fin.ofNat 16 c.entry) =
    { vget (getRegion s (regionOf k)).cet (Fin.ofNat 16 c.entry) with action := 2 } := by
  rw [(startRowCopy_reads s k c).cet, copyMarked, getRegion_modNear, modCet_entry]

/-- A repair that has taken its spare row (R167 step 1). -/
def spareTaken (i blk sp : Nat) : State :=
  modCet (modNear s k (fun x => { x with
      copies := x.copies ++ [⟨i, bankOfBlock blk, rowOfBlock blk, sp, false⟩], used := (bankOfBlock blk * 64 + sp) :: x.used }))
    (regionOf k) i (fun e => { e with action := 1, spare := sp })

theorem spareTaken_used (i blk sp : Nat) :
    (getNear (spareTaken s k i blk sp) k).used = (bankOfBlock blk * 64 + sp) :: (getNear s k).used := by
  simp [spareTaken]

theorem spareTaken_entry (i blk sp : Nat) : vget (getRegion (spareTaken s k i blk sp) (regionOf k)).cet (Fin.ofNat 16 i) =
    { vget (getRegion s (regionOf k)).cet (Fin.ofNat 16 i) with action := 1, spare := sp } := by
  rw [spareTaken, modCet_entry, getRegion_modNear]

theorem startRowRepair_spare {i blk sp : Nat} (h : freeSpare (getNear s k) (bankOfBlock blk) = some sp) :
    startRowRepair s k i blk =
      if (getNear s k).copies.any (fun x => x.bank = bankOfBlock blk) then spareTaken s k i blk sp
      else startRowCopy (spareTaken s k i blk sp) k ⟨i, bankOfBlock blk, rowOfBlock blk, sp, false⟩ := by
  simp only [startRowRepair, h]
  rfl

theorem startRowRepair_used {i blk sp : Nat} (h : freeSpare (getNear s k) (bankOfBlock blk) = some sp) :
    (getNear (startRowRepair s k i blk) k).used = (bankOfBlock blk * 64 + sp) :: (getNear s k).used := by
  rw [startRowRepair_spare s k h]
  split
  · exact spareTaken_used s k i blk sp
  · rw [startRowCopy_used, spareTaken_used]

/-- The entry of a repair that has its spare row: it waits while its bank copies another row. -/
theorem startRowRepair_entry {i blk sp : Nat} (h : freeSpare (getNear s k) (bankOfBlock blk) = some sp) :
    vget (getRegion (startRowRepair s k i blk) (regionOf k)).cet (Fin.ofNat 16 i) =
      { vget (getRegion s (regionOf k)).cet (Fin.ofNat 16 i) with
        action := if (getNear s k).copies.any (fun x => x.bank = bankOfBlock blk) then 1 else 2, spare := sp } := by
  rw [startRowRepair_spare s k h]
  split
  · exact spareTaken_entry s k i blk sp
  · rw [startRowCopy_entry, spareTaken_entry]

theorem startRowRepair_noSpare {i blk : Nat} (h : freeSpare (getNear s k) (bankOfBlock blk) = none) :
    startRowRepair s k i blk = retireFailed (modNsl (modCet s (regionOf k) i (fun e => { e with action := 4 })) k
      (fun x => { x with evNoSpare := true })) k 0 := by
  simp only [startRowRepair, h]

theorem startRowRepair_noSpare_entry {i blk : Nat} (h : freeSpare (getNear s k) (bankOfBlock blk) = none) :
    vget (getRegion (startRowRepair s k i blk) (regionOf k)).cet (Fin.ofNat 16 i) =
      { vget (getRegion s (regionOf k)).cet (Fin.ofNat 16 i) with action := 4 } := by
  rw [startRowRepair_noSpare s k h, retireFailed, getRegion_raiseRec, getRegion_modNsl, modCet_entry]

theorem startRowRepair_noSpare_event {i blk : Nat} (h : freeSpare (getNear s k) (bankOfBlock blk) = none) :
    (getCore (startRowRepair s k i blk) k).nsl.evNoSpare = true := by
  rw [startRowRepair_noSpare s k h, retireFailed, getCore_raiseRec, modNsl_nsl]

/-- The failed retirement is raised to the region (R168). -/
theorem startRowRepair_noSpare_record {i blk : Nat} (h : freeSpare (getNear s k) (bankOfBlock blk) = none) :
    ∃ x, (startRowRepair s k i blk).flt.waiting = s.flt.waiting ++ [x] ∧ x.cls = 0x22 ∧ x.detail = 0 := by
  rw [startRowRepair_noSpare s k h]
  exact ⟨_, rfl, rfl, rfl⟩
end

/-! ### CET_EVENT (R165, R166) -/

theorem regionOf_coreOf_local : ∀ (r : RegionId) (l : Fin 4), regionOf (coreOf r.val l.val) = r := by decide

section
variable (s : State) (r : RegionId) (es : List CetEv) (t : Vector CetEntry 16)

/-- The region has taken its oldest event into its table. -/
def cetStored : State := modRegion s r (fun g => { g with cetWait := es, cet := t })

theorem getNear_cetStored (k : CoreId) : getNear (cetStored s r es t) k = getNear s k := getNear_modRegion s k (fun _ => rfl)
end

section
variable {s : State} {r : RegionId} {e : CetEv} {es : List CetEv} (hwait : (getRegion s r).cetWait = e :: es)

theorem modRegion_modRegion (s : State) (r : RegionId) (f g : Region → Region) :
    modRegion (modRegion s r f) r g = modRegion s r (fun x => g (f x)) := by
  simp [modRegion, vmod, vset_vset]

include hwait

theorem exec_cetEvent : exec (.cetEvent r []) s = .next (cetTake (modRegion s r (fun g => { g with cetWait := es })) r e) := by
  change execCetEvent r [] s = _
  simp [execCetEvent, hwait]

theorem exec_cetEvent_lost (h : cetUpdate (getRegion s r).cet e = none) :
    exec (.cetEvent r []) s = .next (modRegion s r (fun g => { g with cetWait := es, cetLost := g.cetLost + 1 })) := by
  simp [exec_cetEvent hwait, cetTake, h, modRegion_modRegion]

theorem exec_cetEvent_taken {t : Vector CetEntry 16} (h : cetUpdate (getRegion s r).cet e = some (t, none)) :
    exec (.cetEvent r []) s = .next (modRegion s r (fun g => { g with cetWait := es, cet := t })) := by
  simp [exec_cetEvent hwait, cetTake, h, modRegion_modRegion]

/-- A near-slice entry that becomes LASTING starts the repair of its row. -/
theorem exec_cetEvent_lasting {t : Vector CetEntry 16} {i : Nat} (h : cetUpdate (getRegion s r).cet e = some (t, some i)) (hkind : e.kind = 0) :
    exec (.cetEvent r []) s = .next (startRowRepair (cetStored s r es t) (coreOf r.val e.loc) i e.addr) := by
  simp [exec_cetEvent hwait, cetTake, h, modRegion_modRegion, startRetirement, hkind, cetStored]
end

theorem cetEvents : Claims.CetEvents := by
  intro s r e es hwait
  refine ⟨exec_cetEvent_lost hwait, fun t => exec_cetEvent_taken hwait, fun t i sp hupd _ hkind hloc hspare => ?_,
    fun t i hupd _ hkind hloc hspare => ?_⟩
  · have hregion : regionOf (coreOf r.val e.loc) = r := regionOf_coreOf_local r ⟨e.loc, hloc⟩
    rw [← getNear_cetStored s r es t] at hspare ⊢
    have hentry := startRowRepair_entry (i := i) _ _ hspare
    rw [hregion] at hentry
    exact ⟨_, exec_cetEvent_lasting hwait hupd hkind, by rw [hentry], startRowRepair_used _ _ hspare, by rw [hentry]⟩
  · have hregion : regionOf (coreOf r.val e.loc) = r := regionOf_coreOf_local r ⟨e.loc, hloc⟩
    rw [← getNear_cetStored s r es t] at hspare
    have hentry := startRowRepair_noSpare_entry (i := i) _ _ hspare
    rw [hregion] at hentry
    obtain ⟨x, hrecord⟩ := startRowRepair_noSpare_record (i := i) _ _ hspare
    exact ⟨_, x, exec_cetEvent_lasting hwait hupd hkind, by rw [hentry], startRowRepair_noSpare_event _ _ hspare, hrecord⟩

/-! ### The ends of repairs (R167, R169, R375) -/

section
variable (s : State) (k : CoreId) (i : Nat) (c : NearCopy)

theorem exec_nslRowRepairDone : exec (.nslRowRepairDone k i) s = execNslRowRepairDone k i s := rfl

/-- A repair that has redirected its row (R167 step 3), before the next one of its bank starts. -/
def rowRedirected : State :=
  toTops (modNsl (modCet (modNear s k (fun n =>
        { n with copies := n.copies.eraseIdx i, moved := tset n.moved (c.bank * 8192 + c.row) c.spare })) (regionOf k) c.entry
      (fun e => { e with action := 3 })) k (fun x => { x with evRepaired := true, repairs := x.repairs + 1 }))
    (.repair (.nearRow (regionOf k).val (physOfCore s k) (c.bank / 16) (c.bank % 16) c.row))

variable {s k i c}

theorem exec_nslRowRepairDone_started (hc : (getNear s k).copies[i]? = some c) (hstarted : c.started = true) :
    ∃ t, exec (.nslRowRepairDone k i) s = .next t ∧ (t = rowRedirected s k i c ∨ ∃ d, t = startRowCopy (rowRedirected s k i c) k d) := by
  simp only [exec_nslRowRepairDone, execNslRowRepairDone, hc, hstarted, Bool.not_true, Bool.false_eq_true, if_false]
  split
  · exact ⟨_, rfl, .inr ⟨_, rfl⟩⟩
  · exact ⟨_, rfl, .inl rfl⟩

theorem exec_nslRowRepairDone_waiting (hc : (getNear s k).copies[i]? = some c) (hwaits : c.started = false) :
    exec (.nslRowRepairDone k i) s = .next s := by
  simp [exec_nslRowRepairDone, execNslRowRepairDone, hc, hwaits]

theorem rowRedirected_moved : tget 0 (getNear (rowRedirected s k i c) k).moved (c.bank * 8192 + c.row) = c.spare := by
  simp [rowRedirected, tget_tset]

theorem rowRedirected_copies_length (hc : (getNear s k).copies[i]? = some c) :
    (getNear (rowRedirected s k i c) k).copies.length + 1 = (getNear s k).copies.length := by
  obtain ⟨hi, -⟩ := List.getElem?_eq_some_iff.1 hc
  have hcopies : (getNear (rowRedirected s k i c) k).copies = (getNear s k).copies.eraseIdx i := by simp [rowRedirected]
  rw [hcopies, List.length_eraseIdx, if_pos hi]
  omega

theorem rowRedirected_evRepaired : (getCore (rowRedirected s k i c) k).nsl.evRepaired = true := by simp [rowRedirected]

theorem rowRedirected_repairs : (getCore (rowRedirected s k i c) k).nsl.repairs = (getCore s k).nsl.repairs + 1 := by
  simp [rowRedirected]

theorem rowRedirected_out : (rowRedirected s k i c).sec.out =
    s.sec.out ++ [.repair (.nearRow (regionOf k).val (physOfCore s k) (c.bank / 16) (c.bank % 16) c.row)] := rfl

theorem exec_sramRowRetireDone {c : RowCopy} (hc : (getCore s k).copies[i]? = some c) :
    exec (.sramRowRetireDone k i) s = .next (toTops
      (modCore s k (fun m => { m with copies := m.copies.eraseIdx i, retired := m.retired ++ [c] }))
      (.repair (.sramRow (regionOf k).val (physOfCore s k) c.kind c.row))) := by
  change execSramRowRetireDone k i s = _
  simp only [execSramRowRetireDone, hc]
end

theorem rowRepairs : Claims.RowRepairs := by
  intro s k i
  refine ⟨fun c hc hstarted => ?_, fun c hc hwaits => exec_nslRowRepairDone_waiting hc hwaits, fun c hc => exec_sramRowRetireDone hc⟩
  obtain ⟨t, hexec, rfl | ⟨d, rfl⟩⟩ := exec_nslRowRepairDone_started hc hstarted
  · exact ⟨_, hexec, rowRedirected_moved, rowRedirected_evRepaired, rowRedirected_repairs, rowRedirected_copies_length hc, rowRedirected_out⟩
  · refine ⟨_, hexec, ?_⟩
    rw [startRowCopy_moved, startRowCopy_evRepaired, startRowCopy_repairs, startRowCopy_copies_length, startRowCopy_sec]
    exact ⟨rowRedirected_moved, rowRedirected_evRepaired, rowRedirected_repairs, rowRedirected_copies_length hc, rowRedirected_out⟩

/-! ### The checker test mode (R173) -/

section
variable (s : State) (k : CoreId) (l : Fin 4) (b : Fin 16) (x : Fin 32)

theorem exec_nslWriteRaw : exec (.nslWriteRaw k l b x) s = .next (testCommand s k 1 l.val b.val x.val) := rfl
theorem exec_nslReadRaw : exec (.nslReadRaw k l b x) s = .next (testCommand s k 2 l.val b.val x.val) := rfl
theorem exec_nslReadChecked : exec (.nslReadChecked k l b x) s = .next (testCommand s k 3 l.val b.val x.val) := rfl

/-- A region after a wake event (R338). -/
def woken (g : Region) : Region :=
  if ownerHeld g then g
  else if g.power = .dozing then { g with wakeFrom := .dozing, power := .waking }
  else if g.power = .asleep then { g with wakeFrom := .asleep, power := .waking, wakes := g.wakes + 1 }
  else g

theorem wakeRegion_eq (r : RegionId) : wakeRegion s r = modRegion s r woken := rfl

theorem woken_fusePhys (g : Region) : (woken g).fusePhys = g.fusePhys := by
  unfold woken
  repeat' split
  all_goals rfl

theorem woken_owner (g : Region) : (woken g).owner = g.owner := by
  unfold woken
  repeat' split
  all_goals rfl

/-- No slice of a region that was Awake or Dozing is in self-refresh when a command has woken it. -/
theorem woken_refreshed {g : Region} (h : g.power = .awake ∨ g.power = .dozing) :
    ¬ ((woken g).power = .asleep ∨ (woken g).power = .waking ∧ (woken g).wakeFrom = .asleep) := by
  by_cases hheld : ownerHeld g = true <;> rcases h with h | h <;> simp [woken, hheld, h]

/-- NSL_TCTL written, on a region that the command wakes. -/
def testSelected : State :=
  modNsl (wakeRegion s (regionOf k)) k (fun n =>
    { n with layer := BitVec.ofNat 2 l.val, bank := BitVec.ofNat 4 b.val, block := BitVec.ofNat 5 x.val })

@[simp] theorem getNear_testSelected : getNear (testSelected s k l b x) k = getNear s k := by
  rw [testSelected, getNear_modNsl, wakeRegion_eq, getNear_modRegion s k woken_fusePhys]

theorem testSelected_nsl : (getCore (testSelected s k l b x) k).nsl =
    { (getCore s k).nsl with layer := BitVec.ofNat 2 l.val, bank := BitVec.ofNat 4 b.val, block := BitVec.ofNat 5 x.val } := by
  rw [testSelected, modNsl_nsl, wakeRegion_eq, getCore_modRegion]

theorem partOfCore_wakeRegion : partOfCore (wakeRegion s (regionOf k)) k = partOfCore s k := by
  rw [wakeRegion_eq, partOfCore, partOfRegion, modRegion_region, woken_owner]; rfl

variable {s k}

/-- In an owned region a command is REFUSED. -/
theorem testCommand_owned {cmd : Nat} (hdone : (getCore s k).nsl.done = true) (hpart : partOfCore s k ≠ none) :
    testCommand s k cmd l.val b.val x.val = modNsl (testSelected s k l b x) k (fun n => { n with outcome := 7, done := true }) := by
  have hsome : (partOfCore (wakeRegion s (regionOf k)) k).isSome = true := by
    rw [partOfCore_wakeRegion, Option.isSome_iff_ne_none]; exact hpart
  have hdone' : (getCore (wakeRegion s (regionOf k)) k).nsl.done = true := hdone
  simp only [testCommand, hdone', hsome]
  rfl

/-- In an unowned region whose slices are not in self-refresh it is carried out. -/
theorem testCommand_unowned {cmd : Nat} (hdone : (getCore s k).nsl.done = true) (hpart : partOfCore s k = none)
    (hpower : (getRegion s (regionOf k)).power = .awake ∨ (getRegion s (regionOf k)).power = .dozing) :
    testCommand s k cmd l.val b.val x.val = testRun (testSelected s k l b x) k cmd (testBlock l.val b.val x.val) := by
  have hnone : (partOfCore (wakeRegion s (regionOf k)) k).isSome = false := by rw [partOfCore_wakeRegion, hpart]; rfl
  have hdone' : (getCore (wakeRegion s (regionOf k)) k).nsl.done = true := hdone
  have hfresh := woken_refreshed hpower
  rw [← modRegion_region s (regionOf k) woken, ← wakeRegion_eq] at hfresh
  simp only [testCommand, hdone', hnone, Bool.not_true, Bool.false_eq_true, if_false]
  rw [if_neg (by simpa using hfresh)]
  rfl
end

theorem memReadBytes_memWriteBytes (m : Mem) (a : Nat) (bs : List Byte) : memReadBytes (memWriteBytes m a bs) a bs.length = bs := by
  apply List.ext_getElem
  · simp [memReadBytes]
  · intro i _ hi
    simp [memReadBytes, memRead_memWriteBytes, hi]

theorem regsData_length (n : NslRegs) : (regsData n).length = 64 := by
  rw [regsData, List.length_flatMap]
  simp only [length_leBytes, List.map_const', List.sum_replicate_nat, Vector.length_toList]

section
variable (s : State) (k : CoreId) (blk : Nat)

/-- WRITE_RAW stores the data registers. -/
theorem testRun_write_data : memReadBytes (getNear (testRun s k 1 blk) k).mem.bytes (blk * 64) 64 = regsData (getCore s k).nsl := by
  have hread := memReadBytes_memWriteBytes (getNear s k).mem.bytes (blk * 64) (regsData (getCore s k).nsl)
  rw [regsData_length] at hread
  simpa [testRun] using hread

/-- WRITE_RAW stores the check registers. -/
theorem testRun_write_check : storedChecks (getNear (testRun s k 1 blk) k).mem blk = regsCheck (getCore s k).nsl := by
  have hdiff : blkDiff (getNear (testRun s k 1 blk) k).mem blk = checkBits (regsData (getCore s k).nsl) ^^^ regsCheck (getCore s k).nsl := by
    simp [testRun, blkDiff_setDiff_self]
  rw [storedChecks, testRun_write_data, hdiff, ← BitVec.xor_assoc, BitVec.xor_self, BitVec.zero_xor]

theorem testRun_write_done : (getCore (testRun s k 1 blk) k).nsl.done = true := by simp [testRun]

/-- The NSL registers after a test read that gives the data `bs`. -/
def testReadRegs (m : PMem) (bs : List Byte) (n : NslRegs) : NslRegs :=
  testResult { n with tdata := dataWords bs, tchk := checkWords (storedChecks m blk), test := none } (blkDiff m blk)

theorem testRun_readRaw : testRun s k 2 blk =
    modNsl s k (testReadRegs blk (getNear s k).mem (memReadBytes (getNear s k).mem.bytes (blk * 64) 64)) := rfl

theorem freeBlock_near : (freeBlock s).1.near = s.near :=
  List.foldlRecOn (motive := fun p : State × List Byte => p.1.near = s.near) (List.range 8) _ rfl (fun _ h _ _ => h)

/-- READ_CHECKED: of a block that its read can use, the corrected data; of another, free values (log 23). -/
theorem testRun_readChecked : ∃ s' bs, testRun s k 3 blk = modNsl s' k (testReadRegs blk (getNear s k).mem bs) ∧ s'.near = s.near ∧
    (decodeSyn (blkDiff (getNear s k).mem blk) ≠ .poison → decodeSyn (blkDiff (getNear s k).mem blk) ≠ .uncorrectable →
      bs = memReadBytes (pmTouch (getNear s k).mem blk).1.bytes (blk * 64) 64) := by
  by_cases hbad : decodeSyn (blkDiff (getNear s k).mem blk) = .poison ∨ decodeSyn (blkDiff (getNear s k).mem blk) = .uncorrectable
  · refine ⟨(freeBlock s).1, (freeBlock s).2, ?_, freeBlock_near s, fun hpoison huncorr => absurd hbad (by simp [hpoison, huncorr])⟩
    simp only [testRun, Nat.reduceEqDiff, if_false, decide_true, Bool.true_and, Bool.or_eq_true, beq_iff_eq, hbad, if_true] <;> rfl
  · refine ⟨s, _, ?_, rfl, fun _ _ => rfl⟩
    simp only [testRun, Nat.reduceEqDiff, if_false, decide_true, Bool.true_and, Bool.or_eq_true, beq_iff_eq, hbad, if_true] <;> rfl
end

theorem testMode : Claims.TestMode := by
  intro s k l b x hdone
  refine ⟨fun hpart c hc => ?_, fun hpart hpower => ?_⟩
  · have hrefused : ∃ cmd, exec c s = .next (testCommand s k cmd l.val b.val x.val) := by
      simp only [List.mem_cons, List.not_mem_nil, or_false] at hc
      rcases hc with rfl | rfl | rfl
      · exact ⟨1, exec_nslWriteRaw ..⟩
      · exact ⟨2, exec_nslReadRaw ..⟩
      · exact ⟨3, exec_nslReadChecked ..⟩
    obtain ⟨cmd, hexec⟩ := hrefused
    rw [testCommand_owned l b x hdone hpart] at hexec
    exact ⟨_, hexec, by rw [modNsl_nsl], by rw [modNsl_nsl], rfl⟩
  · have hrun := fun cmd => testCommand_unowned (cmd := cmd) l b x hdone hpart hpower
    have hblock : testBlock l.val b.val x.val = 2 ^ 24 + (l.val * 16 + b.val) * 32 + x.val := rfl
    have hselected := testSelected_nsl s k l b x
    refine ⟨⟨_, (exec_nslWriteRaw s k l b x).trans (by rw [hrun]), ?_, ?_, ?_⟩,
      ⟨_, (exec_nslReadRaw s k l b x).trans (by rw [hrun]), ?_⟩, ?_⟩
    · exact testRun_write_done ..
    · rw [← hblock, testRun_write_data, hselected]; rfl
    · rw [← hblock, testRun_write_check, hselected]; rfl
    · rw [testRun_readRaw, modNsl_nsl, getNear_testSelected]
      exact ⟨rfl, rfl, rfl, rfl, rfl⟩
    · obtain ⟨s', bs, hread, hnear, hdata⟩ := testRun_readChecked (testSelected s k l b x) k (testBlock l.val b.val x.val)
      rw [getNear_testSelected] at hread hdata
      refine ⟨_, (exec_nslReadChecked s k l b x).trans (by rw [hrun, hread]), ?_⟩
      rw [modNsl_nsl]
      exact ⟨rfl, hnear, rfl, fun hpoison huncorr => congrArg dataWords (hdata hpoison huncorr)⟩

/-- Settles O28: the table's update, the start and the end of a row repair, and the test commands, each by its own rule. -/
theorem correctableErrors : Obligations.CorrectableErrors := ⟨correctableTable, cetEvents, rowRepairs, testMode⟩

end Sys2Proof.Machine
